-- ==== Sys2Proof/Word.lean ====
section
/-! DEFINITION. The word types of the VLD-9140 and their plainest names (R2, R3, R147 to R150). -/

namespace Sys2Proof

/-- A 64-bit scalar value (R147). -/
abbrev Word := BitVec 64
/-- A byte of memory (R3). -/
abbrev Byte := BitVec 8
/-- One lane of a vector register (R148). -/
abbrev Lane := BitVec 32
/-- The number of a scalar register, s0 to s31 (R147). -/
abbrev SReg := BitVec 5
/-- The number of a vector register, v0 to v31 (R148). -/
abbrev VReg := BitVec 5
/-- A scalar register named by REG's C field, s0 to s15 (R141). -/
abbrev CReg := BitVec 4
/-- The number of a mask register, k0 to k7 (R149). -/
abbrev KReg := BitVec 3
/-- The number of a ring handle, h0 to h15 (R150). -/
abbrev HReg := BitVec 4
/-- The number of an accumulator tile, a0 to a3 (R150). -/
abbrev Tile := BitVec 2
/-- The 128 lanes of a vector register (R148). -/
abbrev Lanes := Vector Lane 128
/-- Sparse data by key, the keys strictly rising. -/
abbrev Sparse (α : Type) := List (Nat × α)

end Sys2Proof
end

