-- ==== Sys2Proof/Syntax.lean ====
section
/-! DEFINITION. The instructions and events of the VLD-9140 as terms: one constructor per row of
spec/opcode_table.json. An immediate stands as the 64-bit value of R140, already extended, in the unit the
entry counts. An event's operands are what takes part in it or arrives with it. -/

namespace Sys2Proof

/-- The scope of an atomic, a fence or an acquire or release form (R103). -/
inductive Scope where
  | c | g | d | v | y
  deriving DecidableEq, Repr

/-- The class of a fence (R103): .r, .w, .rw. -/
inductive FenceClass where
  | r | w | rw
  deriving DecidableEq, Repr

/-- The form of a conditional branch (R153): plain, .t, .n. -/
inductive BrForm where
  | plain | t | n
  deriving DecidableEq, Repr

/-- The level of a cancel (R316). -/
inductive CancelLevel where
  | unit | launch | graph | phase | job
  deriving DecidableEq, Repr

/-- A barrier's vote operation (R44). -/
inductive VoteOp where
  | or | and | max
  deriving DecidableEq, Repr

/-- The field that hget reads (R271), selectors 0 to 4. -/
inductive HField where
  | base | fill | drain | count | geometry
  deriving DecidableEq, Repr

/-- Where a grant comes from (R49, R52, R396, R397): a core of the module, of whose endpoints one has a free slot; or, in a
reply for a channel of a partition, its peer module, with the peer's own number of the channel, the grant if one is given,
the halted bit, and the message size and slot count of the peer's declaration (size 0: the peer end is not declared). -/
inductive GrantFrom where
  | local (core : Nat)
  | peer (part : Nat) (peer : BitVec 32) (peerChan : Nat) (given halted : Bool) (words slots : Nat)
  deriving DecidableEq, Repr

/-- The header of an NCP command as it arrives (R367), with the connection that carries it. -/
structure Hdr where
  conn   : Nat
  cookie : Word
  seq    : BitVec 16
  part   : BitVec 4
  rsv    : BitVec 3
  major  : BitVec 8
  minor  : BitVec 8
  deriving DecidableEq, Repr

/-- The partition descriptor that SETPART writes (R371). -/
structure Desc where
  code     : Word
  codeLen  : Word
  gmap     : Word
  loop     : Word
  cancel   : Word
  done     : Word
  tvb      : Word
  trb      : Word
  tick     : Word
  ltab     : Word
  gtab     : Word
  stab     : Word
  disp     : BitVec 512
  phase    : Word
  poolBase : Word
  poolCap  : Word
  deriving DecidableEq, Repr

/-- The payload of XCHAN (R396): one end of a channel between modules. `send` is the direction. -/
structure XDecl where
  chan     : Nat
  core     : Nat
  ep       : Nat
  send     : Bool
  words    : Nat
  slots    : Nat
  peer     : BitVec 32
  peerChan : Nat
  route    : BitVec 16
  deriving DecidableEq, Repr

/-- One rank of COLLGRP (R399): its module, and, on this module, its core index and endpoints. -/
structure CollRank where
  isLocal : Bool
  module  : BitVec 32
  core    : Nat
  sendEp  : Nat
  recvEp  : Nat
  deriving DecidableEq, Repr

/-- What a rank on another module ships for a collective (R400 to R403): its descriptor words, its element data
as the link carries them (encoded groups, or FP32 with RAW), its encode flags, and whether it failed. -/
structure CollPeer where
  rank   : Nat
  words  : List Word
  data   : List Byte
  flags  : BitVec 11
  status : Nat
  deriving DecidableEq, Repr

/-- A packet that asks for what the module does not offer (R366). -/
inductive PacketKind where
  | transport   -- ROD or UUD: dropped and counted
  | semantic    -- remote read or atomic: answered with the error response
  deriving DecidableEq, Repr

/-- What makes the module throttle or trip (R427). -/
inductive HeatCause where
  | draw | junction (die : Nat) | coolant
  deriving DecidableEq, Repr

/-- Where a soft error arises (R424). -/
inductive ErrorPlace where
  | memory | llc | tlb | directory | image | corestate
  deriving DecidableEq, Repr

/-- Every row of the opcode table. The rows whose terms the state can hold (engine instructions in their queues, NCP
commands that arrive early) stand first, because Lean's compiler builds no term with fields past the 245th
constructor; what builds the others is marked noncomputable and is for the kernel to evaluate. -/
inductive Instr where
  -- Vector arithmetic and masks (R242 to R245), major 0x8 (R203).
  /-- VADD_F32 (R242). -/
  | vaddF32 (d a b : VReg) (m : KReg)
  /-- VSUB_F32 (R242). -/
  | vsubF32 (d a b : VReg) (m : KReg)
  /-- VMUL_F32 (R242). -/
  | vmulF32 (d a b : VReg) (m : KReg)
  /-- VFMA_F32 (R242). -/
  | vfmaF32 (d a b : VReg) (m : KReg)
  /-- VMIN_F32 (R242). -/
  | vminF32 (d a b : VReg) (m : KReg)
  /-- VMAX_F32 (R242). -/
  | vmaxF32 (d a b : VReg) (m : KReg)
  /-- VDIV_F32 (R242). -/
  | vdivF32 (d a b : VReg) (m : KReg)
  /-- VSQRT_F32 (R242). -/
  | vsqrtF32 (d a : VReg) (m : KReg)
  /-- VADD_F64 (R242). -/
  | vaddF64 (d a b : VReg) (m : KReg)
  /-- VSUB_F64 (R242). -/
  | vsubF64 (d a b : VReg) (m : KReg)
  /-- VMUL_F64 (R242). -/
  | vmulF64 (d a b : VReg) (m : KReg)
  /-- VFMA_F64 (R242). -/
  | vfmaF64 (d a b : VReg) (m : KReg)
  /-- VMIN_F64 (R242). -/
  | vminF64 (d a b : VReg) (m : KReg)
  /-- VMAX_F64 (R242). -/
  | vmaxF64 (d a b : VReg) (m : KReg)
  /-- VDIV_F64 (R242). -/
  | vdivF64 (d a b : VReg) (m : KReg)
  /-- VSQRT_F64 (R242). -/
  | vsqrtF64 (d a : VReg) (m : KReg)
  /-- VADD_I32 (R243). -/
  | vaddI32 (d a b : VReg) (m : KReg)
  /-- VSUB_I32 (R243). -/
  | vsubI32 (d a b : VReg) (m : KReg)
  /-- VMUL_I32 (R243). -/
  | vmulI32 (d a b : VReg) (m : KReg)
  /-- VAND (R243). -/
  | vand (d a b : VReg) (m : KReg)
  /-- VOR (R243). -/
  | vor (d a b : VReg) (m : KReg)
  /-- VXOR (R243). -/
  | vxor (d a b : VReg) (m : KReg)
  /-- VSLL_I32 (R243). -/
  | vsllI32 (d a b : VReg) (m : KReg)
  /-- VSRL_I32 (R243). -/
  | vsrlI32 (d a b : VReg) (m : KReg)
  /-- VSRA_I32 (R243). -/
  | vsraI32 (d a b : VReg) (m : KReg)
  /-- VMIN_I32 (R243). -/
  | vminI32 (d a b : VReg) (m : KReg)
  /-- VMAX_I32 (R243). -/
  | vmaxI32 (d a b : VReg) (m : KReg)
  /-- VMINU_I32 (R243). -/
  | vminuI32 (d a b : VReg) (m : KReg)
  /-- VMAXU_I32 (R243). -/
  | vmaxuI32 (d a b : VReg) (m : KReg)
  /-- VADDS_I32 (R243). -/
  | vaddsI32 (d a b : VReg) (m : KReg)
  /-- VSUBS_I32 (R243). -/
  | vsubsI32 (d a b : VReg) (m : KReg)
  /-- VMULH_I32 (R243). -/
  | vmulhI32 (d a b : VReg) (m : KReg)
  /-- VADD_I64 (R243). -/
  | vaddI64 (d a b : VReg) (m : KReg)
  /-- VSUB_I64 (R243). -/
  | vsubI64 (d a b : VReg) (m : KReg)
  /-- VMUL_I64 (R243). -/
  | vmulI64 (d a b : VReg) (m : KReg)
  /-- VSLL_I64 (R243). -/
  | vsllI64 (d a b : VReg) (m : KReg)
  /-- VSRL_I64 (R243). -/
  | vsrlI64 (d a b : VReg) (m : KReg)
  /-- VSRA_I64 (R243). -/
  | vsraI64 (d a b : VReg) (m : KReg)
  /-- VMIN_I64 (R243). -/
  | vminI64 (d a b : VReg) (m : KReg)
  /-- VMAX_I64 (R243). -/
  | vmaxI64 (d a b : VReg) (m : KReg)
  /-- VCEQ_F32 (R244). -/
  | vceqF32 (d : KReg) (a b : VReg) (m : KReg)
  /-- VCLT_F32 (R244). -/
  | vcltF32 (d : KReg) (a b : VReg) (m : KReg)
  /-- VCLE_F32 (R244). -/
  | vcleF32 (d : KReg) (a b : VReg) (m : KReg)
  /-- VCEQ_I32 (R244). -/
  | vceqI32 (d : KReg) (a b : VReg) (m : KReg)
  /-- VCLT_I32 (R244). -/
  | vcltI32 (d : KReg) (a b : VReg) (m : KReg)
  /-- VCLTU_I32 (R244). -/
  | vcltuI32 (d : KReg) (a b : VReg) (m : KReg)
  /-- VCEQ_F64 (R244). -/
  | vceqF64 (d : KReg) (a b : VReg) (m : KReg)
  /-- VCLT_F64 (R244). -/
  | vcltF64 (d : KReg) (a b : VReg) (m : KReg)
  /-- KAND (R245). -/
  | kand (d a b : KReg)
  /-- KOR (R245). -/
  | kor (d a b : KReg)
  /-- KXOR (R245). -/
  | kxor (d a b : KReg)
  /-- KANDN (R245). -/
  | kandn (d a b : KReg)
  /-- VSEL (R245). -/
  | vsel (d a b : VReg) (m : KReg)
  /-- VBCAST (R245). -/
  | vbcast (d : VReg) (a : SReg) (m : KReg)
  /-- VMOVS (R245). -/
  | vmovs (d : SReg) (a : VReg) (b : SReg) (m : KReg)
  /-- KPOP (R245). -/
  | kpop (d : SReg) (a : KReg) (m : KReg)
  -- Vector memory (R246 to R249), major 0x9 (R204).
  /-- VLD_W (R246). -/
  | vldW (d : VReg) (a : SReg) (m : KReg) (imm : Word)
  /-- VLD_D (R246). -/
  | vldD (d : VReg) (a : SReg) (m : KReg) (imm : Word)
  /-- VST_W (R246). -/
  | vstW (d : VReg) (a : SReg) (m : KReg) (imm : Word)
  /-- VST_D (R246). -/
  | vstD (d : VReg) (a : SReg) (m : KReg) (imm : Word)
  /-- VLDX_W (R247). -/
  | vldxW (d : VReg) (a : SReg) (b : VReg) (m : KReg)
  /-- VSTX_W (R247). -/
  | vstxW (d : VReg) (a : SReg) (b : VReg) (m : KReg)
  /-- KLD (R248). -/
  | kld (d : KReg) (a : SReg)
  /-- KST (R248). -/
  | kst (d : KReg) (a : SReg)
  -- Reductions, permutes, conversion, scans, encode (R250 to R263), major 0xA (R205).
  /-- VREDSUM_F32 (R250). -/
  | vredsumF32 (d : SReg) (a : VReg) (m : KReg)
  /-- VREDMAX_F32 (R250). -/
  | vredmaxF32 (d : SReg) (a : VReg) (m : KReg)
  /-- VREDMIN_F32 (R250). -/
  | vredminF32 (d : SReg) (a : VReg) (m : KReg)
  /-- VREDSUM_F64 (R250). -/
  | vredsumF64 (d : SReg) (a : VReg) (m : KReg)
  /-- VREDSUM_I32 (R250). -/
  | vredsumI32 (d : SReg) (a : VReg) (m : KReg)
  /-- VREDMAX_I32 (R250). -/
  | vredmaxI32 (d : SReg) (a : VReg) (m : KReg)
  /-- VREDSUM_I64 (R250). -/
  | vredsumI64 (d : SReg) (a : VReg) (m : KReg)
  /-- VREDOR (R250). -/
  | vredor (d : SReg) (a : VReg) (m : KReg)
  /-- VPERM (R254). -/
  | vperm (d a b : VReg)
  /-- VSLIDE (R254). -/
  | vslide (d a : VReg) (b : SReg)
  /-- VFSL (R255). -/
  | vfsl (d a b : VReg) (c : CReg)
  /-- VFSR (R255). -/
  | vfsr (d a b : VReg) (c : CReg)
  /-- VLUT3 (R256). -/
  | vlut3 (d a b : VReg) (c : CReg)
  /-- VRNG (R257). -/
  | vrng (d : VReg) (a b : SReg)
  /-- VCVT_F32_I32 (R258). -/
  | vcvtF32I32 (d a : VReg)
  /-- VCVT_I32_F32 (R258). -/
  | vcvtI32F32 (d a : VReg)
  /-- VCVT_F64_F32 (R258). -/
  | vcvtF64F32 (d a : VReg)
  /-- VCVT_F32_F64 (R258). -/
  | vcvtF32F64 (d a : VReg)
  /-- VCVT_F16_F32 (R258). -/
  | vcvtF16F32 (d a : VReg)
  /-- VCVT_F32_F16 (R258). -/
  | vcvtF32F16 (d a : VReg)
  /-- VCVT_BF16_F32 (R258). -/
  | vcvtBf16F32 (d a : VReg)
  /-- VCVT_F32_BF16 (R258). -/
  | vcvtF32Bf16 (d a : VReg)
  /-- VSCAN_F32 (R251). -/
  | vscanF32 (d a : VReg) (m : KReg)
  /-- VSCAN_I32 (R251). -/
  | vscanI32 (d a : VReg) (m : KReg)
  /-- VSORTX_F32 (R252). -/
  | vsortxF32 (d a : VReg) (m : KReg)
  /-- VEXP2_F32 (R253). -/
  | vexp2F32 (d a : VReg) (m : KReg)
  /-- VENC (R262). -/
  | venc (d : HReg) (a : VReg) (b : SReg)
  /-- VDEC (R263). -/
  | vdec (d : VReg) (a : HReg) (b : SReg)
  /-- VECTOR_INSTRUCTION_EXECUTE (R237). -/
  | vectorInstructionExecute (core : Nat)
  -- Matrix commands (R274 to R285), major 0xB (R206).
  /-- MLEASE (R276). -/
  | mlease
  /-- MLEASE_REL (R276). -/
  | mleaseRel
  /-- MLOAD_W (R279). -/
  | mloadW (bank : BitVec 1) (h : HReg)
  /-- MSWAP (R280). -/
  | mswap
  /-- MMAC (R281). -/
  | mmac (tile : Tile) (h : HReg) (b : SReg)
  /-- MGRP (R282). -/
  | mgrp (tile : Tile) (h : HReg) (b : SReg) (g : HReg)
  /-- MST (R283). -/
  | mst (h : HReg) (tile : Tile)
  /-- MZERO (R284). -/
  | mzero (tile : Tile)
  /-- MLOAD_T (R285). -/
  | mloadT (table : BitVec 2) (h : HReg) (b : SReg)
  /-- MATRIX_COMMAND_ACCEPT (R275). -/
  | matrixCommandAccept (core : Nat)
  /-- MATRIX_COMMAND_COMPLETE (R275). -/
  | matrixCommandComplete (grove : Nat)
  /-- LEASE_GRANT (R20). -/
  | leaseGrant (grove : Nat)
  /-- LEASE_EXPIRY (R20). -/
  | leaseExpiry (grove : Nat)
  -- Copy engine, rings and event queue (R268 to R273, R286 to R291), major 0xC (R207).
  /-- CPQ (R288). -/
  | cpq (ch : BitVec 2) (d a b : SReg) (c : CReg)
  /-- CPWAIT (R289). -/
  | cpwait (ch : BitVec 2) (a : SReg)
  /-- COPY_CHUNK (R288). -/
  | copyChunk (core : Nat) (ch : BitVec 2)
  /-- COPY_COMPLETE (R288). -/
  | copyComplete (core : Nat) (ch : BitVec 2)
  /-- EVENT_RECORD_POST (R290). -/
  | eventRecordPost (core : Nat) (ch : BitVec 2)
  /-- HSET (R270). -/
  | hset (d : HReg) (a b : SReg)
  /-- HGET (R271). -/
  | hget (d : SReg) (a : HReg) (field : HField)
  /-- EVWAIT (R291). -/
  | evwait (d a : SReg)
  /-- EVTRY (R291). -/
  | evtry (d a : SReg)
  /-- HWAIT_F (R272). -/
  | hwaitF (d : HReg) (a : SReg) (imm : Word)
  /-- HWAIT_E (R272). -/
  | hwaitE (d : HReg) (a : SReg) (imm : Word)
  /-- HADV_P (R273). -/
  | hadvP (d : HReg) (a : SReg) (imm : Word)
  /-- HADV_C (R273). -/
  | hadvC (d : HReg) (a : SReg) (imm : Word)
  /-- RING_UNIT_PERFORM (R273). -/
  | ringUnitPerform (core ctx : Nat)
  -- Fabric commands (R292 to R297), major 0xD (R208).
  /-- AFCFG_CLAIM (R293). -/
  | afcfgClaim (d a : SReg)
  /-- AFCFG_REL (R121). -/
  | afcfgRel
  /-- AFCFG (R294). -/
  | afcfg (a b : SReg)
  /-- AFSCALE (R295). -/
  | afscale (a : SReg)
  /-- AFRUN (R296). -/
  | afrun
  /-- AFWAIT (R296). -/
  | afwait (d : SReg)
  /-- AFWAIT_TRY (R296). -/
  | afwaitTry (d : SReg)
  /-- AFSAMP (R297). -/
  | afsamp (d a : SReg) (imm : Word)
  /-- FABRIC_INSTRUCTION_PERFORM (R292). -/
  | fabricInstructionPerform (core : Nat)
  /-- RUN_SETTLED (R127). -/
  | runSettled (core : Nat)
  /-- RUN_TIMEOUT (R127). -/
  | runTimeout (core : Nat)
  /-- RUN_SATURATED (R131). -/
  | runSaturated (core : Nat)
  -- NCP commands as they arrive (R367 to R372, R380, R381, R388 to R399, R409, R411, R415 to R422, R427 to R430).
  /-- ATTACH (R370). -/
  | attach (h : Hdr) (lo hi : BitVec 16)
  /-- DETACH (R368). -/
  | detach (h : Hdr)
  /-- SETPART (R371). -/
  | setpart (h : Hdr) (desc : Desc)
  /-- GRAPHLOAD (R377). -/
  | graphload (h : Hdr) (slot : Nat) (addr : Word)
  /-- GRAPHARM (R368). -/
  | grapharm (h : Hdr) (slot : Word)
  /-- LAUNCHARM (R368). -/
  | launcharm (h : Hdr) (tag : Word)
  /-- LAUNCHPATCH (R368). -/
  | launchpatch (h : Hdr) (idx word value : Word)
  /-- CANCEL_COMMAND (R368). -/
  | cancelCommand (h : Hdr) (level : Nat) (target : Word)
  /-- SIGREG (R368). -/
  | sigreg (h : Hdr) (sig : Nat) (entry : BitVec 256)
  /-- RDMEM (R368). -/
  | rdmem (h : Hdr) (addr : Word) (len : Nat) (host : Word)
  /-- HALT (R372). -/
  | halt (h : Hdr) (idx : Nat)
  /-- RESUME (R372). -/
  | resume (h : Hdr) (idx : Nat)
  /-- JOBSTART (R381). -/
  | jobstart (h : Hdr)
  /-- JOBSTAT (R381). -/
  | jobstat (h : Hdr)
  /-- SETXLATE (R388). -/
  | setxlate (h : Hdr) (root waitlim : Word) (ways : BitVec 24)
  /-- INVAL (R389). -/
  | inval (h : Hdr) (base len : Word)
  /-- OWN (R390). -/
  | own (h : Hdr) (first count : Nat) (owner : BitVec 8)
  /-- CUT (R388). -/
  | cut (h : Hdr) (n : Nat)
  /-- PORTCFG (R393). -/
  | portcfg (h : Hdr) (port : Nat) (desc : Word)
  /-- XCHAN (R396). -/
  | xchan (h : Hdr) (decl : XDecl)
  /-- COLLGRP (R399). -/
  | collgrp (h : Hdr) (group n : Nat) (ranks : List CollRank)
  /-- IDENTITY (R409). -/
  | identity (h : Hdr)
  /-- QUOTE (R410). -/
  | quote (h : Hdr) (nonce : BitVec 256) (mask : BitVec 8)
  /-- EXTEND (R407). -/
  | extend (h : Hdr) (reg : Nat) (digest : BitVec 256)
  /-- FWSTAGE (R411). -/
  | fwstage (h : Hdr) (addr : Word) (commit : Bool)
  /-- FWSTAGE_RECOVERY (R411). -/
  | fwstageRecovery (h : Hdr) (off : Nat) (bytes : List Byte) (last commit : Bool)
  /-- SWITCH (R415). -/
  | switch (h : Hdr) (at_ image trace : Word) (gang rsv : BitVec 32)
  /-- RESTORE (R420). -/
  | restore (h : Hdr) (image trace at_ : Word)
  /-- IMGXFER (R419). -/
  | imgxfer (h : Hdr) (src len : Word) (peer : BitVec 32) (dst : Word) (route : BitVec 16)
  /-- REPLAYTRACE (R422). -/
  | replaytrace (h : Hdr) (idx count : Nat) (addr : Word)
  /-- STATS (R429). -/
  | stats (h : Hdr) (clear : Bool)
  /-- POWERCAP (R427). -/
  | powercap (h : Hdr) (watts : BitVec 32)
  /-- ERRLOG (R430). -/
  | errlog (h : Hdr) (first : BitVec 32) (count : Nat)
  /-- NCP_UNSUPPORTED_OPCODE (R368). -/
  | ncpUnsupportedOpcode (h : Hdr) (op : BitVec 8)
  -- Scalar ALU (R214, R215), majors 0x0 and 0x1 (R196, R197, R216).
  /-- ADD (R214). -/
  | add (d a b : SReg)
  /-- SUB (R214). -/
  | sub (d a b : SReg)
  /-- AND (R214). -/
  | and (d a b : SReg)
  /-- OR (R214). -/
  | or (d a b : SReg)
  /-- XOR (R214). -/
  | xor (d a b : SReg)
  /-- SLL (R214). -/
  | sll (d a b : SReg)
  /-- SRL (R214). -/
  | srl (d a b : SReg)
  /-- SRA (R214). -/
  | sra (d a b : SReg)
  /-- MUL (R214). -/
  | mul (d a b : SReg)
  /-- MULH (R214). -/
  | mulh (d a b : SReg)
  /-- MULHU (R214). -/
  | mulhu (d a b : SReg)
  /-- DIV (R215). -/
  | div (d a b : SReg)
  /-- DIVU (R215). -/
  | divu (d a b : SReg)
  /-- REM (R215). -/
  | rem (d a b : SReg)
  /-- REMU (R215). -/
  | remu (d a b : SReg)
  /-- ADDW (R214). -/
  | addw (d a b : SReg)
  /-- SUBW (R214). -/
  | subw (d a b : SReg)
  /-- SLLW (R214). -/
  | sllw (d a b : SReg)
  /-- SRLW (R214). -/
  | srlw (d a b : SReg)
  /-- SRAW (R214). -/
  | sraw (d a b : SReg)
  /-- MULW (R214). -/
  | mulw (d a b : SReg)
  /-- MADD (R214). -/
  | madd (d a b : SReg) (c : CReg)
  /-- ADDI (R216). -/
  | addi (d a : SReg) (imm : Word)
  /-- ANDI (R216). -/
  | andi (d a : SReg) (imm : Word)
  /-- ORI (R216). -/
  | ori (d a : SReg) (imm : Word)
  /-- XORI (R216). -/
  | xori (d a : SReg) (imm : Word)
  /-- SLLI (R216). -/
  | slli (d a : SReg) (imm : Word)
  /-- SRLI (R216). -/
  | srli (d a : SReg) (imm : Word)
  /-- SRAI (R216). -/
  | srai (d a : SReg) (imm : Word)
  /-- MULI (R216). -/
  | muli (d a : SReg) (imm : Word)
  -- Compare, select and bit manipulation (R217), major 0x5 (R200).
  /-- SLT (R217). -/
  | slt (d a b : SReg)
  /-- SLTU (R217). -/
  | sltu (d a b : SReg)
  /-- SEQ (R217). -/
  | seq (d a b : SReg)
  /-- SEL (R217). -/
  | sel (d a b : SReg) (c : CReg)
  /-- MIN (R217). -/
  | min (d a b : SReg)
  /-- MAX (R217). -/
  | max (d a b : SReg)
  /-- MINU (R217). -/
  | minu (d a b : SReg)
  /-- MAXU (R217). -/
  | maxu (d a b : SReg)
  /-- CLZ (R217). -/
  | clz (d a : SReg)
  /-- CTZ (R217). -/
  | ctz (d a : SReg)
  /-- POPC (R217). -/
  | popc (d a : SReg)
  /-- REV8 (R217). -/
  | rev8 (d a : SReg)
  /-- ROL (R217). -/
  | rol (d a b : SReg)
  /-- ROR (R217). -/
  | ror (d a b : SReg)
  /-- ANDN (R217). -/
  | andn (d a b : SReg)
  /-- ORN (R217). -/
  | orn (d a b : SReg)
  -- Scalar loads and stores (R218 to R221), majors 0x2 and 0x3 (R198).
  /-- LD_B (R218). -/
  | ldB (d a : SReg) (imm : Word)
  /-- LD_H (R218). -/
  | ldH (d a : SReg) (imm : Word)
  /-- LD_W (R218). -/
  | ldW (d a : SReg) (imm : Word)
  /-- LD_D (R218). -/
  | ldD (d a : SReg) (imm : Word)
  /-- LD_BU (R218). -/
  | ldBu (d a : SReg) (imm : Word)
  /-- LD_HU (R218). -/
  | ldHu (d a : SReg) (imm : Word)
  /-- LD_WU (R218). -/
  | ldWu (d a : SReg) (imm : Word)
  /-- LD_ACQ (R220). -/
  | ldAcq (scope : Scope) (size : BitVec 2) (d a : SReg) (imm : Word)
  /-- LDL_D (R221). -/
  | ldlD (d : SReg) (imm : Word)
  /-- ST_B (R218). -/
  | stB (d a : SReg) (imm : Word)
  /-- ST_H (R218). -/
  | stH (d a : SReg) (imm : Word)
  /-- ST_W (R218). -/
  | stW (d a : SReg) (imm : Word)
  /-- ST_D (R218). -/
  | stD (d a : SReg) (imm : Word)
  /-- ST_REL (R220). -/
  | stRel (scope : Scope) (size : BitVec 2) (d a : SReg) (imm : Word)
  -- Control transfer (R222 to R225), major 0x4 (R199).
  /-- BR_EQ (R222). -/
  | brEq (form : BrForm) (a : SReg) (imm : Word)
  /-- BR_NE (R222). -/
  | brNe (form : BrForm) (a : SReg) (imm : Word)
  /-- BR_LT (R222). -/
  | brLt (form : BrForm) (a : SReg) (imm : Word)
  /-- BR_GE (R222). -/
  | brGe (form : BrForm) (a : SReg) (imm : Word)
  /-- BR_EQ_TWO_REG (R222). -/
  | brEqTwoReg (form : BrForm) (a b : SReg) (imm : Word)
  /-- BR_NE_TWO_REG (R222). -/
  | brNeTwoReg (form : BrForm) (a b : SReg) (imm : Word)
  /-- BR_LT_TWO_REG (R222). -/
  | brLtTwoReg (form : BrForm) (a b : SReg) (imm : Word)
  /-- BR_GE_TWO_REG (R222). -/
  | brGeTwoReg (form : BrForm) (a b : SReg) (imm : Word)
  /-- BR_LTU (R222). -/
  | brLtu (form : BrForm) (a b : SReg) (imm : Word)
  /-- BR_GEU (R222). -/
  | brGeu (form : BrForm) (a b : SReg) (imm : Word)
  /-- J (R223). -/
  | j (imm : Word)
  /-- JAL (R223). -/
  | jal (imm : Word)
  /-- JR (R224). -/
  | jr (a : SReg) (imm : Word)
  /-- JALR (R224). -/
  | jalr (a : SReg) (imm : Word)
  -- Scalar floating point (R226 to R229), major 0x6 (R201).
  /-- FADD_D (R227). -/
  | faddD (d a b : SReg)
  /-- FSUB_D (R227). -/
  | fsubD (d a b : SReg)
  /-- FMUL_D (R227). -/
  | fmulD (d a b : SReg)
  /-- FDIV_D (R227). -/
  | fdivD (d a b : SReg)
  /-- FMIN_D (R227). -/
  | fminD (d a b : SReg)
  /-- FMAX_D (R227). -/
  | fmaxD (d a b : SReg)
  /-- FSQRT_D (R227). -/
  | fsqrtD (d a : SReg)
  /-- FMADD_D (R227). -/
  | fmaddD (d a b : SReg) (c : CReg)
  /-- FADD_S (R227). -/
  | faddS (d a b : SReg)
  /-- FSUB_S (R227). -/
  | fsubS (d a b : SReg)
  /-- FMUL_S (R227). -/
  | fmulS (d a b : SReg)
  /-- FDIV_S (R227). -/
  | fdivS (d a b : SReg)
  /-- FMIN_S (R227). -/
  | fminS (d a b : SReg)
  /-- FMAX_S (R227). -/
  | fmaxS (d a b : SReg)
  /-- FSQRT_S (R227). -/
  | fsqrtS (d a : SReg)
  /-- FMADD_S (R227). -/
  | fmaddS (d a b : SReg) (c : CReg)
  /-- FEQ_D (R228). -/
  | feqD (d a b : SReg)
  /-- FLT_D (R228). -/
  | fltD (d a b : SReg)
  /-- FLE_D (R228). -/
  | fleD (d a b : SReg)
  /-- FEQ_S (R228). -/
  | feqS (d a b : SReg)
  /-- FLT_S (R228). -/
  | fltS (d a b : SReg)
  /-- FLE_S (R228). -/
  | fleS (d a b : SReg)
  /-- FCLASS_D (R228). -/
  | fclassD (d a : SReg)
  /-- FCLASS_S (R228). -/
  | fclassS (d a : SReg)
  /-- FCVT_D_S (R229). -/
  | fcvtDS (d a : SReg)
  /-- FCVT_S_D (R229). -/
  | fcvtSD (d a : SReg)
  /-- FCVT_L_D (R229). -/
  | fcvtLD (d a : SReg)
  /-- FCVT_LU_D (R229). -/
  | fcvtLuD (d a : SReg)
  /-- FCVT_D_L (R229). -/
  | fcvtDL (d a : SReg)
  /-- FCVT_D_LU (R229). -/
  | fcvtDLu (d a : SReg)
  /-- FCVT_W_S (R229). -/
  | fcvtWS (d a : SReg)
  /-- FCVT_S_W (R229). -/
  | fcvtSW (d a : SReg)
  /-- FCVT_W_D (R229). -/
  | fcvtWD (d a : SReg)
  /-- FCVT_WU_D (R229). -/
  | fcvtWuD (d a : SReg)
  /-- FCVT_L_S (R229). -/
  | fcvtLS (d a : SReg)
  /-- FCVT_LU_S (R229). -/
  | fcvtLuS (d a : SReg)
  /-- FCVT_S_L (R229). -/
  | fcvtSL (d a : SReg)
  /-- FCVT_S_LU (R229). -/
  | fcvtSLu (d a : SReg)
  /-- FCVT_WU_S (R229). -/
  | fcvtWuS (d a : SReg)
  /-- FCVT_S_WU (R229). -/
  | fcvtSWu (d a : SReg)
  -- Atomics, fences, channels and cache maintenance (R230 to R235), major 0x7 (R202).
  /-- AMO_ADD (R230). -/
  | amoAdd (d a b : SReg)
  /-- AMO_AND (R230). -/
  | amoAnd (d a b : SReg)
  /-- AMO_OR (R230). -/
  | amoOr (d a b : SReg)
  /-- AMO_XOR (R230). -/
  | amoXor (d a b : SReg)
  /-- AMO_MIN (R230). -/
  | amoMin (d a b : SReg)
  /-- AMO_MAX (R230). -/
  | amoMax (d a b : SReg)
  /-- AMO_SWAP (R230). -/
  | amoSwap (d a b : SReg)
  /-- AMO_CAS (R230). -/
  | amoCas (d a b : SReg) (c : CReg)
  /-- AMO_ADD_SCOPED (R230). -/
  | amoAddScoped (scope : Scope) (d a b : SReg)
  /-- AMO_AND_SCOPED (R230). -/
  | amoAndScoped (scope : Scope) (d a b : SReg)
  /-- AMO_OR_SCOPED (R230). -/
  | amoOrScoped (scope : Scope) (d a b : SReg)
  /-- AMO_XOR_SCOPED (R230). -/
  | amoXorScoped (scope : Scope) (d a b : SReg)
  /-- AMO_MIN_SCOPED (R230). -/
  | amoMinScoped (scope : Scope) (d a b : SReg)
  /-- AMO_MAX_SCOPED (R230). -/
  | amoMaxScoped (scope : Scope) (d a b : SReg)
  /-- AMO_SWAP_SCOPED (R230). -/
  | amoSwapScoped (scope : Scope) (d a b : SReg)
  /-- AMO_CAS_SCOPED (R230). -/
  | amoCasScoped (scope : Scope) (d a b : SReg) (c : CReg)
  /-- FENCE (R232). -/
  | fence (scope : Scope) (cls : FenceClass)
  /-- CHBIND (R234). -/
  | chbind (r : BitVec 3) (endpoint : BitVec 6)
  /-- CHSEND (R235). -/
  | chsend (a b : SReg)
  /-- CMO_CLEAN_L1 (R233). -/
  | cmoCleanL1 (a d : SReg) (imm : Word)
  /-- CMO_CLEAN_LLC (R233). -/
  | cmoCleanLlc (a d : SReg) (imm : Word)
  /-- CMO_CLEAN_MEM (R233). -/
  | cmoCleanMem (a d : SReg) (imm : Word)
  /-- CMO_INV_L1 (R233). -/
  | cmoInvL1 (a d : SReg) (imm : Word)
  /-- CMO_INV_LLC (R233). -/
  | cmoInvLlc (a d : SReg) (imm : Word)
  /-- CMO_INV_MEM (R233). -/
  | cmoInvMem (a d : SReg) (imm : Word)
  /-- CMO_CLINV_L1 (R233). -/
  | cmoClinvL1 (a d : SReg) (imm : Word)
  /-- CMO_CLINV_LLC (R233). -/
  | cmoClinvLlc (a d : SReg) (imm : Word)
  /-- CMO_CLINV_MEM (R233). -/
  | cmoClinvMem (a d : SReg) (imm : Word)
  /-- CMO_LINE_OPERATIONS_DONE (R233). -/
  | cmoLineOperationsDone (core : Nat)
  -- System instructions (R298 to R327), major 0xF (R209).
  /-- CGET (R300). -/
  | cget (d : SReg) (imm : Word)
  /-- CPUT (R300). -/
  | cput (a : SReg) (imm : Word)
  /-- POOLBOUND_SELECT (R306). -/
  | poolboundSelect (a : SReg)
  /-- POOLBOUND_WRITE (R306). -/
  | poolboundWrite (a : SReg)
  /-- JOURNAL_WRITE (R309). -/
  | journalWrite (a : SReg)
  /-- TRAP (R310). -/
  | trap (imm : Word)
  /-- ERET (R311). -/
  | eret
  /-- HSTART (R312). -/
  | hstart (d a : SReg) (imm : Word)
  /-- HEXIT (R313). -/
  | hexit
  /-- HJOIN (R314). -/
  | hjoin (a : SReg) (imm : Word)
  /-- GDONE (R315). -/
  | gdone
  /-- GCANCEL (R316). -/
  | gcancel (level : CancelLevel) (a : SReg)
  /-- GARM (R317). -/
  | garm (d a : SReg)
  /-- LARM (R318). -/
  | larm (d a : SReg)
  /-- LPATCH (R319). -/
  | lpatch (a b : SReg) (c : CReg)
  /-- PPUT (R321). -/
  | pput (d a : SReg) (imm : Word)
  /-- PTAKE (R322). -/
  | ptake (d a : SReg) (imm : Word)
  /-- PTAKE_W (R322). -/
  | ptakeW (d a : SReg) (imm : Word)
  /-- PCANCEL (R323). -/
  | pcancel (d a : SReg) (imm : Word)
  /-- BAR_INIT (R325). -/
  | barInit (bar : BitVec 7) (a : SReg) (op : VoteOp)
  /-- BAR_WAIT (R326). -/
  | barWait (bar : BitVec 7) (d : SReg)
  /-- BAR_VOTE (R326). -/
  | barVote (bar : BitVec 7) (d a b : SReg)
  /-- ITAKE (R320). -/
  | itake (d : SReg)
  /-- IREL (R320). -/
  | irel (d : SReg)
  /-- IWAIT (R320). -/
  | iwait (d : SReg)
  /-- IWAIT_P (R320). -/
  | iwaitP (d a : SReg)
  -- Events of the machine, which have no encoding: traps, engines, ports (14, 05, 03).
  /-- FAULT_TRAP_ENTRY (R329). -/
  | faultTrapEntry (code : BitVec 16) (info faddr : Word)
  /-- LATE_FAULT_REPORT (R336). -/
  | lateFaultReport (core : Nat) (seq : BitVec 16) (code : BitVec 16) (info faddr : Word)
  /-- LATE_TRAP_ENTRY (R331). -/
  | lateTrapEntry (core : Nat)
  /-- TICK (R332). -/
  | tick (part : Nat)
  /-- TIMER_TRAP_ENTRY (R331). -/
  | timerTrapEntry (core : Nat)
  /-- WAIT_TIMEOUT (R42). -/
  | waitTimeout (core ctx : Nat)
  /-- WAKE (R41). -/
  | wake (core ctx : Nat)
  /-- CANCEL (R32). -/
  | cancel (core : Nat)
  /-- CHANNEL_GRANT (R49): of an endpoint of the core, or for a channel of the partition. -/
  | channelGrant (source : GrantFrom) (ep : Nat)
  /-- CHANNEL_MESSAGE_ARRIVAL (R397). -/
  | channelMessageArrival (core ep : Nat) (seqno : BitVec 32) (words : List Word)
  /-- WINDOW_PIECE_ARRIVAL (R112). -/
  | windowPieceArrival (dst src : Nat)
  /-- WINDOW_REGISTER_WRITE (R93). -/
  | windowRegisterWrite (core ctx off : Nat) (bytes : List Byte)
  /-- TAIL (R97). -/
  | tail (core : Nat) (w : Word)
  /-- RESV (R98). -/
  | resv (core : Nat) (w : Word)
  /-- PORTSTAT (R96). -/
  | portstat (core : Nat) (w : Word)
  /-- HELD_INBOX_DELIVERY (R98). -/
  | heldInboxDelivery (core : Nat)
  /-- ARMING_RELEASE (R374). -/
  | armingRelease (part idx : Nat)
  /-- LAUNCH_CONFIRM (R31). -/
  | launchConfirm (part idx : Nat)
  /-- GRAPH_TOKEN (R65). -/
  | graphToken (part slot node : Nat)
  /-- GRAPH_PROVISIONAL_REPORT (R65). -/
  | graphProvisionalReport (part : Nat) (tag : Word)
  /-- GRAPH_CONFIRM_REPORT (R62). -/
  | graphConfirmReport (part : Nat) (tag : Word)
  /-- GRAPH_FAULT_REPORT (R67). -/
  | graphFaultReport (part : Nat) (tag : Word) (code : BitVec 16)
  /-- WALK_MARK_STEP (R67). -/
  | walkMarkStep (part slot : Nat)
  /-- WALK_RECOUNT_STEP (R68). -/
  | walkRecountStep (part slot : Nat)
  /-- GRAPH_CANCEL (R71). -/
  | graphCancel (part slot : Nat)
  /-- POOL_SUMMARY (R78). -/
  | poolSummary (part pool shard : Nat)
  /-- POOL_SUMMARY_ACK (R78). -/
  | poolSummaryAck (part pool src dst : Nat)
  /-- PPUT_LINEARIZE (R80). -/
  | pputLinearize (part pool shard : Nat)
  /-- POOL_REBALANCE (R80). -/
  | poolRebalance (part pool src dst : Nat)
  /-- POOL_ARBITER_TAKE (R81). -/
  | poolArbiterTake (part pool : Nat)
  /-- POOL_EMPTINESS_SWEEP (R81). -/
  | poolEmptinessSweep (part pool : Nat)
  /-- COLLECTIVE_START (R400). -/
  | collectiveStart (core ep : Nat) (words : List Word)
  /-- COLLECTIVE_COMPLETE (R403). -/
  | collectiveComplete (part group : Nat) (peers : List CollPeer)
  -- Traffic, ports, time, taproot and the remaining events (R366, R392 to R395, R405, R414 to R428).
  /-- HOST_REMOTE_WRITE (R366). -/
  | hostRemoteWrite (part : Nat) (pa : Nat) (bytes : List Byte)
  /-- UNSUPPORTED_PACKET (R366). -/
  | unsupportedPacket (port : Nat) (kind : PacketKind)
  /-- FLIT_REPLAY (R392). -/
  | flitReplay (port : Nat)
  /-- PORT_TRAINING_LOST (R392). -/
  | portTrainingLost (port : Nat)
  /-- PORT_UP (R392). -/
  | portUp (port : Nat) (lo hi : Nat)
  /-- PORT_FAILED (R394). -/
  | portFailed (port : Nat)
  /-- TIME_STAMP_EXCHANGE (R414). -/
  | timeStampExchange (port : Nat) (peerTime : Word)
  /-- OUT_OF_STEP (R414). -/
  | outOfStep
  /-- SWITCH_INSTANT (R417). -/
  | switchInstant (part : Nat)
  /-- DIGEST_WRITE (R418). -/
  | digestWrite (part : Nat)
  /-- RESTORE_INSTANT (R420). -/
  | restoreInstant (part : Nat)
  /-- MODULE_RESET (R405). -/
  | moduleReset
  /-- HEARTBEAT (R423). -/
  | heartbeat
  /-- TAPROOT_WATCHDOG (R426). -/
  | taprootWatchdog
  /-- REPLAY_QUEUE_TIMEOUT (R422). -/
  | replayQueueTimeout (core : Nat)
  /-- POWER_PERIOD (R428): the fixed draw, and of each die its demand in the period before and its junction in °C. -/
  | powerPeriod (fixedMw : Nat) (demands : List (Nat × Nat))
  /-- TOKEN_TAKE (R428). -/
  | tokenTake (grove need : Nat)
  /-- THERMAL_THROTTLE (R427). -/
  | thermalThrottle (cause : HeatCause)
  /-- THERMAL_TRIP (R427). -/
  | thermalTrip (cause : HeatCause)
  /-- SOFT_ERROR (R424). -/
  | softError (pa : Word) (place : ErrorPlace) (corrected : Bool)
  /-- STAGING_POWER_LOSS (R411). -/
  | stagingPowerLoss
  /-- STORE_BUFFER_DRAIN (R99). -/
  | storeBufferDrain (core : Nat)
  /-- L1_EVICTION (R89). -/
  | l1Eviction (die line : Nat)
  /-- NULLIFIED_INSTRUCTION (R154). -/
  | nullifiedInstruction
  /-- PEER_REMOTE_WRITE (R419). -/
  | peerRemoteWrite (port : Nat) (pa : Nat) (bytes : List Byte)
  /-- BACK_IN_STEP (R414). -/
  | backInStep
  /-- THROTTLE_CLEARED (R423). -/
  | throttleCleared
  deriving DecidableEq, Repr

end Sys2Proof
end

