-- ==== Sys2Proof/WellFormed.lean ====
section
/-! DEFINITION. Which terms an encoding exists for: the immediate fits in w + 10k bits with the IMM words that four
leave room for (R85, R139, R140), and every operand lies in its range (R195 to R210). An event is well formed as it
stands: what arrives is checked when it is performed. -/

namespace Sys2Proof

/-- `v` is a `w`-bit value sign-extended to 64 bits (R140, R158). -/
def fitsSigned (w : Nat) (v : Word) : Bool := decide (-(2 : Int) ^ (w - 1) ≤ v.toInt ∧ v.toInt < 2 ^ (w - 1))

/-- `v` is a `w`-bit value zero-extended to 64 bits (R140, R158). -/
def fitsUnsigned (w : Nat) (v : Word) : Bool := decide (v.toNat < 2 ^ w)

/-- Does the immediate fit in `w` bits, read as the entry says. -/
def fits (signed : Bool) (w : Nat) (v : Word) : Bool := if signed then fitsSigned w v else fitsUnsigned w v

/-- The least number of IMM words, from `from_` on, that the immediate needs (R85); 5 when four do not suffice. -/
def leastImm (signed : Bool) (w from_ : Nat) (v : Word) : Nat :=
  if from_ ≤ 0 && fits signed w v then 0
  else if from_ ≤ 1 && fits signed (w + 10) v then 1
  else if from_ ≤ 2 && fits signed (w + 20) v then 2
  else if from_ ≤ 3 && fits signed (w + 30) v then 3
  else if fits signed (w + 40) v then 4 else 5

/-- A register number needs REG's high bits (R85). -/
def high (r : BitVec 5) : Bool := decide (8 ≤ r.toNat)

/-- The immediate fits beside a PAGE word (when `paged`) and a REG word (when `reg`), four in all (R139). -/
def immOk (signed : Bool) (w from_ : Nat) (paged reg : Bool) (v : Word) : Bool :=
  decide (leastImm signed w from_ v + paged.toNat + reg.toNat ≤ 4)

/-- The term has an encoding, or is an event. -/
def Instr.wf : Instr → Bool
  | .addi d a imm => immOk true 6 0 false (high d || high a) imm
  | .andi d a imm | .ori d a imm | .xori d a imm | .muli d a imm => immOk true 6 0 true (high d || high a) imm
  | .slli _ _ imm | .srli _ _ imm | .srai _ _ imm => decide (imm.toNat ≤ 63)
  | .ldB d a imm | .ldH d a imm | .ldW d a imm | .ldD d a imm | .stB d a imm | .stH d a imm | .stW d a imm
  | .stD d a imm => immOk true 4 0 false (high d || high a) imm
  | .ldBu d a imm | .ldHu d a imm | .ldWu d a imm => immOk true 4 0 true (high d || high a) imm
  | .ldAcq _ _ d a imm | .stRel _ _ d a imm => immOk true 4 0 true (high d || high a) imm
  | .ldlD d imm => immOk true 6 0 true (high d) imm
  | .brEq _ a imm | .brNe _ a imm | .brLt _ a imm | .brGe _ a imm => immOk true 5 0 false (high a) imm
  | .brEqTwoReg _ a b imm | .brNeTwoReg _ a b imm | .brLtTwoReg _ a b imm | .brGeTwoReg _ a b imm
  | .brLtu _ a b imm | .brGeu _ a b imm => immOk true 0 1 true (high a || high b) imm
  | .j imm | .jal imm => immOk true 8 0 false false imm
  | .jr a imm | .jalr a imm => immOk true 5 0 false (high a) imm
  | .amoAddScoped s _ _ _ | .amoAndScoped s _ _ _ | .amoOrScoped s _ _ _ | .amoXorScoped s _ _ _
  | .amoMinScoped s _ _ _ | .amoMaxScoped s _ _ _ | .amoSwapScoped s _ _ _ | .amoCasScoped s _ _ _ _ =>
    decide (s ≠ .c)
  | .cmoCleanL1 a d imm | .cmoCleanLlc a d imm | .cmoCleanMem a d imm | .cmoInvL1 a d imm | .cmoInvLlc a d imm
  | .cmoInvMem a d imm | .cmoClinvL1 a d imm | .cmoClinvLlc a d imm | .cmoClinvMem a d imm =>
    immOk false 6 0 true (high d || high a) imm
  | .vldW d a m imm | .vldD d a m imm => immOk true 4 0 false (high d || high a || m != 0) imm
  | .vstW d a m imm | .vstD d a m imm => immOk true 4 0 true (high d || high a || m != 0) imm
  | .hwaitF d a imm | .hwaitE d a imm | .hadvP d a imm | .hadvC d a imm =>
    immOk false 6 0 true (decide (8 ≤ d.toNat) || high a) imm
  | .afsamp d a imm => immOk false 6 0 true (high d || high a) imm
  | .cget _ imm | .cput _ imm => decide (imm.toNat ≤ 11)
  | .trap imm => decide (imm.toNat ≤ 0xFFFF)
  | .hstart d a imm => immOk true 6 0 true (high d || high a) imm
  | .hjoin _ imm => decide (imm.toNat ≤ 1023)
  | .pput d a imm | .ptake d a imm | .ptakeW d a imm | .pcancel d a imm =>
    immOk false 6 0 true (high d || high a) imm
  | _ => true

end Sys2Proof
end

