-- ==== Sys2Proof/Decode.lean ====
section
/-! DEFINITION. The decoder (R137 to R146, R193 to R210): words to an instruction or a refusal by name; then the
encoder from the same tables. Between the two stand the fields of an instruction: the register numbers with REG's
high bits joined, the selector of its layout and the immediate. -/

namespace Sys2Proof

/-- Why a sequence of words is no instruction. Each is the fault ILLEGAL (R193). -/
inductive DecodeError where
  | noBaseWord        -- five words of major 0xE (R139)
  | badKind           -- a word of major 0xE and kind 0b11 (R139)
  | order             -- a second PAGE or REG, or a word out of the canonical order (R139)
  | zeroPage          -- PAGE with payload 0 (R142)
  | zeroOrOnes        -- base word 0x0000 or 0xFFFF without PAGE (R143)
  | unassignedPage    -- R142
  | unassigned        -- a reserved function, size, condition or form (R193, R194)
  | fixedBit          -- a bit that the layout fixes at 0 (R143)
  | immediate         -- an IMM that the layout cannot take, or a missing one (R140, R144)
  | register          -- DH, AH, BH or C for a field that the layout lacks (R141)
  | operand           -- an operand outside its range or a nonzero unused field (R146, R195)
  deriving DecidableEq, Repr

/-- The words before the base word, in canonical order (R139), and the base word. -/
structure Head where
  page : BitVec 10
  reg  : Option (BitVec 10)
  imms : List (BitVec 10)
  base : BitVec 16
  deriving DecidableEq, Repr

/-- The base layouts (R144). -/
inductive Layout where
  | r | i | m | b | j | jr | c
  deriving DecidableEq, Repr

/-- An instruction's fields: register numbers with REG's high bits (R141), C, the selector of the layout (function,
size, condition or op), the form, the number of IMM words and the raw immediate (R140). -/
structure Fields where
  major  : BitVec 4
  page   : BitVec 10
  layout : Layout
  reg    : Bool
  d      : BitVec 5
  a      : BitVec 5
  b      : BitVec 5
  c      : BitVec 4
  sel    : BitVec 3
  form   : BitVec 2
  k      : Nat
  imm    : Word
  deriving DecidableEq, Repr

/-- A word of major 0xE stands before a base word (R137). -/
def isPre (w : BitVec 16) : Bool := w.extractLsb' 12 4 == 0xE#4

/-- The words of the instruction that begins a list: up to the first base word, or five (R139). -/
def instrWords : Nat → List (BitVec 16) → List (BitVec 16)
  | 0, _ => []
  | _ + 1, [] => []
  | n + 1, w :: ws => if isPre w then w :: instrWords n ws else [w]

/-- The length in words of the instruction that begins a list of words (R139). -/
def lengthWords (ws : List (BitVec 16)) : Nat := (instrWords 5 ws).length

/-- Where the canonical order stands: before PAGE, after PAGE, after REG, after an IMM (R139). -/
inductive Stage where
  | start | paged | regd | immd
  deriving DecidableEq, Repr

/-- Reads the words of one instruction in the canonical order (R139, R142, R143). -/
def parse : Stage → Head → List (BitVec 16) → Except DecodeError Head
  | _, _, [] => .error .noBaseWord
  | st, h, w :: ws =>
    if isPre w then
      let p := w.extractLsb' 0 10
      match (w.extractLsb' 10 2).toNat with
      | 0 => parse .immd { h with imms := h.imms ++ [p] } ws
      | 1 => if st = .start ∨ st = .paged then parse .regd { h with reg := some p } ws else .error .order
      | 2 =>
        if st = .start then
          if p = 0 then .error .zeroPage else parse .paged { h with page := p } ws
        else .error .order
      | _ => .error .badKind
    else if h.page = 0 ∧ (w = 0x0000#16 ∨ w = 0xFFFF#16) then .error .zeroOrOnes
    else .ok { h with base := w }

/-- Words of one instruction to its head; five words of major 0xE are no instruction. -/
def parseWords (ws : List (BitVec 16)) : Except DecodeError Head :=
  parse .start { page := 0, reg := none, imms := [], base := 0 } (instrWords 5 ws)

/-- The layout of a page (R145, R196 to R209); `top` is bits [11:8] of the base word, which select J and JR. -/
def layoutOf (major : Nat) (page : Nat) (top : Nat) : Option Layout :=
  match major with
  | 0 => if page ≤ 2 then some .r else none
  | 1 => if page ≤ 7 then some .i else none
  | 2 => if page ≤ 6 then some .m else if page = 7 then some .i else none
  | 3 => if page ≤ 5 then some .m else none
  | 4 =>
    if page = 0 then (if top < 12 then some .b else if top < 14 then some .j else some .jr)
    else if page = 1 then some .c else none
  | 5 => if page ≤ 1 then some .r else none
  | 6 => if page ≤ 4 then some .r else none
  | 7 => if page ≤ 5 then some .r else if page ≤ 14 then some .i else none
  | 8 => if page ≤ 6 then some .r else none
  | 9 => if page ≤ 1 then some .m else if page ≤ 4 then some .r else none
  | 10 => if page ≤ 3 then some .r else none
  | 11 => if page ≤ 1 then some .r else none
  | 12 => if page ≤ 1 then some .r else if page ≤ 5 then some .i else none
  | 13 => if page = 0 then some .r else if page = 1 then some .i else none
  | 15 =>
    if page ≤ 2 then some .i else if page = 3 then some .r else if page ≤ 9 then some .i
    else if page ≤ 13 then some .r else none
  | _ => none

/-- The width of the base word's immediate field (R144). -/
def Layout.width : Layout → Nat
  | .r => 0 | .i => 6 | .m => 4 | .b => 5 | .j => 8 | .jr => 5 | .c => 0

/-- The immediate of R140: the IMM payloads from the most significant, then the base field. -/
def joinImm (imms : List (BitVec 10)) (w field : Nat) : Nat :=
  imms.foldl (fun acc p => acc * 1024 + p.toNat) 0 * 2 ^ w + field

/-- Splits a head by its layout; a register field that the layout lacks must have no high bits (R141, R144). -/
def split (h : Head) : Except DecodeError Fields :=
  let major := h.base.extractLsb' 12 4
  match layoutOf major.toNat h.page.toNat (h.base.extractLsb' 8 4).toNat with
  | none => .error .unassignedPage
  | some l =>
    let p := h.reg.getD 0
    let dh := p.extractLsb' 8 2
    let ah := p.extractLsb' 6 2
    let bh := p.extractLsb' 4 2
    let f : Fields :=
      { major := major, page := h.page, layout := l, reg := h.reg.isSome, d := 0, a := 0, b := 0,
        c := p.extractLsb' 0 4, sel := 0, form := 0, k := h.imms.length, imm := 0 }
    let imm (n : Nat) : Word := BitVec.ofNat 64 (joinImm h.imms l.width n)
    match l with
    | .r =>
      if h.imms ≠ [] then .error .immediate
      else .ok { f with d := dh ++ h.base.extractLsb' 9 3, a := ah ++ h.base.extractLsb' 6 3,
                        b := bh ++ h.base.extractLsb' 3 3, sel := h.base.extractLsb' 0 3 }
    | .i =>
      if bh ≠ 0 then .error .register
      else .ok { f with d := dh ++ h.base.extractLsb' 9 3, a := ah ++ h.base.extractLsb' 6 3,
                        imm := imm (h.base.extractLsb' 0 6).toNat }
    | .m =>
      if bh ≠ 0 then .error .register
      else .ok { f with d := dh ++ h.base.extractLsb' 9 3, a := ah ++ h.base.extractLsb' 6 3,
                        sel := 0#1 ++ h.base.extractLsb' 4 2, imm := imm (h.base.extractLsb' 0 4).toNat }
    | .b =>
      if dh ≠ 0 ∨ bh ≠ 0 then .error .register
      else .ok { f with a := ah ++ h.base.extractLsb' 5 3, form := h.base.extractLsb' 10 2,
                        sel := 0#1 ++ h.base.extractLsb' 8 2, imm := imm (h.base.extractLsb' 0 5).toNat }
    | .j =>
      if h.reg.isSome then .error .register
      else .ok { f with form := 3, sel := 0#1 ++ h.base.extractLsb' 8 2, imm := imm (h.base.extractLsb' 0 8).toNat }
    | .jr =>
      if dh ≠ 0 ∨ bh ≠ 0 then .error .register
      else .ok { f with a := ah ++ h.base.extractLsb' 5 3, form := 3, sel := 0#1 ++ h.base.extractLsb' 8 2,
                        imm := imm (h.base.extractLsb' 0 5).toNat }
    | .c =>
      if dh ≠ 0 then .error .register
      else if h.base.extractLsb' 0 1 ≠ 0 then .error .fixedBit
      else if h.imms = [] then .error .immediate
      else .ok { f with a := ah ++ h.base.extractLsb' 7 3, b := bh ++ h.base.extractLsb' 4 3,
                        form := h.base.extractLsb' 10 2, sel := h.base.extractLsb' 1 3, imm := imm 0 }

/-- The immediate sign-extended from its w + 10k bits (R140). -/
def Fields.simm (f : Fields) : Word :=
  let n := f.layout.width + 10 * f.k
  (f.imm <<< (64 - n)).sshiftRight (64 - n)

/-- A form's check: the unused fields are 0 and the operands in range, else ILLEGAL (R146, R195). -/
def need (ok : Bool) (i : Instr) : Except DecodeError Instr := if ok then .ok i else .error .operand

/-- The form of a conditional branch (R144, R199); 0b11 is reserved in layout C. -/
def formOf (x : BitVec 2) : Option BrForm :=
  match x.toNat with
  | 0 => some .plain | 1 => some .t | 2 => some .n | _ => none

/-- The scope selector (R202). -/
def scopeOf (n : Nat) : Option Scope :=
  match n with
  | 0 => some .c | 1 => some .g | 2 => some .d | 3 => some .v | 4 => some .y | _ => none

namespace Form

/-! Operand forms: which fields a page's function uses (R196 to R210). -/

/-- Three registers. -/
def sss (k : SReg → SReg → SReg → Instr) (f : Fields) := need (f.c == 0) (k f.d f.a f.b)
/-- Three registers and C. -/
def sssc (k : SReg → SReg → SReg → CReg → Instr) (f : Fields) : Except DecodeError Instr := .ok (k f.d f.a f.b f.c)
/-- d and a. -/
def ss (k : SReg → SReg → Instr) (f : Fields) := need (f.b == 0 && f.c == 0) (k f.d f.a)
/-- a and b. -/
def zss (k : SReg → SReg → Instr) (f : Fields) := need (f.d == 0 && f.c == 0) (k f.a f.b)
/-- a, b and C. -/
def zssc (k : SReg → SReg → CReg → Instr) (f : Fields) := need (f.d == 0) (k f.a f.b f.c)
/-- a alone. -/
def zs (k : SReg → Instr) (f : Fields) := need (f.d == 0 && f.b == 0 && f.c == 0) (k f.a)
/-- d alone. -/
def s (k : SReg → Instr) (f : Fields) := need (f.a == 0 && f.b == 0 && f.c == 0) (k f.d)
/-- No field. -/
def nullary (k : Instr) (f : Fields) := need (f.d == 0 && f.a == 0 && f.b == 0 && f.c == 0) k
/-- No field and no word before the base word (R276). -/
def nullaryBare (k : Instr) (f : Fields) := need (f.d == 0 && f.a == 0 && f.b == 0 && !f.reg) k
/-- Three registers under the mask C. -/
def vvvm (k : VReg → VReg → VReg → KReg → Instr) (f : Fields) :=
  need (decide (f.c.toNat < 8)) (k f.d f.a f.b (f.c.setWidth 3))
/-- d and a under the mask C. -/
def vvm (k : VReg → VReg → KReg → Instr) (f : Fields) :=
  need (f.b == 0 && decide (f.c.toNat < 8)) (k f.d f.a (f.c.setWidth 3))
/-- A mask register from two vector registers under the mask C. -/
def kvvm (k : KReg → VReg → VReg → KReg → Instr) (f : Fields) :=
  need (decide (f.d.toNat < 8) && decide (f.c.toNat < 8)) (k (f.d.setWidth 3) f.a f.b (f.c.setWidth 3))
/-- Three mask registers. -/
def kkk (k : KReg → KReg → KReg → Instr) (f : Fields) :=
  need (decide (f.d.toNat < 8) && decide (f.a.toNat < 8) && decide (f.b.toNat < 8) && f.c == 0)
    (k (f.d.setWidth 3) (f.a.setWidth 3) (f.b.setWidth 3))
/-- A scalar register from a mask register under the mask C. -/
def skm (k : SReg → KReg → KReg → Instr) (f : Fields) :=
  need (decide (f.a.toNat < 8) && f.b == 0 && decide (f.c.toNat < 8)) (k f.d (f.a.setWidth 3) (f.c.setWidth 3))
/-- A mask register and an address. -/
def ks (k : KReg → SReg → Instr) (f : Fields) :=
  need (decide (f.d.toNat < 8) && f.b == 0 && f.c == 0) (k (f.d.setWidth 3) f.a)
/-- A ring handle in d. -/
def hss (k : HReg → SReg → SReg → Instr) (f : Fields) :=
  need (decide (f.d.toNat < 16) && f.c == 0) (k (f.d.setWidth 4) f.a f.b)
/-- A ring handle in a. -/
def vhs (k : VReg → HReg → SReg → Instr) (f : Fields) :=
  need (decide (f.a.toNat < 16) && f.c == 0) (k f.d (f.a.setWidth 4) f.b)
/-- A weight bank and a ring handle. -/
def wh (k : BitVec 1 → HReg → Instr) (f : Fields) :=
  need (decide (f.d.toNat < 2) && decide (f.a.toNat < 16) && f.b == 0 && f.c == 0)
    (k (f.d.setWidth 1) (f.a.setWidth 4))
/-- A tile or table, a ring handle and a register. -/
def ths (k : BitVec 2 → HReg → SReg → Instr) (f : Fields) :=
  need (decide (f.d.toNat < 4) && decide (f.a.toNat < 16) && f.c == 0) (k (f.d.setWidth 2) (f.a.setWidth 4) f.b)
/-- A tile, a ring handle, a register and a ring handle in C. -/
def thsh (k : BitVec 2 → HReg → SReg → HReg → Instr) (f : Fields) :=
  need (decide (f.d.toNat < 4) && decide (f.a.toNat < 16)) (k (f.d.setWidth 2) (f.a.setWidth 4) f.b f.c)
/-- A ring handle and a tile. -/
def ht (k : HReg → Tile → Instr) (f : Fields) :=
  need (decide (f.d.toNat < 16) && decide (f.a.toNat < 4) && f.b == 0 && f.c == 0)
    (k (f.d.setWidth 4) (f.a.setWidth 2))
/-- A tile. -/
def t (k : Tile → Instr) (f : Fields) :=
  need (decide (f.d.toNat < 4) && f.a == 0 && f.b == 0 && f.c == 0) (k (f.d.setWidth 2))
/-- hget: a ring handle in a and the selector b, 0 to 4 (R207). -/
def hget (f : Fields) : Except DecodeError Instr :=
  if f.a.toNat < 16 ∧ f.c = 0 then
    match f.b.toNat with
    | 0 => .ok (.hget f.d (f.a.setWidth 4) .base)
    | 1 => .ok (.hget f.d (f.a.setWidth 4) .fill)
    | 2 => .ok (.hget f.d (f.a.setWidth 4) .drain)
    | 3 => .ok (.hget f.d (f.a.setWidth 4) .count)
    | 4 => .ok (.hget f.d (f.a.setWidth 4) .geometry)
    | _ => .error .operand
  else .error .operand
/-- fence: scope in d, class in a, no REG word (R202, R232). -/
noncomputable def fence (f : Fields) : Except DecodeError Instr :=
  if f.b = 0 ∧ f.reg = false then
    match scopeOf f.d.toNat, f.a.toNat with
    | some sc, 1 => .ok (.fence sc .r)
    | some sc, 2 => .ok (.fence sc .w)
    | some sc, 3 => .ok (.fence sc .rw)
    | _, _ => .error .operand
  else .error .operand
/-- chbind: s24 to s31 in d, endpoint 8a + b with AH and BH 0 (R202, R234). -/
noncomputable def chbind (f : Fields) :=
  need (decide (24 ≤ f.d.toNat) && decide (f.a.toNat < 8) && decide (f.b.toNat < 8) && f.c == 0)
    (.chbind (f.d.setWidth 3) (f.a.setWidth 3 ++ f.b.setWidth 3))
/-- vcvt: the selector b, 0 to 7 (R205). -/
def vcvt (f : Fields) : Except DecodeError Instr :=
  if f.c = 0 then
    match f.b.toNat with
    | 0 => .ok (.vcvtF32I32 f.d f.a) | 1 => .ok (.vcvtI32F32 f.d f.a)
    | 2 => .ok (.vcvtF64F32 f.d f.a) | 3 => .ok (.vcvtF32F64 f.d f.a)
    | 4 => .ok (.vcvtF16F32 f.d f.a) | 5 => .ok (.vcvtF32F16 f.d f.a)
    | 6 => .ok (.vcvtBf16F32 f.d f.a) | 7 => .ok (.vcvtF32Bf16 f.d f.a)
    | _ => .error .operand
  else .error .operand
/-- gcancel: the level in d (R209). -/
noncomputable def gcancel (f : Fields) : Except DecodeError Instr :=
  if f.b = 0 ∧ f.c = 0 then
    match f.d.toNat with
    | 0 => .ok (.gcancel .unit f.a) | 1 => .ok (.gcancel .launch f.a) | 2 => .ok (.gcancel .graph f.a)
    | 3 => .ok (.gcancel .phase f.a) | 4 => .ok (.gcancel .job f.a) | _ => .error .operand
  else .error .operand
/-- bar.init: the vote operation in b (R209, R210). -/
noncomputable def barInit (f : Fields) : Except DecodeError Instr :=
  if f.d = 0 then
    match f.b.toNat with
    | 0 => .ok (.barInit (f.sel ++ f.c) f.a .or) | 1 => .ok (.barInit (f.sel ++ f.c) f.a .and)
    | 2 => .ok (.barInit (f.sel ++ f.c) f.a .max) | _ => .error .operand
  else .error .operand
/-- bar.wait (R209, R210). -/
noncomputable def barWait (f : Fields) := need (f.a == 0 && f.b == 0) (.barWait (f.sel ++ f.c) f.d)
/-- bar.vote (R209, R210). -/
noncomputable def barVote (f : Fields) : Except DecodeError Instr := .ok (.barVote (f.sel ++ f.c) f.d f.a f.b)

/-- d, a and a signed immediate. -/
def dis (k : SReg → SReg → Word → Instr) (f : Fields) := need (f.c == 0) (k f.d f.a f.simm)
/-- d, a and an unsigned immediate. -/
def diz (k : SReg → SReg → Word → Instr) (f : Fields) := need (f.c == 0) (k f.d f.a f.imm)
/-- a shift by an immediate of at most 63 (R197). -/
def shift (k : SReg → SReg → Word → Instr) (f : Fields) :=
  need (f.c == 0 && decide (f.imm.toNat ≤ 63)) (k f.d f.a f.imm)
/-- a (address), d (length register) and an unsigned immediate (R202). -/
def ad (k : SReg → SReg → Word → Instr) (f : Fields) := need (f.c == 0) (k f.a f.d f.imm)
/-- A ring handle in d, a register and an unsigned immediate (R207). -/
def ha (k : HReg → SReg → Word → Instr) (f : Fields) :=
  need (decide (f.d.toNat < 16) && f.c == 0) (k (f.d.setWidth 4) f.a f.imm)
/-- A vector register, a base, a signed immediate and the mask C (R204). -/
def vmem (k : VReg → SReg → KReg → Word → Instr) (f : Fields) :=
  need (decide (f.c.toNat < 8)) (k f.d f.a (f.c.setWidth 3) f.simm)
/-- A branch on a register and zero (R199). -/
def br (k : BrForm → SReg → Word → Instr) (f : Fields) : Except DecodeError Instr :=
  match formOf f.form with
  | some fm => need (f.c == 0) (k fm f.a f.simm)
  | none => .error .unassigned
/-- A branch on two registers (R199). -/
def br2 (k : BrForm → SReg → SReg → Word → Instr) (f : Fields) : Except DecodeError Instr :=
  match formOf f.form with
  | some fm => need (f.c == 0) (k fm f.a f.b f.simm)
  | none => .error .unassigned

end Form

open Form

/-- Layout R pages of major 0x8: vector arithmetic (R203). -/
def interpR8 (f : Fields) : Except DecodeError Instr :=
  match f.page.toNat, f.sel.toNat with
  | 0, 0 => vvvm .vaddF32 f
  | 0, 1 => vvvm .vsubF32 f
  | 0, 2 => vvvm .vmulF32 f
  | 0, 3 => vvvm .vfmaF32 f
  | 0, 4 => vvvm .vminF32 f
  | 0, 5 => vvvm .vmaxF32 f
  | 0, 6 => vvvm .vdivF32 f
  | 0, 7 => vvm .vsqrtF32 f
  | 1, 0 => vvvm .vaddF64 f
  | 1, 1 => vvvm .vsubF64 f
  | 1, 2 => vvvm .vmulF64 f
  | 1, 3 => vvvm .vfmaF64 f
  | 1, 4 => vvvm .vminF64 f
  | 1, 5 => vvvm .vmaxF64 f
  | 1, 6 => vvvm .vdivF64 f
  | 1, 7 => vvm .vsqrtF64 f
  | 2, 0 => vvvm .vaddI32 f
  | 2, 1 => vvvm .vsubI32 f
  | 2, 2 => vvvm .vmulI32 f
  | 2, 3 => vvvm .vand f
  | 2, 4 => vvvm .vor f
  | 2, 5 => vvvm .vxor f
  | 2, 6 => vvvm .vsllI32 f
  | 2, 7 => vvvm .vsrlI32 f
  | 3, 0 => vvvm .vsraI32 f
  | 3, 1 => vvvm .vminI32 f
  | 3, 2 => vvvm .vmaxI32 f
  | 3, 3 => vvvm .vminuI32 f
  | 3, 4 => vvvm .vmaxuI32 f
  | 3, 5 => vvvm .vaddsI32 f
  | 3, 6 => vvvm .vsubsI32 f
  | 3, 7 => vvvm .vmulhI32 f
  | 4, 0 => vvvm .vaddI64 f
  | 4, 1 => vvvm .vsubI64 f
  | 4, 2 => vvvm .vmulI64 f
  | 4, 3 => vvvm .vsllI64 f
  | 4, 4 => vvvm .vsrlI64 f
  | 4, 5 => vvvm .vsraI64 f
  | 4, 6 => vvvm .vminI64 f
  | 4, 7 => vvvm .vmaxI64 f
  | 5, 0 => kvvm .vceqF32 f
  | 5, 1 => kvvm .vcltF32 f
  | 5, 2 => kvvm .vcleF32 f
  | 5, 3 => kvvm .vceqI32 f
  | 5, 4 => kvvm .vcltI32 f
  | 5, 5 => kvvm .vcltuI32 f
  | 5, 6 => kvvm .vceqF64 f
  | 5, 7 => kvvm .vcltF64 f
  | 6, 0 => kkk .kand f
  | 6, 1 => kkk .kor f
  | 6, 2 => kkk .kxor f
  | 6, 3 => kkk .kandn f
  | 6, 4 => vvvm .vsel f
  | 6, 5 => vvm .vbcast f
  | 6, 6 => vvvm .vmovs f
  | 6, 7 => skm .kpop f
  | _, _ => .error .unassigned

/-- Layout R pages of major 0x9: vector memory (R204). -/
def interpR9 (f : Fields) : Except DecodeError Instr :=
  match f.page.toNat, f.sel.toNat with
  | 2, 0 => vvvm .vldxW f
  | 3, 0 => vvvm .vstxW f
  | 4, 0 => ks .kld f
  | 4, 1 => ks .kst f
  | _, _ => .error .unassigned

/-- Layout R pages of major 0xA: vector reduce and permute (R205). -/
def interpR10 (f : Fields) : Except DecodeError Instr :=
  match f.page.toNat, f.sel.toNat with
  | 0, 0 => vvm .vredsumF32 f
  | 0, 1 => vvm .vredmaxF32 f
  | 0, 2 => vvm .vredminF32 f
  | 0, 3 => vvm .vredsumF64 f
  | 0, 4 => vvm .vredsumI32 f
  | 0, 5 => vvm .vredmaxI32 f
  | 0, 6 => vvm .vredsumI64 f
  | 0, 7 => vvm .vredor f
  | 1, 0 => sss .vperm f
  | 1, 1 => sss .vslide f
  | 1, 2 => sssc .vfsl f
  | 1, 3 => sssc .vfsr f
  | 1, 4 => sssc .vlut3 f
  | 1, 5 => sss .vrng f
  | 1, 6 => vcvt f
  | 2, 0 => vvm .vscanF32 f
  | 2, 1 => vvm .vscanI32 f
  | 2, 2 => vvm .vsortxF32 f
  | 2, 3 => vvm .vexp2F32 f
  | 3, 0 => hss .venc f
  | 3, 1 => vhs .vdec f
  | _, _ => .error .unassigned

/-- Layout R pages of major 0xB: matrix (R206). -/
def interpR11 (f : Fields) : Except DecodeError Instr :=
  match f.page.toNat, f.sel.toNat with
  | 0, 0 => nullaryBare .mlease f
  | 0, 1 => nullaryBare .mleaseRel f
  | 0, 2 => wh .mloadW f
  | 0, 3 => nullary .mswap f
  | 0, 4 => ths .mmac f
  | 0, 5 => thsh .mgrp f
  | 0, 6 => ht .mst f
  | 0, 7 => t .mzero f
  | 1, 0 => ths .mloadT f
  | _, _ => .error .unassigned

/-- Layout R pages of major 0xC: copy and rings (R207). -/
def interpR12 (f : Fields) : Except DecodeError Instr :=
  match f.page.toNat, f.sel.toNat with
  | 0, 0 => sssc (.cpq 0) f
  | 0, 1 => sssc (.cpq 1) f
  | 0, 2 => sssc (.cpq 2) f
  | 0, 3 => sssc (.cpq 3) f
  | 0, 4 => zs (.cpwait 0) f
  | 0, 5 => zs (.cpwait 1) f
  | 0, 6 => zs (.cpwait 2) f
  | 0, 7 => zs (.cpwait 3) f
  | 1, 0 => hss .hset f
  | 1, 1 => hget f
  | 1, 2 => ss .evwait f
  | 1, 3 => ss .evtry f
  | _, _ => .error .unassigned

/-- Layout R pages of major 0xD: fabric (R208). -/
def interpR13 (f : Fields) : Except DecodeError Instr :=
  match f.page.toNat, f.sel.toNat with
  | 0, 0 => ss .afcfgClaim f
  | 0, 1 => nullary .afcfgRel f
  | 0, 2 => zss .afcfg f
  | 0, 3 => zs .afscale f
  | 0, 4 => nullary .afrun f
  | 0, 5 => s .afwait f
  | 0, 6 => s .afwaitTry f
  | _, _ => .error .unassigned

/-- Layout I pages of majors 0xC and 0xD (R207, R208). As many IMM prefixes as R140 admits may widen Imm (log entry 143). -/
def interpEngI (f : Fields) : Except DecodeError Instr :=
  match f.major.toNat, f.page.toNat with
  | 12, 2 => ha .hwaitF f
  | 12, 3 => ha .hwaitE f
  | 12, 4 => ha .hadvP f
  | 12, 5 => ha .hadvC f
  | 13, 1 => diz .afsamp f
  | _, _ => .error .unassigned

/-- Layout M pages of major 0x9 (R204). -/
def interpEngM (f : Fields) : Except DecodeError Instr :=
  match f.page.toNat, f.sel.toNat with
  | 0, 2 => vmem .vldW f
  | 0, 3 => vmem .vldD f
  | 1, 2 => vmem .vstW f
  | 1, 3 => vmem .vstD f
  | _, _ => .error .unassigned

/-- Fields to an engine-bound instruction, majors 0x8 to 0xD (R203 to R208, R265). -/
def interpEngine (f : Fields) : Except DecodeError Instr :=
  match f.layout, f.major.toNat with
  | .r, 8 => interpR8 f
  | .r, 9 => interpR9 f
  | .r, 10 => interpR10 f
  | .r, 11 => interpR11 f
  | .r, 12 => interpR12 f
  | .r, 13 => interpR13 f
  | .i, _ => interpEngI f
  | .m, 9 => interpEngM f
  | _, _ => .error .unassignedPage

/-- The decoder on the words of an engine-bound instruction, as a switch image holds them (R347). -/
def decodeEngine (ws : List (BitVec 16)) : Except DecodeError Instr := do
  interpEngine (← split (← parseWords ws))

noncomputable section

/-- Layout R pages of major 0x0: ALU (R196). -/
def interpR0 (f : Fields) : Except DecodeError Instr :=
  match f.page.toNat, f.sel.toNat with
  | 0, 1 => sss .add f
  | 0, 2 => sss .sub f
  | 0, 3 => sss .and f
  | 0, 4 => sss .or f
  | 0, 5 => sss .xor f
  | 0, 6 => sss .sll f
  | 0, 7 => sss .srl f
  | 1, 0 => sss .sra f
  | 1, 1 => sss .mul f
  | 1, 2 => sss .mulh f
  | 1, 3 => sss .mulhu f
  | 1, 4 => sss .div f
  | 1, 5 => sss .divu f
  | 1, 6 => sss .rem f
  | 1, 7 => sss .remu f
  | 2, 0 => sss .addw f
  | 2, 1 => sss .subw f
  | 2, 2 => sss .sllw f
  | 2, 3 => sss .srlw f
  | 2, 4 => sss .sraw f
  | 2, 5 => sss .mulw f
  | 2, 6 => sssc .madd f
  | _, _ => .error .unassigned

/-- Layout R pages of major 0x5: compare (R200). -/
def interpR5 (f : Fields) : Except DecodeError Instr :=
  match f.page.toNat, f.sel.toNat with
  | 0, 0 => sss .slt f
  | 0, 1 => sss .sltu f
  | 0, 2 => sss .seq f
  | 0, 3 => sssc .sel f
  | 0, 4 => sss .min f
  | 0, 5 => sss .max f
  | 0, 6 => sss .minu f
  | 0, 7 => sss .maxu f
  | 1, 0 => ss .clz f
  | 1, 1 => ss .ctz f
  | 1, 2 => ss .popc f
  | 1, 3 => ss .rev8 f
  | 1, 4 => sss .rol f
  | 1, 5 => sss .ror f
  | 1, 6 => sss .andn f
  | 1, 7 => sss .orn f
  | _, _ => .error .unassigned

/-- Layout R pages of major 0x6: floating point (R201). -/
def interpR6 (f : Fields) : Except DecodeError Instr :=
  match f.page.toNat, f.sel.toNat with
  | 0, 0 => sss .faddD f
  | 0, 1 => sss .fsubD f
  | 0, 2 => sss .fmulD f
  | 0, 3 => sss .fdivD f
  | 0, 4 => sss .fminD f
  | 0, 5 => sss .fmaxD f
  | 0, 6 => ss .fsqrtD f
  | 0, 7 => sssc .fmaddD f
  | 1, 0 => sss .faddS f
  | 1, 1 => sss .fsubS f
  | 1, 2 => sss .fmulS f
  | 1, 3 => sss .fdivS f
  | 1, 4 => sss .fminS f
  | 1, 5 => sss .fmaxS f
  | 1, 6 => ss .fsqrtS f
  | 1, 7 => sssc .fmaddS f
  | 2, 0 => sss .feqD f
  | 2, 1 => sss .fltD f
  | 2, 2 => sss .fleD f
  | 2, 3 => sss .feqS f
  | 2, 4 => sss .fltS f
  | 2, 5 => sss .fleS f
  | 2, 6 => ss .fclassD f
  | 2, 7 => ss .fclassS f
  | 3, 0 => ss .fcvtDS f
  | 3, 1 => ss .fcvtSD f
  | 3, 2 => ss .fcvtLD f
  | 3, 3 => ss .fcvtLuD f
  | 3, 4 => ss .fcvtDL f
  | 3, 5 => ss .fcvtDLu f
  | 3, 6 => ss .fcvtWS f
  | 3, 7 => ss .fcvtSW f
  | 4, 0 => ss .fcvtWD f
  | 4, 1 => ss .fcvtWuD f
  | 4, 2 => ss .fcvtLS f
  | 4, 3 => ss .fcvtLuS f
  | 4, 4 => ss .fcvtSL f
  | 4, 5 => ss .fcvtSLu f
  | 4, 6 => ss .fcvtWuS f
  | 4, 7 => ss .fcvtSWu f
  | _, _ => .error .unassigned

/-- Layout R pages of major 0x7: atomics and channels (R202). -/
def interpR7 (f : Fields) : Except DecodeError Instr :=
  match f.page.toNat, f.sel.toNat with
  | 0, 0 => sss .amoAdd f
  | 0, 1 => sss .amoAnd f
  | 0, 2 => sss .amoOr f
  | 0, 3 => sss .amoXor f
  | 0, 4 => sss .amoMin f
  | 0, 5 => sss .amoMax f
  | 0, 6 => sss .amoSwap f
  | 0, 7 => sssc .amoCas f
  | 1, 0 => sss (.amoAddScoped .g) f
  | 1, 1 => sss (.amoAndScoped .g) f
  | 1, 2 => sss (.amoOrScoped .g) f
  | 1, 3 => sss (.amoXorScoped .g) f
  | 1, 4 => sss (.amoMinScoped .g) f
  | 1, 5 => sss (.amoMaxScoped .g) f
  | 1, 6 => sss (.amoSwapScoped .g) f
  | 1, 7 => sssc (.amoCasScoped .g) f
  | 2, 0 => sss (.amoAddScoped .d) f
  | 2, 1 => sss (.amoAndScoped .d) f
  | 2, 2 => sss (.amoOrScoped .d) f
  | 2, 3 => sss (.amoXorScoped .d) f
  | 2, 4 => sss (.amoMinScoped .d) f
  | 2, 5 => sss (.amoMaxScoped .d) f
  | 2, 6 => sss (.amoSwapScoped .d) f
  | 2, 7 => sssc (.amoCasScoped .d) f
  | 3, 0 => sss (.amoAddScoped .v) f
  | 3, 1 => sss (.amoAndScoped .v) f
  | 3, 2 => sss (.amoOrScoped .v) f
  | 3, 3 => sss (.amoXorScoped .v) f
  | 3, 4 => sss (.amoMinScoped .v) f
  | 3, 5 => sss (.amoMaxScoped .v) f
  | 3, 6 => sss (.amoSwapScoped .v) f
  | 3, 7 => sssc (.amoCasScoped .v) f
  | 4, 0 => sss (.amoAddScoped .y) f
  | 4, 1 => sss (.amoAndScoped .y) f
  | 4, 2 => sss (.amoOrScoped .y) f
  | 4, 3 => sss (.amoXorScoped .y) f
  | 4, 4 => sss (.amoMinScoped .y) f
  | 4, 5 => sss (.amoMaxScoped .y) f
  | 4, 6 => sss (.amoSwapScoped .y) f
  | 4, 7 => sssc (.amoCasScoped .y) f
  | 5, 0 => fence f
  | 5, 1 => chbind f
  | 5, 2 => zss .chsend f
  | _, _ => .error .unassigned

/-- Layout R pages of major 0xF: system (R209). -/
def interpR15 (f : Fields) : Except DecodeError Instr :=
  match f.page.toNat, f.sel.toNat with
  | 3, 0 => nullary .hexit f
  | 3, 1 => nullary .gdone f
  | 3, 2 => nullary .eret f
  | 3, 3 => gcancel f
  | 3, 4 => ss .garm f
  | 3, 5 => ss .larm f
  | 3, 6 => zssc .lpatch f
  | 13, 0 => s .itake f
  | 13, 1 => s .irel f
  | 13, 2 => s .iwait f
  | 13, 3 => ss .iwaitP f
  | 10, _ => barInit f
  | 11, _ => barWait f
  | 12, _ => barVote f
  | _, _ => .error .unassigned

/-- Layout I pages (R197, R198, R202, R207 to R209). cget, cput and hjoin admit further IMM prefixes of payload 0 (log entry
143). -/
def interpI (f : Fields) : Except DecodeError Instr :=
  match f.major.toNat, f.page.toNat with
  | 1, 0 => dis .addi f
  | 1, 1 => dis .andi f
  | 1, 2 => dis .ori f
  | 1, 3 => dis .xori f
  | 1, 4 => shift .slli f
  | 1, 5 => shift .srli f
  | 1, 6 => shift .srai f
  | 1, 7 => dis .muli f
  | 2, 7 => need (f.a == 0 && f.c == 0) (.ldlD f.d f.simm)
  | 7, 6 => ad .cmoCleanL1 f
  | 7, 7 => ad .cmoCleanLlc f
  | 7, 8 => ad .cmoCleanMem f
  | 7, 9 => ad .cmoInvL1 f
  | 7, 10 => ad .cmoInvLlc f
  | 7, 11 => ad .cmoInvMem f
  | 7, 12 => ad .cmoClinvL1 f
  | 7, 13 => ad .cmoClinvLlc f
  | 7, 14 => ad .cmoClinvMem f
  | 12, _ | 13, _ => interpEngI f
  | 15, 0 => need (f.a == 0 && f.c == 0 && decide (f.imm.toNat ≤ 11)) (.cget f.d f.imm)
  | 15, 1 => need (f.d == 0 && f.c == 0 && decide (f.imm.toNat ≤ 11)) (.cput f.a f.imm)
  | 15, 2 => dis .hstart f
  | 15, 4 => need (f.d == 0 && f.c == 0 && decide (f.imm.toNat ≤ 1023)) (.hjoin f.a f.imm)
  | 15, 5 => need (f.d == 0 && f.a == 0 && f.c == 0 && decide (f.k ≤ 1)) (.trap f.imm)
  | 15, 6 => diz .pput f
  | 15, 7 => diz .ptake f
  | 15, 8 => diz .ptakeW f
  | 15, 9 => diz .pcancel f
  | _, _ => .error .unassigned

/-- Layout M pages (R198, R204). -/
def interpM (f : Fields) : Except DecodeError Instr :=
  match f.major.toNat, f.page.toNat, f.sel.toNat with
  | 2, 0, 0 => dis .ldB f
  | 2, 0, 1 => dis .ldH f
  | 2, 0, 2 => dis .ldW f
  | 2, 0, 3 => dis .ldD f
  | 2, 1, 0 => dis .ldBu f
  | 2, 1, 1 => dis .ldHu f
  | 2, 1, 2 => dis .ldWu f
  | 2, 2, 0 => dis (.ldAcq .c 0) f
  | 2, 2, 1 => dis (.ldAcq .c 1) f
  | 2, 2, 2 => dis (.ldAcq .c 2) f
  | 2, 2, 3 => dis (.ldAcq .c 3) f
  | 2, 3, 0 => dis (.ldAcq .g 0) f
  | 2, 3, 1 => dis (.ldAcq .g 1) f
  | 2, 3, 2 => dis (.ldAcq .g 2) f
  | 2, 3, 3 => dis (.ldAcq .g 3) f
  | 2, 4, 0 => dis (.ldAcq .d 0) f
  | 2, 4, 1 => dis (.ldAcq .d 1) f
  | 2, 4, 2 => dis (.ldAcq .d 2) f
  | 2, 4, 3 => dis (.ldAcq .d 3) f
  | 2, 5, 0 => dis (.ldAcq .v 0) f
  | 2, 5, 1 => dis (.ldAcq .v 1) f
  | 2, 5, 2 => dis (.ldAcq .v 2) f
  | 2, 5, 3 => dis (.ldAcq .v 3) f
  | 2, 6, 0 => dis (.ldAcq .y 0) f
  | 2, 6, 1 => dis (.ldAcq .y 1) f
  | 2, 6, 2 => dis (.ldAcq .y 2) f
  | 2, 6, 3 => dis (.ldAcq .y 3) f
  | 3, 0, 0 => dis .stB f
  | 3, 0, 1 => dis .stH f
  | 3, 0, 2 => dis .stW f
  | 3, 0, 3 => dis .stD f
  | 3, 1, 0 => dis (.stRel .c 0) f
  | 3, 1, 1 => dis (.stRel .c 1) f
  | 3, 1, 2 => dis (.stRel .c 2) f
  | 3, 1, 3 => dis (.stRel .c 3) f
  | 3, 2, 0 => dis (.stRel .g 0) f
  | 3, 2, 1 => dis (.stRel .g 1) f
  | 3, 2, 2 => dis (.stRel .g 2) f
  | 3, 2, 3 => dis (.stRel .g 3) f
  | 3, 3, 0 => dis (.stRel .d 0) f
  | 3, 3, 1 => dis (.stRel .d 1) f
  | 3, 3, 2 => dis (.stRel .d 2) f
  | 3, 3, 3 => dis (.stRel .d 3) f
  | 3, 4, 0 => dis (.stRel .v 0) f
  | 3, 4, 1 => dis (.stRel .v 1) f
  | 3, 4, 2 => dis (.stRel .v 2) f
  | 3, 4, 3 => dis (.stRel .v 3) f
  | 3, 5, 0 => dis (.stRel .y 0) f
  | 3, 5, 1 => dis (.stRel .y 1) f
  | 3, 5, 2 => dis (.stRel .y 2) f
  | 3, 5, 3 => dis (.stRel .y 3) f
  | 9, _, _ => interpEngM f
  | _, _, _ => .error .unassigned

/-- Layout B: a compared with zero (R199). -/
def interpB (f : Fields) : Except DecodeError Instr :=
  match f.sel.toNat with
  | 0 => br .brEq f | 1 => br .brNe f | 2 => br .brLt f | 3 => br .brGe f
  | _ => .error .unassigned

/-- Layout C: a compared with b (R199). -/
def interpC (f : Fields) : Except DecodeError Instr :=
  match f.sel.toNat with
  | 0 => br2 .brEqTwoReg f | 1 => br2 .brNeTwoReg f | 2 => br2 .brLtTwoReg f | 3 => br2 .brGeTwoReg f
  | 4 => br2 .brLtu f | 5 => br2 .brGeu f
  | _ => .error .unassigned

/-- Layouts J and JR (R199). -/
def interpJ (f : Fields) : Except DecodeError Instr :=
  match f.sel.toNat with
  | 0 => need (f.c == 0) (.j f.simm)
  | 1 => need (f.c == 0) (.jal f.simm)
  | 2 => need (f.c == 0) (.jr f.a f.simm)
  | 3 => need (f.c == 0) (.jalr f.a f.simm)
  | _ => .error .unassigned

/-- Fields to an instruction by the opcode map (file 09). -/
def interp (f : Fields) : Except DecodeError Instr :=
  match f.layout with
  | .r =>
    match f.major.toNat with
    | 0 => interpR0 f
    | 5 => interpR5 f
    | 6 => interpR6 f
    | 7 => interpR7 f
    | 8 => interpR8 f
    | 9 => interpR9 f
    | 10 => interpR10 f
    | 11 => interpR11 f
    | 12 => interpR12 f
    | 13 => interpR13 f
    | 15 => interpR15 f
    | _ => .error .unassignedPage
  | .i => interpI f
  | .m => interpM f
  | .b => interpB f
  | .j | .jr => interpJ f
  | .c => interpC f

/-- The decoder on words (R193): total, and every refusal has its name. -/
def decodeWords (ws : List (BitVec 16)) : Except DecodeError Instr := do
  interp (← split (← parseWords ws))

/-- Little-endian halfwords of a list of bytes (R3); a last odd byte is dropped. -/
def halfwords : List Byte → List (BitVec 16)
  | lo :: hi :: rest => (hi ++ lo) :: halfwords rest
  | _ => []

/-- The decoder on any bytes: the instruction, or why there is none, and the instruction's length in bytes. -/
def decode (bytes : List Byte) : Except DecodeError Instr × Nat :=
  let ws := halfwords bytes
  (decodeWords ws, 2 * lengthWords ws)

/-- The instruction the decoder reads from the opcode table's number `w` of `nbits` bits. A row of 32 bits gives the
PAGE word in bits 31 to 16 and the base word in bits 15 to 0 (log entry 7): a high half of major 0xE is the first
word in memory. Otherwise the low half is. -/
def tableWords (nbits w : Nat) : List (BitVec 16) :=
  let lo := BitVec.ofNat 16 w
  let hi := BitVec.ofNat 16 (w / 65536)
  if nbits ≤ 16 then [lo] else if isPre hi then [hi, lo] else [lo, hi]

/-- `decode` on the row's number (log entry 7). -/
def decodeTableWord (nbits w : Nat) : Option Instr := (decodeWords (tableWords nbits w)).toOption

end

/-! The encoder: the fields of an instruction from the same tables, then its words with the fewest before the base
word (R85). -/

/-- The fields of layout R. -/
def fieldsR (major page sel : Nat) (d a b : BitVec 5) (c : BitVec 4) : Fields :=
  { major := BitVec.ofNat 4 major, page := BitVec.ofNat 10 page, layout := .r,
    reg := high d || high a || high b || c != 0, d := d, a := a, b := b, c := c, sel := BitVec.ofNat 3 sel, form := 0,
    k := 0, imm := 0 }

/-- The immediate's raw bits and the fewest IMM words that carry it (R85, R140). -/
def withImm (f : Fields) (signed : Bool) (from_ : Nat) (v : Word) : Fields :=
  let k := leastImm signed f.layout.width from_ v
  { f with k := k, imm := BitVec.ofNat 64 (v.toNat % 2 ^ (f.layout.width + 10 * k)) }

/-- The fields of layout I. -/
def fieldsI (major page : Nat) (d a : BitVec 5) (signed : Bool) (v : Word) : Fields :=
  withImm { fieldsR major page 0 d a 0 0 with layout := .i } signed 0 v

/-- The fields of layout M. -/
def fieldsM (major page z : Nat) (d a : BitVec 5) (c : BitVec 4) (v : Word) : Fields :=
  withImm { fieldsR major page z d a 0 c with layout := .m } true 0 v

/-- A branch form's bits (R144). -/
def BrForm.bits : BrForm → BitVec 2
  | .plain => 0 | .t => 1 | .n => 2

/-- The fields of layout B. -/
def fieldsB (fm : BrForm) (cond : Nat) (a : SReg) (v : Word) : Fields :=
  withImm { fieldsR 4 0 cond 0 a 0 0 with layout := .b, form := fm.bits } true 0 v

/-- The fields of layout C, which carries at least one IMM word. -/
def fieldsC (fm : BrForm) (cond : Nat) (a b : SReg) (v : Word) : Fields :=
  withImm { fieldsR 4 1 cond 0 a b 0 with layout := .c, form := fm.bits } true 1 v

/-- The fields of layouts J and JR. -/
def fieldsJ (l : Layout) (op : Nat) (a : SReg) (v : Word) : Fields :=
  withImm { fieldsR 4 0 op 0 a 0 0 with layout := l, form := 3 } true 0 v

/-- A scope's selector (R202). -/
def Scope.sel : Scope → Nat
  | .c => 0 | .g => 1 | .d => 2 | .v => 3 | .y => 4

/-- The class selector of a fence (R202). -/
def FenceClass.sel : FenceClass → BitVec 5
  | .r => 1 | .w => 2 | .rw => 3

/-- The level selector of a cancel (R316). -/
def CancelLevel.sel : CancelLevel → BitVec 5
  | .unit => 0 | .launch => 1 | .graph => 2 | .phase => 3 | .job => 4

/-- The selector of a vote operation (R325). -/
def VoteOp.sel : VoteOp → BitVec 5
  | .or => 0 | .and => 1 | .max => 2

/-- The selector of hget (R271). -/
def HField.sel : HField → BitVec 5
  | .base => 0 | .fill => 1 | .drain => 2 | .count => 3 | .geometry => 4

/-- The fields of an instruction; none for an event, which has no encoding. -/
def Instr.fields : Instr → Option Fields
  | .add d a b => some (fieldsR 0 0 1 d a b 0)
  | .sub d a b => some (fieldsR 0 0 2 d a b 0)
  | .and d a b => some (fieldsR 0 0 3 d a b 0)
  | .or d a b => some (fieldsR 0 0 4 d a b 0)
  | .xor d a b => some (fieldsR 0 0 5 d a b 0)
  | .sll d a b => some (fieldsR 0 0 6 d a b 0)
  | .srl d a b => some (fieldsR 0 0 7 d a b 0)
  | .sra d a b => some (fieldsR 0 1 0 d a b 0)
  | .mul d a b => some (fieldsR 0 1 1 d a b 0)
  | .mulh d a b => some (fieldsR 0 1 2 d a b 0)
  | .mulhu d a b => some (fieldsR 0 1 3 d a b 0)
  | .div d a b => some (fieldsR 0 1 4 d a b 0)
  | .divu d a b => some (fieldsR 0 1 5 d a b 0)
  | .rem d a b => some (fieldsR 0 1 6 d a b 0)
  | .remu d a b => some (fieldsR 0 1 7 d a b 0)
  | .addw d a b => some (fieldsR 0 2 0 d a b 0)
  | .subw d a b => some (fieldsR 0 2 1 d a b 0)
  | .sllw d a b => some (fieldsR 0 2 2 d a b 0)
  | .srlw d a b => some (fieldsR 0 2 3 d a b 0)
  | .sraw d a b => some (fieldsR 0 2 4 d a b 0)
  | .mulw d a b => some (fieldsR 0 2 5 d a b 0)
  | .madd d a b c => some (fieldsR 0 2 6 d a b c)
  | .slt d a b => some (fieldsR 5 0 0 d a b 0)
  | .sltu d a b => some (fieldsR 5 0 1 d a b 0)
  | .seq d a b => some (fieldsR 5 0 2 d a b 0)
  | .sel d a b c => some (fieldsR 5 0 3 d a b c)
  | .min d a b => some (fieldsR 5 0 4 d a b 0)
  | .max d a b => some (fieldsR 5 0 5 d a b 0)
  | .minu d a b => some (fieldsR 5 0 6 d a b 0)
  | .maxu d a b => some (fieldsR 5 0 7 d a b 0)
  | .clz d a => some (fieldsR 5 1 0 d a 0 0)
  | .ctz d a => some (fieldsR 5 1 1 d a 0 0)
  | .popc d a => some (fieldsR 5 1 2 d a 0 0)
  | .rev8 d a => some (fieldsR 5 1 3 d a 0 0)
  | .rol d a b => some (fieldsR 5 1 4 d a b 0)
  | .ror d a b => some (fieldsR 5 1 5 d a b 0)
  | .andn d a b => some (fieldsR 5 1 6 d a b 0)
  | .orn d a b => some (fieldsR 5 1 7 d a b 0)
  | .faddD d a b => some (fieldsR 6 0 0 d a b 0)
  | .fsubD d a b => some (fieldsR 6 0 1 d a b 0)
  | .fmulD d a b => some (fieldsR 6 0 2 d a b 0)
  | .fdivD d a b => some (fieldsR 6 0 3 d a b 0)
  | .fminD d a b => some (fieldsR 6 0 4 d a b 0)
  | .fmaxD d a b => some (fieldsR 6 0 5 d a b 0)
  | .fsqrtD d a => some (fieldsR 6 0 6 d a 0 0)
  | .fmaddD d a b c => some (fieldsR 6 0 7 d a b c)
  | .faddS d a b => some (fieldsR 6 1 0 d a b 0)
  | .fsubS d a b => some (fieldsR 6 1 1 d a b 0)
  | .fmulS d a b => some (fieldsR 6 1 2 d a b 0)
  | .fdivS d a b => some (fieldsR 6 1 3 d a b 0)
  | .fminS d a b => some (fieldsR 6 1 4 d a b 0)
  | .fmaxS d a b => some (fieldsR 6 1 5 d a b 0)
  | .fsqrtS d a => some (fieldsR 6 1 6 d a 0 0)
  | .fmaddS d a b c => some (fieldsR 6 1 7 d a b c)
  | .feqD d a b => some (fieldsR 6 2 0 d a b 0)
  | .fltD d a b => some (fieldsR 6 2 1 d a b 0)
  | .fleD d a b => some (fieldsR 6 2 2 d a b 0)
  | .feqS d a b => some (fieldsR 6 2 3 d a b 0)
  | .fltS d a b => some (fieldsR 6 2 4 d a b 0)
  | .fleS d a b => some (fieldsR 6 2 5 d a b 0)
  | .fclassD d a => some (fieldsR 6 2 6 d a 0 0)
  | .fclassS d a => some (fieldsR 6 2 7 d a 0 0)
  | .fcvtDS d a => some (fieldsR 6 3 0 d a 0 0)
  | .fcvtSD d a => some (fieldsR 6 3 1 d a 0 0)
  | .fcvtLD d a => some (fieldsR 6 3 2 d a 0 0)
  | .fcvtLuD d a => some (fieldsR 6 3 3 d a 0 0)
  | .fcvtDL d a => some (fieldsR 6 3 4 d a 0 0)
  | .fcvtDLu d a => some (fieldsR 6 3 5 d a 0 0)
  | .fcvtWS d a => some (fieldsR 6 3 6 d a 0 0)
  | .fcvtSW d a => some (fieldsR 6 3 7 d a 0 0)
  | .fcvtWD d a => some (fieldsR 6 4 0 d a 0 0)
  | .fcvtWuD d a => some (fieldsR 6 4 1 d a 0 0)
  | .fcvtLS d a => some (fieldsR 6 4 2 d a 0 0)
  | .fcvtLuS d a => some (fieldsR 6 4 3 d a 0 0)
  | .fcvtSL d a => some (fieldsR 6 4 4 d a 0 0)
  | .fcvtSLu d a => some (fieldsR 6 4 5 d a 0 0)
  | .fcvtWuS d a => some (fieldsR 6 4 6 d a 0 0)
  | .fcvtSWu d a => some (fieldsR 6 4 7 d a 0 0)
  | .amoAdd d a b => some (fieldsR 7 0 0 d a b 0)
  | .amoAnd d a b => some (fieldsR 7 0 1 d a b 0)
  | .amoOr d a b => some (fieldsR 7 0 2 d a b 0)
  | .amoXor d a b => some (fieldsR 7 0 3 d a b 0)
  | .amoMin d a b => some (fieldsR 7 0 4 d a b 0)
  | .amoMax d a b => some (fieldsR 7 0 5 d a b 0)
  | .amoSwap d a b => some (fieldsR 7 0 6 d a b 0)
  | .amoCas d a b c => some (fieldsR 7 0 7 d a b c)
  | .fence sc cl => some ({ fieldsR 7 5 0 (BitVec.ofNat 5 sc.sel) cl.sel 0 0 with reg := false })
  | .chbind r ep => some (fieldsR 7 5 1 (3#2 ++ r) ((ep.extractLsb' 3 3).setWidth 5) ((ep.extractLsb' 0 3).setWidth 5) 0)
  | .chsend a b => some (fieldsR 7 5 2 0 a b 0)
  | .vaddF32 d a b m => some (fieldsR 8 0 0 d a b (m.setWidth 4))
  | .vsubF32 d a b m => some (fieldsR 8 0 1 d a b (m.setWidth 4))
  | .vmulF32 d a b m => some (fieldsR 8 0 2 d a b (m.setWidth 4))
  | .vfmaF32 d a b m => some (fieldsR 8 0 3 d a b (m.setWidth 4))
  | .vminF32 d a b m => some (fieldsR 8 0 4 d a b (m.setWidth 4))
  | .vmaxF32 d a b m => some (fieldsR 8 0 5 d a b (m.setWidth 4))
  | .vdivF32 d a b m => some (fieldsR 8 0 6 d a b (m.setWidth 4))
  | .vsqrtF32 d a m => some (fieldsR 8 0 7 d a 0 (m.setWidth 4))
  | .vaddF64 d a b m => some (fieldsR 8 1 0 d a b (m.setWidth 4))
  | .vsubF64 d a b m => some (fieldsR 8 1 1 d a b (m.setWidth 4))
  | .vmulF64 d a b m => some (fieldsR 8 1 2 d a b (m.setWidth 4))
  | .vfmaF64 d a b m => some (fieldsR 8 1 3 d a b (m.setWidth 4))
  | .vminF64 d a b m => some (fieldsR 8 1 4 d a b (m.setWidth 4))
  | .vmaxF64 d a b m => some (fieldsR 8 1 5 d a b (m.setWidth 4))
  | .vdivF64 d a b m => some (fieldsR 8 1 6 d a b (m.setWidth 4))
  | .vsqrtF64 d a m => some (fieldsR 8 1 7 d a 0 (m.setWidth 4))
  | .vaddI32 d a b m => some (fieldsR 8 2 0 d a b (m.setWidth 4))
  | .vsubI32 d a b m => some (fieldsR 8 2 1 d a b (m.setWidth 4))
  | .vmulI32 d a b m => some (fieldsR 8 2 2 d a b (m.setWidth 4))
  | .vand d a b m => some (fieldsR 8 2 3 d a b (m.setWidth 4))
  | .vor d a b m => some (fieldsR 8 2 4 d a b (m.setWidth 4))
  | .vxor d a b m => some (fieldsR 8 2 5 d a b (m.setWidth 4))
  | .vsllI32 d a b m => some (fieldsR 8 2 6 d a b (m.setWidth 4))
  | .vsrlI32 d a b m => some (fieldsR 8 2 7 d a b (m.setWidth 4))
  | .vsraI32 d a b m => some (fieldsR 8 3 0 d a b (m.setWidth 4))
  | .vminI32 d a b m => some (fieldsR 8 3 1 d a b (m.setWidth 4))
  | .vmaxI32 d a b m => some (fieldsR 8 3 2 d a b (m.setWidth 4))
  | .vminuI32 d a b m => some (fieldsR 8 3 3 d a b (m.setWidth 4))
  | .vmaxuI32 d a b m => some (fieldsR 8 3 4 d a b (m.setWidth 4))
  | .vaddsI32 d a b m => some (fieldsR 8 3 5 d a b (m.setWidth 4))
  | .vsubsI32 d a b m => some (fieldsR 8 3 6 d a b (m.setWidth 4))
  | .vmulhI32 d a b m => some (fieldsR 8 3 7 d a b (m.setWidth 4))
  | .vaddI64 d a b m => some (fieldsR 8 4 0 d a b (m.setWidth 4))
  | .vsubI64 d a b m => some (fieldsR 8 4 1 d a b (m.setWidth 4))
  | .vmulI64 d a b m => some (fieldsR 8 4 2 d a b (m.setWidth 4))
  | .vsllI64 d a b m => some (fieldsR 8 4 3 d a b (m.setWidth 4))
  | .vsrlI64 d a b m => some (fieldsR 8 4 4 d a b (m.setWidth 4))
  | .vsraI64 d a b m => some (fieldsR 8 4 5 d a b (m.setWidth 4))
  | .vminI64 d a b m => some (fieldsR 8 4 6 d a b (m.setWidth 4))
  | .vmaxI64 d a b m => some (fieldsR 8 4 7 d a b (m.setWidth 4))
  | .vceqF32 d a b m => some (fieldsR 8 5 0 (d.setWidth 5) a b (m.setWidth 4))
  | .vcltF32 d a b m => some (fieldsR 8 5 1 (d.setWidth 5) a b (m.setWidth 4))
  | .vcleF32 d a b m => some (fieldsR 8 5 2 (d.setWidth 5) a b (m.setWidth 4))
  | .vceqI32 d a b m => some (fieldsR 8 5 3 (d.setWidth 5) a b (m.setWidth 4))
  | .vcltI32 d a b m => some (fieldsR 8 5 4 (d.setWidth 5) a b (m.setWidth 4))
  | .vcltuI32 d a b m => some (fieldsR 8 5 5 (d.setWidth 5) a b (m.setWidth 4))
  | .vceqF64 d a b m => some (fieldsR 8 5 6 (d.setWidth 5) a b (m.setWidth 4))
  | .vcltF64 d a b m => some (fieldsR 8 5 7 (d.setWidth 5) a b (m.setWidth 4))
  | .kand d a b => some (fieldsR 8 6 0 (d.setWidth 5) (a.setWidth 5) (b.setWidth 5) 0)
  | .kor d a b => some (fieldsR 8 6 1 (d.setWidth 5) (a.setWidth 5) (b.setWidth 5) 0)
  | .kxor d a b => some (fieldsR 8 6 2 (d.setWidth 5) (a.setWidth 5) (b.setWidth 5) 0)
  | .kandn d a b => some (fieldsR 8 6 3 (d.setWidth 5) (a.setWidth 5) (b.setWidth 5) 0)
  | .vsel d a b m => some (fieldsR 8 6 4 d a b (m.setWidth 4))
  | .vbcast d a m => some (fieldsR 8 6 5 d a 0 (m.setWidth 4))
  | .vmovs d a b m => some (fieldsR 8 6 6 d a b (m.setWidth 4))
  | .kpop d a m => some (fieldsR 8 6 7 d (a.setWidth 5) 0 (m.setWidth 4))
  | .vldxW d a b m => some (fieldsR 9 2 0 d a b (m.setWidth 4))
  | .vstxW d a b m => some (fieldsR 9 3 0 d a b (m.setWidth 4))
  | .kld d a => some (fieldsR 9 4 0 (d.setWidth 5) a 0 0)
  | .kst d a => some (fieldsR 9 4 1 (d.setWidth 5) a 0 0)
  | .vredsumF32 d a m => some (fieldsR 10 0 0 d a 0 (m.setWidth 4))
  | .vredmaxF32 d a m => some (fieldsR 10 0 1 d a 0 (m.setWidth 4))
  | .vredminF32 d a m => some (fieldsR 10 0 2 d a 0 (m.setWidth 4))
  | .vredsumF64 d a m => some (fieldsR 10 0 3 d a 0 (m.setWidth 4))
  | .vredsumI32 d a m => some (fieldsR 10 0 4 d a 0 (m.setWidth 4))
  | .vredmaxI32 d a m => some (fieldsR 10 0 5 d a 0 (m.setWidth 4))
  | .vredsumI64 d a m => some (fieldsR 10 0 6 d a 0 (m.setWidth 4))
  | .vredor d a m => some (fieldsR 10 0 7 d a 0 (m.setWidth 4))
  | .vperm d a b => some (fieldsR 10 1 0 d a b 0)
  | .vslide d a b => some (fieldsR 10 1 1 d a b 0)
  | .vfsl d a b c => some (fieldsR 10 1 2 d a b c)
  | .vfsr d a b c => some (fieldsR 10 1 3 d a b c)
  | .vlut3 d a b c => some (fieldsR 10 1 4 d a b c)
  | .vrng d a b => some (fieldsR 10 1 5 d a b 0)
  | .vcvtF32I32 d a => some (fieldsR 10 1 6 d a 0 0)
  | .vcvtI32F32 d a => some (fieldsR 10 1 6 d a 1 0)
  | .vcvtF64F32 d a => some (fieldsR 10 1 6 d a 2 0)
  | .vcvtF32F64 d a => some (fieldsR 10 1 6 d a 3 0)
  | .vcvtF16F32 d a => some (fieldsR 10 1 6 d a 4 0)
  | .vcvtF32F16 d a => some (fieldsR 10 1 6 d a 5 0)
  | .vcvtBf16F32 d a => some (fieldsR 10 1 6 d a 6 0)
  | .vcvtF32Bf16 d a => some (fieldsR 10 1 6 d a 7 0)
  | .vscanF32 d a m => some (fieldsR 10 2 0 d a 0 (m.setWidth 4))
  | .vscanI32 d a m => some (fieldsR 10 2 1 d a 0 (m.setWidth 4))
  | .vsortxF32 d a m => some (fieldsR 10 2 2 d a 0 (m.setWidth 4))
  | .vexp2F32 d a m => some (fieldsR 10 2 3 d a 0 (m.setWidth 4))
  | .venc d a b => some (fieldsR 10 3 0 (d.setWidth 5) a b 0)
  | .vdec d a b => some (fieldsR 10 3 1 d (a.setWidth 5) b 0)
  | .mlease => some (fieldsR 11 0 0 0 0 0 0)
  | .mleaseRel => some (fieldsR 11 0 1 0 0 0 0)
  | .mloadW d a => some (fieldsR 11 0 2 (d.setWidth 5) (a.setWidth 5) 0 0)
  | .mswap => some (fieldsR 11 0 3 0 0 0 0)
  | .mmac d a b => some (fieldsR 11 0 4 (d.setWidth 5) (a.setWidth 5) b 0)
  | .mgrp d a b g => some (fieldsR 11 0 5 (d.setWidth 5) (a.setWidth 5) b g)
  | .mst d a => some (fieldsR 11 0 6 (d.setWidth 5) (a.setWidth 5) 0 0)
  | .mzero d => some (fieldsR 11 0 7 (d.setWidth 5) 0 0 0)
  | .mloadT d a b => some (fieldsR 11 1 0 (d.setWidth 5) (a.setWidth 5) b 0)
  | .cpq ch d a b c => some (fieldsR 12 0 ch.toNat d a b c)
  | .cpwait ch a => some (fieldsR 12 0 (4 + ch.toNat) 0 a 0 0)
  | .hset d a b => some (fieldsR 12 1 0 (d.setWidth 5) a b 0)
  | .hget d a x => some (fieldsR 12 1 1 d (a.setWidth 5) x.sel 0)
  | .evwait d a => some (fieldsR 12 1 2 d a 0 0)
  | .evtry d a => some (fieldsR 12 1 3 d a 0 0)
  | .afcfgClaim d a => some (fieldsR 13 0 0 d a 0 0)
  | .afcfgRel => some (fieldsR 13 0 1 0 0 0 0)
  | .afcfg a b => some (fieldsR 13 0 2 0 a b 0)
  | .afscale a => some (fieldsR 13 0 3 0 a 0 0)
  | .afrun => some (fieldsR 13 0 4 0 0 0 0)
  | .afwait d => some (fieldsR 13 0 5 d 0 0 0)
  | .afwaitTry d => some (fieldsR 13 0 6 d 0 0 0)
  | .hexit => some (fieldsR 15 3 0 0 0 0 0)
  | .gdone => some (fieldsR 15 3 1 0 0 0 0)
  | .eret => some (fieldsR 15 3 2 0 0 0 0)
  | .gcancel l a => some (fieldsR 15 3 3 l.sel a 0 0)
  | .garm d a => some (fieldsR 15 3 4 d a 0 0)
  | .larm d a => some (fieldsR 15 3 5 d a 0 0)
  | .lpatch a b c => some (fieldsR 15 3 6 0 a b c)
  | .itake d => some (fieldsR 15 13 0 d 0 0 0)
  | .irel d => some (fieldsR 15 13 1 d 0 0 0)
  | .iwait d => some (fieldsR 15 13 2 d 0 0 0)
  | .iwaitP d a => some (fieldsR 15 13 3 d a 0 0)
  | .amoAddScoped sc d a b => some (fieldsR 7 sc.sel 0 d a b 0)
  | .amoAndScoped sc d a b => some (fieldsR 7 sc.sel 1 d a b 0)
  | .amoOrScoped sc d a b => some (fieldsR 7 sc.sel 2 d a b 0)
  | .amoXorScoped sc d a b => some (fieldsR 7 sc.sel 3 d a b 0)
  | .amoMinScoped sc d a b => some (fieldsR 7 sc.sel 4 d a b 0)
  | .amoMaxScoped sc d a b => some (fieldsR 7 sc.sel 5 d a b 0)
  | .amoSwapScoped sc d a b => some (fieldsR 7 sc.sel 6 d a b 0)
  | .amoCasScoped sc d a b c => some (fieldsR 7 sc.sel 7 d a b c)
  | .barInit n a op => some (fieldsR 15 10 (n.extractLsb' 4 3).toNat 0 a op.sel (n.extractLsb' 0 4))
  | .barWait n d => some (fieldsR 15 11 (n.extractLsb' 4 3).toNat d 0 0 (n.extractLsb' 0 4))
  | .barVote n d a b => some (fieldsR 15 12 (n.extractLsb' 4 3).toNat d a b (n.extractLsb' 0 4))
  | .addi d a imm => some (fieldsI 1 0 d a true imm)
  | .andi d a imm => some (fieldsI 1 1 d a true imm)
  | .ori d a imm => some (fieldsI 1 2 d a true imm)
  | .xori d a imm => some (fieldsI 1 3 d a true imm)
  | .slli d a imm => some (fieldsI 1 4 d a false imm)
  | .srli d a imm => some (fieldsI 1 5 d a false imm)
  | .srai d a imm => some (fieldsI 1 6 d a false imm)
  | .muli d a imm => some (fieldsI 1 7 d a true imm)
  | .ldlD d imm => some (fieldsI 2 7 d 0 true imm)
  | .cmoCleanL1 a d imm => some (fieldsI 7 6 d a false imm)
  | .cmoCleanLlc a d imm => some (fieldsI 7 7 d a false imm)
  | .cmoCleanMem a d imm => some (fieldsI 7 8 d a false imm)
  | .cmoInvL1 a d imm => some (fieldsI 7 9 d a false imm)
  | .cmoInvLlc a d imm => some (fieldsI 7 10 d a false imm)
  | .cmoInvMem a d imm => some (fieldsI 7 11 d a false imm)
  | .cmoClinvL1 a d imm => some (fieldsI 7 12 d a false imm)
  | .cmoClinvLlc a d imm => some (fieldsI 7 13 d a false imm)
  | .cmoClinvMem a d imm => some (fieldsI 7 14 d a false imm)
  | .hwaitF d a imm => some (fieldsI 12 2 (d.setWidth 5) a false imm)
  | .hwaitE d a imm => some (fieldsI 12 3 (d.setWidth 5) a false imm)
  | .hadvP d a imm => some (fieldsI 12 4 (d.setWidth 5) a false imm)
  | .hadvC d a imm => some (fieldsI 12 5 (d.setWidth 5) a false imm)
  | .afsamp d a imm => some (fieldsI 13 1 d a false imm)
  | .cget d imm => some (fieldsI 15 0 d 0 false imm)
  | .cput a imm => some (fieldsI 15 1 0 a false imm)
  | .hstart d a imm => some (fieldsI 15 2 d a true imm)
  | .hjoin a imm => some (fieldsI 15 4 0 a false imm)
  | .trap imm => some (fieldsI 15 5 0 0 false imm)
  | .pput d a imm => some (fieldsI 15 6 d a false imm)
  | .ptake d a imm => some (fieldsI 15 7 d a false imm)
  | .ptakeW d a imm => some (fieldsI 15 8 d a false imm)
  | .pcancel d a imm => some (fieldsI 15 9 d a false imm)
  | .ldB d a imm => some (fieldsM 2 0 0 d a 0 imm)
  | .ldH d a imm => some (fieldsM 2 0 1 d a 0 imm)
  | .ldW d a imm => some (fieldsM 2 0 2 d a 0 imm)
  | .ldD d a imm => some (fieldsM 2 0 3 d a 0 imm)
  | .ldBu d a imm => some (fieldsM 2 1 0 d a 0 imm)
  | .ldHu d a imm => some (fieldsM 2 1 1 d a 0 imm)
  | .ldWu d a imm => some (fieldsM 2 1 2 d a 0 imm)
  | .stB d a imm => some (fieldsM 3 0 0 d a 0 imm)
  | .stH d a imm => some (fieldsM 3 0 1 d a 0 imm)
  | .stW d a imm => some (fieldsM 3 0 2 d a 0 imm)
  | .stD d a imm => some (fieldsM 3 0 3 d a 0 imm)
  | .vldW d a m imm => some (fieldsM 9 0 2 d a (m.setWidth 4) imm)
  | .vldD d a m imm => some (fieldsM 9 0 3 d a (m.setWidth 4) imm)
  | .vstW d a m imm => some (fieldsM 9 1 2 d a (m.setWidth 4) imm)
  | .vstD d a m imm => some (fieldsM 9 1 3 d a (m.setWidth 4) imm)
  | .ldAcq sc z d a imm => some (fieldsM 2 (2 + sc.sel) z.toNat d a 0 imm)
  | .stRel sc z d a imm => some (fieldsM 3 (1 + sc.sel) z.toNat d a 0 imm)
  | .brEq fm a imm => some (fieldsB fm 0 a imm)
  | .brNe fm a imm => some (fieldsB fm 1 a imm)
  | .brLt fm a imm => some (fieldsB fm 2 a imm)
  | .brGe fm a imm => some (fieldsB fm 3 a imm)
  | .brEqTwoReg fm a b imm => some (fieldsC fm 0 a b imm)
  | .brNeTwoReg fm a b imm => some (fieldsC fm 1 a b imm)
  | .brLtTwoReg fm a b imm => some (fieldsC fm 2 a b imm)
  | .brGeTwoReg fm a b imm => some (fieldsC fm 3 a b imm)
  | .brLtu fm a b imm => some (fieldsC fm 4 a b imm)
  | .brGeu fm a b imm => some (fieldsC fm 5 a b imm)
  | .j imm => some (fieldsJ .j 0 0 imm)
  | .jal imm => some (fieldsJ .j 1 0 imm)
  | .jr a imm => some (fieldsJ .jr 2 a imm)
  | .jalr a imm => some (fieldsJ .jr 3 a imm)
  | _ => none

/-- A word that stands before the base word (R139). -/
def preWord (kind : BitVec 2) (payload : BitVec 10) : BitVec 16 := 0xE#4 ++ kind ++ payload

/-- The IMM words of an immediate above its base field, the most significant first (R140). -/
def immWords : Nat → Nat → List (BitVec 16)
  | 0, _ => []
  | k + 1, n => immWords k (n / 1024) ++ [preWord 0 (BitVec.ofNat 10 n)]

/-- The base word of the fields (R144). -/
def baseWord (f : Fields) : BitVec 16 :=
  let lo3 (x : BitVec 5) : BitVec 3 := x.extractLsb' 0 3
  match f.layout with
  | .r => f.major ++ lo3 f.d ++ lo3 f.a ++ lo3 f.b ++ f.sel
  | .i => f.major ++ lo3 f.d ++ lo3 f.a ++ f.imm.extractLsb' 0 6
  | .m => f.major ++ lo3 f.d ++ lo3 f.a ++ f.sel.extractLsb' 0 2 ++ f.imm.extractLsb' 0 4
  | .b => f.major ++ f.form ++ f.sel.extractLsb' 0 2 ++ lo3 f.a ++ f.imm.extractLsb' 0 5
  | .j => f.major ++ f.form ++ f.sel.extractLsb' 0 2 ++ f.imm.extractLsb' 0 8
  | .jr => f.major ++ f.form ++ f.sel.extractLsb' 0 2 ++ lo3 f.a ++ f.imm.extractLsb' 0 5
  | .c => f.major ++ f.form ++ lo3 f.a ++ lo3 f.b ++ f.sel ++ 0#1

/-- The words of the fields: PAGE, REG and the IMM words in order, then the base word (R85, R139). -/
def join (f : Fields) : List (BitVec 16) :=
  let hi2 (x : BitVec 5) : BitVec 2 := x.extractLsb' 3 2
  (if f.page = 0 then [] else [preWord 2 f.page]) ++
  (if f.reg then [preWord 1 (hi2 f.d ++ hi2 f.a ++ hi2 f.b ++ f.c)] else []) ++
  immWords f.k (f.imm.toNat / 2 ^ f.layout.width) ++ [baseWord f]

/-- The encoder: the words of an instruction, none for an event. -/
def encode (i : Instr) : Option (List (BitVec 16)) := i.fields.map join

end Sys2Proof
end

