-- ==== Sys2Proof/Config.lean ====
section
/-! DEFINITION. What the spec leaves to one implementation, to the maker or to physics: free values and constants without a
body. No number is chosen here but the sizes that the spec states. -/

namespace Sys2Proof.Config

/-- Global nanoseconds that pass at the `n`-th move of time. The spec states no latency (R5): log entry 2. -/
opaque elapsedNs (n : Nat) : Nat
/-- The `n`-th free 64-bit value: what the spec leaves undefined or states no result for (log entry 3). -/
opaque freeWord (n : Nat) : BitVec 64
/-- The code that the converter of gang integrator `j` gives at the `n`-th latch (R128): log entry 3. -/
opaque sampleCode (n j : Nat) : BitVec 14
/-- The byte at offset `i` of the `n`-th unspecified destination of a collective (R403): log entry 3. -/
opaque freeByte (n i : Nat) : BitVec 8

/-- The digest of the taproot's ROM (R405): log entry 6. -/
opaque romDigest : BitVec 256
/-- The random bits that ML-DSA-44 draws for the `n`-th signature (R410): log entry 6. -/
opaque signRandom (n : Nat) : BitVec 256
/-- Every die-to-die port trains in the `n`-th boot (R405 step 5): log entry 3. -/
opaque portsTrain (n : Nat) : Bool
/-- The certificate that binds a public key to the module's serial number (R408): log entry 6. -/
opaque certificate (key : List (BitVec 8)) : List (BitVec 8)

/-- Compute dies of a module (R12). -/
abbrev dies : Nat := 4
/-- Cores of a compute die (R15). -/
abbrev coresPerDie : Nat := 128
/-- Cores of the module (R15). -/
abbrev cores : Nat := 512
/-- Groves of the module (R15). -/
abbrev groves : Nat := 128
/-- Entries of a die's last-level TLB (R386). -/
abbrev tlbEntries : Nat := 12288
/-- Entries of a die's page-walk cache (R386). -/
abbrev walkEntries : Nat := 1024
/-- Bytes of module memory, 512 GiB (R23). -/
abbrev memBytes : Nat := 549755813888

end Sys2Proof.Config
end

