-- ==== Sys2Proof/Machine/State.lean ====
section
/-! DEFINITION. The state of the module as plain data: every piece of state the spec names, the module right after
reset, and the reasons a step can stop. Each field's docstring names its rule; log entry 4 names the values that the
spec does not give for reset. -/

namespace Sys2Proof.Machine

/-- Why the machine stops (no meaning raises it; only `step` does). -/
inductive Fault where
  /-- Raised by `step` when the first move of the agenda is a step of a core or a context that the module does not have
  (R15, R16), or an event that is an instruction with an encoding.
  Safe: the spec gives such a move no effect. -/
  | badMove
  deriving DecidableEq, Repr

/-- Why an instruction has no meaning in the model. -/
inductive Refusal where
  /-- Raised by an arm of `exec` for an instruction that has no meaning yet. Safe: no claim can use it. -/
  | notModelled (mnemonic : String)
  deriving DecidableEq, Repr

/-- Bytes by address: keys strictly rising, no zero byte listed; an unlisted address reads 0 (R405 step 5). -/
abbrev Memory := List Host.Cell

/-- The state of a context (R34). -/
inductive CtxMode where
  | free | ready | waiting | halted
  deriving DecidableEq, Repr

/-- What a WAITING context waits on (R41). -/
inductive WaitObj where
  | arrival (bar : Nat)            -- R45 steps 1 and 2, before the arrival is recorded
  | barrier (bar : Nat)            -- the release, after the arrival is recorded
  | receive (ep : Nat) | send (ep : Nat)
  | ringFull (h : HReg) (n : Nat) | ringFree (h : HReg) (n : Nat)
  | events (d a : SReg) | copy (ch : BitVec 2) (id : Nat)
  | inbox | inboxPool (pool : Nat) | helpers (mask : BitVec 10) | fabric | lease | pool (pool : Nat)
  | lines (ranges : List (Nat × Nat))   -- lines of these physical ranges that an engine owns (R108)
  | fence (r w : Bool) (scope : Scope)  -- earlier accesses of the classes, complete for the scope (R103, R232)
  deriving DecidableEq, Repr

/-- A wait under way: the object, and the instruction's sequence number when it is engine-bound (R433). -/
structure Waiting where
  obj   : WaitObj
  seq   : Option (BitVec 16)
  deriving DecidableEq, Repr

/-- A pending barrier result (R327, R349) and the module-wide number of its barrier; 128 after a restore, whose image
does not name it (log entry 11). -/
structure BarResult where
  bar   : Nat
  flags : BitVec 11
  vote  : BitVec 32
  deriving DecidableEq, Repr

/-- One context (R17, R34, R147, R152). -/
structure Ctx where
  mode      : CtxMode              -- R34
  heldMode  : CtxMode              -- the state it held at a halt (R372)
  regs      : Sparse Word          -- s1 to s31 (R147); an unlisted register holds 0
  pc        : Word                 -- R152
  npc       : Word
  nnpc      : Word
  nul0      : Bool
  nul1      : Bool
  sl0       : Bool
  sl1       : Bool
  fresh     : Bool                 -- R432
  xpc       : Word                 -- R308
  xnpc      : Word
  xnnpc     : Word
  xnul      : BitVec 5             -- R152
  tl        : Bool                 -- R329
  chbind    : Word                 -- R305
  poolSel   : BitVec 6             -- R306
  timerPend : Bool                 -- R332
  barResult : Option BarResult     -- R327
  barDone   : Option BarResult     -- MODEL: the released result that the waiting instruction takes (R46)
  wait      : Option Waiting       -- R41
  waited    : Nat                  -- nanoseconds counted by the watchdog (R42)
  woken     : Bool                 -- a wake arrived while it was halted (R43)
  waking    : Bool                 -- MODEL: a wake completes its instruction next (R41)
  latch     : Option (Sparse Word) -- MODEL: registers as they were at the start of the instruction that waits (R93)
  handling  : BitVec 16            -- code of the fault being handled, for R333
  nextAddr  : Word                 -- MODEL: NextAddr(NNPC) of the step under way (R153)
  popped    : List Nat             -- MODEL: endpoints whose word the step under way pops (R50)
  words     : List (BitVec 16)     -- MODEL: the words that the step under way has fetched (R347)
  deriving DecidableEq, Repr

/-- A ring handle (R268); `runs` is the translation fixed at hset: scratchpad offsets and lengths, in order (R270). -/
structure Ring where
  base     : Word
  runs     : List (Nat × Nat)
  fill     : BitVec 32
  drain    : BitVec 32
  valid    : Bool
  logSize  : BitVec 8
  logSlots : BitVec 8
  deriving DecidableEq, Repr

/-- An arming's identity: launch record and generation (R335); `none` marks a unit of no launch (R436). -/
abbrev LaunchId := Option (Nat × BitVec 20)

/-- State of a dispatch-ring entry (R335). -/
inductive DState where
  | empty | inFlight | completed | faulted
  deriving DecidableEq, Repr

/-- A dispatch-ring entry (R335), with the unit and the launch it decides by (R336). -/
structure DEntry where
  addr   : Word
  seq    : BitVec 16
  word   : BitVec 16
  ctx    : Nat
  st     : DState
  unit   : Nat                     -- units started when it was dispatched; UNIT is its low 8 bits
  fault  : BitVec 16
  launch : LaunchId
  inUnit : Bool                    -- dispatched by a running unit
  deriving DecidableEq, Repr

/-- A queued engine-bound instruction with what it captured at dispatch (R265, R347). -/
structure QEntry where
  instr   : Instr
  seq     : BitVec 16
  ctx     : Nat
  a       : Word
  b       : Word
  c       : Word
  fmode   : Word
  journal : Word
  unit    : Nat
  words   : List (BitVec 16)       -- as fetched (R347); for one that gdone places, its shortest encoding
  sys     : Bool                   -- placed by gdone, with no sequence number (R315 step 4)
  deriving DecidableEq, Repr

/-- Where a copy stands (R288). -/
inductive CopyStage where
  | queued | moving
  | ended                          -- no byte is left to move: ring advance, event and COMPLETED still to come
  | posting                        -- its event record waits for room (R290)
  deriving DecidableEq, Repr

/-- A copy request (R287, R288). -/
structure CopyReq where
  id      : Nat
  ch      : BitVec 2
  dst     : Word
  src     : Word
  lw      : Word
  seq     : BitVec 16
  ctx     : Nat
  unit    : Nat
  stage   : CopyStage
  down    : Bool                   -- direction: descending when true
  done    : Nat                    -- bytes done
  srcRuns : List (Nat × Nat)       -- physical addresses and lengths, kept from its turn on (R342)
  dstRuns : List (Nat × Nat)
  fault   : BitVec 16              -- 0 for none
  early   : Option (BitVec 16 × Word)   -- the window check that failed at dispatch, with its address (R92)
  buf     : List Byte              -- what the engine has read and not yet written, in pieces of 64 bytes (R111)
  whole   : Bool                   -- it reads the whole source first, as no direction would do (R288)
  deriving DecidableEq, Repr

/-- An event record in the queue: its count since reset and its 128 bits (R290). -/
structure EventRec where
  n    : Nat
  bits : BitVec 128
  deriving DecidableEq, Repr

/-- The far end of a channel (R48, R396, R399). -/
inductive EpPeer where
  | core (core ep : Nat)
  | module (part chan : Nat) (peer : BitVec 32) (peerChan : Nat) (route : BitVec 16)
  | exchange (part group rank : Nat)
  deriving DecidableEq, Repr

/-- A channel endpoint (R48, R49). For a receiver `msgs` holds the words not yet popped of each placed message. -/
structure Endpoint where
  declared : Bool
  send     : Bool
  words    : Nat                   -- message size, 1 to 32
  slots    : Nat                   -- the receiver's slots, 1 to 16
  peer     : EpPeer
  live     : Bool                  -- both ends declared (R396)
  byXchan  : Bool                  -- declared by XCHAN, not by a launch
  launch   : Nat                   -- the arming that declared it, when not by XCHAN
  grants   : Nat                   -- sender: grants held; receiver: grants given and not yet used
  msgs     : List (List Word)
  early    : List (BitVec 32 × List Word)   -- messages of a peer module that arrived before their turn (R397)
  seqno    : BitVec 32             -- next message number of the channel (R397)
  unacked  : BitVec 11             -- contexts with sends that the peer module has not acknowledged (R397)
  haltedBit : Bool                 -- sender: the receiver's grant replies carry the halted bit (R52)
  deriving DecidableEq, Repr

/-- A buffered store (R99): context, physical address, bytes. -/
structure SbEntry where
  ctx   : Nat
  pa    : Nat
  bytes : List Byte
  deriving DecidableEq, Repr

/-- A translation that a TLB holds (R386). -/
structure TlbEntry where
  part  : Nat
  va    : Nat                      -- base of the page
  log   : Nat                      -- 16, 21 or 26
  pa    : Nat
  level : Nat
  r     : Bool
  w     : Bool
  x     : Bool
  deriving DecidableEq, Repr

/-- A table entry that a die's page-walk cache holds (R386): where the table of a level lies for the addresses from
`va` on that share it. -/
structure WalkEntry where
  part  : Nat
  level : Nat                      -- of the table, 1 to 3
  va    : Nat
  tab   : Nat
  deriving DecidableEq, Repr

/-- Which of the three operations a maintenance instruction is, and its level (R104). -/
inductive CmoKind where
  | clean | inv | clinv
  deriving DecidableEq, Repr
inductive CmoLevel where
  | l1 | llc | mem
  deriving DecidableEq, Repr

/-- A maintenance operation whose line operations are not all done (R233): the physical ranges it covers. -/
structure CmoJob where
  ctx    : Nat
  kind   : CmoKind
  level  : CmoLevel
  ranges : List (Nat × Nat)
  mark   : Nat                     -- MODEL: stores of the core that leave the buffer before it (R104)
  seq    : BitVec 16               -- MODEL: the core's next sequence number when it was issued
  deriving DecidableEq, Repr

/-- A pending late fault (R336, R337). -/
structure LatePend where
  seq   : BitVec 16
  code  : BitVec 16
  info  : Word
  faddr : Word
  addr  : Word
  queue : Option Bool              -- the queue whose flush it ends: true vector, false fabric (R339)
  deriving DecidableEq, Repr

/-- The unit a core runs (R30, R350). -/
structure UnitRec where
  launch   : LaunchId
  tag      : Word
  flagMask : Word
  trap     : Bool                  -- disposition TRAP (R336)
  stopped  : Bool
  deriving DecidableEq, Repr

/-- Status of the core's fabric run (R127). -/
inductive RunStatus where
  | notStarted | running | settled | timeout | saturated | cut
  deriving DecidableEq, Repr

/-- The core's side of the fabric: claim, run parameters, run and latch (R119 to R131). -/
structure Fabric where
  claim    : BitVec 16             -- stands held on the paired die (R350)
  tau      : BitVec 2              -- R125
  thresh   : BitVec 5
  window   : BitVec 8
  timeout  : BitVec 16
  normq    : BitVec 4
  status   : RunStatus
  start    : Word                  -- TIME at the run's start
  duration : Nat                   -- nanoseconds, once ended
  latchAt  : Word                  -- TIME at the latch (R133)
  runSeq   : BitVec 16             -- the afrun's sequence number (R131)
  codes    : List (BitVec 14 × Nat) -- latched y and g of each gang integrator (R128)
  deriving DecidableEq, Repr

/-- What the head of a core's fabric queue has done so far: of afcfg, the runs still to be read and the bytes read; of afsamp,
the value and the g whose journal entry is on its way to a window (R112, R123, R134). -/
inductive FabWork where
  | image (left : List (Nat × Nat)) (got : List Byte)
  | entry (v g : Nat)
  deriving DecidableEq, Repr

/-- A vector load under way: the physical place of each active lane, and the values read so far, in order (R112). -/
structure VLoad where
  places : List Nat
  vals   : List Nat
  deriving DecidableEq, Repr

/-- A core's port (R96 to R98, R113 to R115, R422, R436). -/
structure Port where
  tail       : Word
  head       : Word
  resv       : Word
  ovr        : Bool                -- OVER
  wrap       : Bool
  traceCount : Word
  seq        : BitVec 20
  inbox      : Memory              -- 4 KiB by offset
  marks      : BitVec 64           -- slot written by the launch engine since its release (R436)
  trace      : Sparse (BitVec 128)
  replay     : List (BitVec 128)
  replayWait : Nat
  deriving DecidableEq, Repr

/-- One core (R16). -/
structure Core where
  ctxs      : Sparse Ctx           -- contexts 0 to 10
  last      : Nat                  -- context that issued last (R36)
  v         : Sparse Lanes         -- R148
  k         : Sparse (BitVec 128)  -- k1 to k7 (R149)
  fmode     : Word                 -- R302
  fstat     : BitVec 11            -- R303
  share     : BitVec 4             -- R304
  seq       : BitVec 16            -- R307
  pass      : BitVec 32            -- R53
  l1        : List Nat             -- lines that its L1 holds, oldest first: 2,048 sets of 12 ways (R16)
  icache    : List Nat             -- lines that its instruction cache holds, at most 2,048 (R16, log entry 15)
  itlb      : List TlbEntry        -- at most 32 (R386)
  dtlb      : List TlbEntry        -- at most 64 (R386)
  job       : Nat                  -- MODEL: the job of its partition whose state it holds (R391)
  rings     : Sparse Ring          -- R268
  scratch   : Memory               -- 256 KiB by offset
  port      : Port
  dring     : Sparse DEntry        -- 64 entries (R335)
  vq        : List QEntry          -- at most 32 (R237, R267)
  vload     : Option VLoad         -- MODEL: of the vector queue's head (R112)
  fq        : List QEntry          -- at most 8 (R267)
  fwork     : Option FabWork       -- MODEL: of the fabric queue's head (R112)
  ru        : List QEntry          -- at most 16 (R346)
  copies    : List CopyReq         -- at most 8 (R267)
  issued    : Sparse Nat           -- per channel (R286)
  completed : Sparse Nat
  copyTurn  : BitVec 2             -- round-robin position
  events    : List EventRec        -- at most 256 (R290)
  eventCount : Nat
  eps       : Sparse Endpoint      -- 64 endpoints (R48)
  sb        : List SbEntry         -- R99, oldest first
  sbOut     : Nat                  -- MODEL: stores that have left the buffer
  cmos      : List CmoJob
  unit      : Option UnitRec
  units     : Nat                  -- units started (R335)
  late      : List LatePend
  flush     : Bool                 -- a queue flush goes on until the LATE entry (R339), vector queue
  flushF    : Bool                 -- the same for the fabric queue
  fab       : Fabric
  jpos      : Nat                  -- replay position (R134)
  halted    : Bool                 -- R372
  cancelPend : Bool                -- a cancel that waits for RESUME (R372)
  deriving DecidableEq, Repr

/-- A user decode table (R181, R285). -/
structure Table where
  entries : Sparse (BitVec 32)
  width   : Nat
  ordered : Bool
  deriving DecidableEq, Repr

/-- A matrix command accepted and not complete: its core, its entry, and the bank of mmac (R275, R281). -/
structure Accepted where
  core  : Nat
  entry : QEntry
  bank  : BitVec 1
  group : List Nat                 -- the 16 entries of mgrp's group slot, read at the head (R282)
  deriving DecidableEq, Repr

/-- A grove's matrix array and lease (R19, R20, R274). -/
structure Grove where
  tiles    : Sparse (Sparse Lane)  -- tile, then 128 x row + column
  banks    : Sparse Memory         -- bank, then 768 x column + byte
  active   : BitVec 1
  tabs     : Sparse Table
  requests : BitVec 4
  holder   : Option (Fin 4)
  used     : Nat                   -- commands accepted under the lease
  last     : Fin 4                 -- last holder
  accepted : List Accepted
  clock    : Nat                   -- engine clock in steps of 100 MHz (R428)
  deriving DecidableEq, Repr

/-- A line of a die's coherent copy (R87, R89). -/
structure Line where
  bytes : Vector Byte 32
  dirty : BitVec 32
  deriving DecidableEq, Repr

/-- A recorded arrival (R326). -/
structure Arrival where
  core  : Nat
  ctx   : Nat
  flags : BitVec 11
  vote  : BitVec 32
  deriving DecidableEq, Repr

/-- A numbered barrier (R44). -/
structure Barrier where
  count    : Nat
  op       : VoteOp
  gen      : BitVec 32
  arrivals : List Arrival
  deriving DecidableEq, Repr

/-- A summer input (R123, R294). -/
structure Input where
  enabled : Bool
  mult    : BitVec 8
  source  : BitVec 10
  coef    : BitVec 12
  deriving DecidableEq, Repr

/-- An integrator's codes with the inputs of its summer (R122, R123). -/
structure Integ where
  active : Bool
  bias   : BitVec 12
  init   : BitVec 14
  inputs : Sparse Input
  deriving DecidableEq, Repr

/-- One compute die's shared state. -/
structure Die where
  l1       : Sparse Line           -- the coherent copy by line number: what the L1s of the die hold (R101)
  owned    : List (Nat × Nat × BitVec 16)   -- engine-owned lines: line, core, sequence number (R108)
  tlb      : List TlbEntry         -- the last-level TLB (R386)
  walks    : List WalkEntry        -- the page-walk cache (R386)
  barriers : Sparse Barrier
  tokens   : Nat                   -- sap tokens on the ring (R428)
  stands   : Sparse (Sparse Integ) -- the paired fabric die's stands: integrators by number (R22, R123)
  owner    : Sparse Nat            -- claimed stands and the core that claims each (R119)
  deriving DecidableEq, Repr

/-- A memory die (R12, R23). Its LLC slice lies over its GDDR 7: `State.mem` is what the eight slices answer with, and
`llc` says which lines of 64 bytes the slice holds, by place: 24 ways of 131,072 lines, 192 MiB (R87, R388). Its atomic unit
and its zeroing engine keep no state between steps. -/
structure MemDie where
  gddr : Memory                    -- what GDDR 7 holds of the addresses that the die homes (R88)
  llc  : Sparse Nat                -- line number by 131,072 x way + set
  deriving DecidableEq, Repr

/-- An element of a pool (R74): key, payload, insertion order (time, shard, count), stamp (R82). -/
structure Elem where
  key     : Word
  payload : Word
  time    : Nat
  shard   : Nat
  ord     : Nat
  stamp   : Nat
  deriving DecidableEq, Repr

/-- A summary (R78); `min` and `bar` are none for "all ones". -/
structure Summary where
  serial : BitVec 32
  count  : Nat
  min    : Option Elem
  bar    : Option Elem
  puts   : Nat
  aged   : Bool
  deriving DecidableEq, Repr

/-- A put not yet linearized, with the serial number of the summary whose acknowledgements it awaits (R80). -/
structure PendPut where
  key     : Word
  payload : Word
  core    : Nat
  ctx     : Nat
  serial  : BitVec 32
  deriving DecidableEq, Repr

/-- A pool's shard on one die (R75, R78). -/
structure Shard where
  elems    : List Elem
  puts     : Nat
  serial   : BitVec 32
  sent     : Option Summary        -- the summary it last published
  seen     : Sparse Summary        -- the latest acknowledged summary of each other shard
  inFlight : List (Nat × Summary)  -- summaries on their way: destination shard and summary, oldest first
  moving   : List (Nat × Elem)     -- elements being moved out and not yet counted at their destination (R80)
  pend     : List PendPut
  deriving DecidableEq, Repr

/-- A take that the arbiter serves (R81), with where its result goes (R298). -/
structure ArbReq where
  core  : Nat
  ctx   : Nat
  d     : SReg
  a     : SReg
  waits : Bool                     -- ptake.w
  live  : Bool                     -- false once a hexit or a cancel discards its writes (R313)
  deriving DecidableEq, Repr

/-- A priority pool (R74 to R82). -/
structure Pool where
  bound  : BitVec 16
  limit  : BitVec 16
  takes  : Nat
  ord    : Nat
  shards : Sparse Shard
  arb    : List ArbReq
  sweep  : Option (List (Nat × Nat))   -- phase 1 replies of the sweep under way: shard and PUTS
  deriving DecidableEq, Repr

/-- A node's state (R60). -/
inductive NodeState where
  | idle | armed | ready | running | doneProvisional | confirmed | faulted | cancelling | cancelled
  deriving DecidableEq, Repr

/-- A node as the graph engine holds it (R376). -/
structure Node where
  state   : NodeState
  pending : Nat
  gen     : BitVec 20
  budget  : BitVec 8
  policy  : BitVec 2
  level   : BitVec 2
  fault   : BitVec 16
  key     : Word
  launch  : Nat
  preds   : List Nat
  succs   : List Nat
  ready   : Bool                   -- its launch is confirmed (R62)
  deriving DecidableEq, Repr

/-- An event of the graph engine that is not yet processed (R65, R66, R73). -/
inductive GraphEvent where
  | token (slot node : Nat)
  | provisional (tag : Word) | confirm (tag : Word) | fault (tag : Word) (code : BitVec 16)
  deriving DecidableEq, Repr

/-- The cursor of a walk (R67, R377). -/
inductive WalkPhase where
  | idle | marking | recount
  deriving DecidableEq, Repr

/-- A graph as the graph engine holds it (R377). -/
structure Graph where
  addr    : Word
  nodesVa : Word
  n       : Nat
  nodes   : Sparse Node
  retries : Nat
  walks   : Nat
  phase   : WalkPhase
  root    : Nat
  next    : Nat
  stopped : List (Nat × BitVec 20) -- launches stopped by the walk, with the generation each carried
  merge   : List (Nat × BitVec 20 × BitVec 16)
  cause   : BitVec 16
  causeRoot : BitVec 32
  phaseId : Nat
  signal  : BitVec 16
  armed   : Bool                   -- armed and its counter has not yet reached 0
  cancel  : Bool                   -- a graph cancel has been performed
  cancelled : Nat                  -- nodes cancelled (R71)
  draining : List (Nat × BitVec 20) -- launches stopped by a graph cancel (R71)
  counted : Bool                   -- counted towards its phase since JOBSTART (R380)
  deriving DecidableEq, Repr

/-- A launch record as the launch engine holds it from an arming on (R373, R374). -/
structure Launch where
  remain    : BitVec 32
  cancelled : BitVec 32
  faults    : BitVec 16
  first     : BitVec 16
  gen       : BitVec 20
  tag       : Word
  level     : BitVec 2
  bound     : Bool
  trap      : Bool                 -- DISPOSE
  flagMask  : Word
  signal    : BitVec 16
  mask      : BitVec 512           -- core indices whose unit has neither ended nor been cancelled
  entry     : Word
  regmap    : BitVec 48
  args      : List Word            -- argument words 0 to 4 of the snapshot
  chans     : List (BitVec 64)
  held      : Bool                 -- the arming waits for its endpoints (R374)
  armed     : Bool                 -- armed and not yet confirmed
  provisional : Bool               -- provisionally complete and reported
  stopped   : Bool                 -- cancelled at launch level or above
  deriving DecidableEq, Repr

/-- A delivery that waits for its slot (R98, R345). -/
structure Delivery where
  idx   : Nat
  core  : Nat
  stage : Nat                      -- 0 to reserve, 1 to write its slot, 2 to publish, 3 to mark it CANCELLED (R32)
  k     : Word                     -- the reserved count, in stages 1 and 2
  bytes : List Byte
  deriving DecidableEq, Repr

/-- A phase entry (R380). -/
structure Phase where
  state  : Nat                     -- 0 waiting, 1 complete, 2 cancelled
  signal : BitVec 16
  graphs : Nat
  cancel : Bool
  deriving DecidableEq, Repr

/-- The job record (R381). -/
structure Job where
  state  : Nat                     -- 0 idle, 1 running, 2 complete, 3 cancelled
  left   : Nat
  signal : BitVec 16
  cancel : Bool
  phases : Sparse Phase
  deriving DecidableEq, Repr

/-- A collective that a local rank has started (R400). -/
structure CollReq where
  rank   : Nat
  serial : BitVec 32
  words  : List Word
  core   : Nat
  unit   : Nat
  launch : LaunchId                -- where its late fault goes (R403)
  live   : Bool                    -- false once its unit is cancelled (R403)
  ended  : Option (BitVec 11 × BitVec 11 × Nat)   -- its destination is written: flags of the reply, of its decodes, status (R403)
  deriving DecidableEq, Repr

/-- A collective group (R399). -/
structure Group where
  n       : Nat
  ranks   : List CollRank
  serials : Sparse (BitVec 32)     -- next serial of each local rank
  pending : List CollReq
  deriving DecidableEq, Repr

/-- An error log (R430). -/
structure ErrorLog where
  count   : Nat                    -- entries written since it was last emptied; SERIAL is it modulo 2^32
  entries : Sparse (BitVec 256)
  deriving DecidableEq, Repr

/-- The counters of STATS (R429). -/
structure Stats where
  retries  : Nat
  walks    : Nat
  gcancel  : Nat
  lfaults  : Nat
  wtimeout : Nat
  eccfix   : Nat
  retrains : Nat
  switches : Nat
  swmaxns  : Nat
  energy   : Nat
  peakw    : Nat
  tjmax    : Nat
  since    : Nat                   -- nanoseconds since the last clear
  hot      : Nat                   -- of these, nanoseconds DEGRADED
  deriving DecidableEq, Repr

/-- An accepted SWITCH or RESTORE (R415, R420). -/
structure SwitchReq where
  instant : Word
  image   : Word
  trace   : Word
  gang    : BitVec 32
  deriving DecidableEq, Repr

/-- What a peer module declares of its end of a channel: our number of it, the peer, its own number of it (R396). -/
structure PeerEnd where
  chan     : Nat
  peer     : BitVec 32
  peerChan : Nat
  words    : Nat
  slots    : Nat
  deriving DecidableEq, Repr

/-- One partition (R13, R371, R388). -/
structure Part where
  set      : Bool                  -- SETPART has written the descriptor
  desc     : Desc
  root     : Word
  waitLim  : Word
  ways     : BitVec 24
  journal  : Word                  -- R309
  jcount   : Nat                   -- entries since the mode was last set (R133)
  pools    : Sparse Pool
  launches : Sparse Launch
  held     : List Delivery
  graphs   : Sparse Graph
  gtab     : Sparse Word           -- GTAB as GRAPHLOAD entered it (R377)
  backlog  : List GraphEvent       -- unprocessed events of the graph engine, oldest first (R73)
  overdue  : List GraphEvent       -- reports whose agents wait for room in the backlog (R345)
  replays  : Nat                   -- MODEL: events of a restored backlog that are handled before any walk goes on (R73)
  job      : Job
  jobs     : Nat                   -- MODEL: jobs started (R391)
  log      : ErrorLog
  stats    : Stats
  groups   : Sparse Group
  peerEnds : List PeerEnd          -- declarations of peer ends (R396)
  switch   : Option SwitchReq
  restore  : Option SwitchReq
  out      : Bool                  -- switched out (R418)
  imaged   : Option Word           -- image complete, DIGEST unwritten, at this base (R418)
  gang     : BitVec 32
  deriving DecidableEq, Repr

/-- An NCP connection (R369, R370). -/
structure Conn where
  minor : Option Nat               -- attached with this minor version
  next  : BitVec 16                -- next expected SEQ
  early : List (BitVec 16 × Instr)
  acked : Option Bool              -- an IMGXFER under way: has the peer acknowledged every byte (R419)
  checks : Bool                    -- a RESTORE's checks are unfinished: it waits for DIGEST (R418, R420)
  deriving DecidableEq, Repr

/-- What leaves the module (R367, R379, R397, R403, R419, R423). -/
inductive Out where
  | response (h : Hdr) (opcode : BitVec 8) (status : BitVec 16) (payload : List Byte)
  | notify (h : Hdr) (target : Word) (part : Nat) (payload : List Byte) (nodes : Nat)   -- nodes cancelled: R71 step 4 reports them, R379's payload has no bytes for them
  | heartbeat (h : Hdr) (payload : List Byte)
  | hostWrite (host : Word) (bytes : List Byte)
  | peerWrite (port : Nat) (peer : BitVec 32) (pa : Word) (bytes : List Byte)
  | message (port : Nat) (peer : BitVec 32) (chan : Nat) (seqno : BitVec 32) (words : List Word)
  | grant (port : Nat) (peer : BitVec 32) (chan own : Nat) (given halted : Bool) (words slots : Nat)   -- a reply (R52, R396)
  | collective (part group : Nat) (peer : CollPeer)
  | errorResponse (port : Nat)
  | refusedWrite (port : Nat)
  | timeStamp (port : Nat) (time : Word)
  deriving DecidableEq, Repr

/-- A piece of a window access on its way to a port (R112): who sent it and what it does. -/
structure Piece where
  skip   : List Nat                -- bytes of it that an inactive lane leaves alone (R246)
  src    : Nat                     -- source core, or 512 and above for the front end, graph engine, links
  agent  : BitVec 5                -- AGENT of the trace entry (R114)
  ctx    : Nat
  dst    : Nat                     -- owning core
  off    : Nat
  bytes  : List Byte
  engine : Bool
  launch : LaunchId                -- the launch whose work it is, of an engine's piece (R31, R378)
  deriving DecidableEq, Repr

/-- An external or die-to-die port (R392 to R395). -/
structure ExtPort where
  peer     : BitVec 32
  retrains : BitVec 8
  role     : BitVec 4
  st       : BitVec 3
  errors   : Nat                   -- unsupported packets (R366)
  deriving DecidableEq, Repr

/-- The module state of R423. -/
inductive ModState where
  | running | degraded | failed
  deriving DecidableEq, Repr

/-- A flash slot's letter (R405). -/
inductive Slot where
  | a | b
  deriving DecidableEq, Repr

/-- The taproot (R405 to R411, R423 to R428). -/
structure Taproot where
  meas      : Sparse (BitVec 256)
  seed      : BitVec 256           -- fused identity seed
  keyDigest : BitVec 256           -- fused digest of the signing key
  svnMin    : BitVec 32            -- fused floor
  slotA     : List Byte            -- the bytes written since the slot was erased; every other byte is all ones (R406)
  slotB     : List Byte
  booted    : Option Slot
  recovery  : Bool
  tcm       : Memory
  staging   : Option (Slot × Nat)  -- FWSTAGE under way into this slot, and its connection
  staged    : Option Nat           -- MODEL: the connection whose FWSTAGE has written its slot and is to be answered (R411)
  state     : ModState
  heat      : List HeatCause       -- limits active (R427)
  cap       : BitVec 32            -- POWERCAP, watts
  floor     : Option (BitVec 32)   -- the SVN that SVNMIN is to rise to once the staged slot is written (R411)
  carry     : Sparse Nat           -- microjoule carried per die (R428)
  derate    : Sparse Nat           -- periods of the 10 % reduction per die (R428)
  capLater  : Option (BitVec 32)   -- a POWERCAP that arrived during a switch (R428)
  heatLater : List HeatCause       -- limits reached during a switch (R428)
  sensed    : Nat × List (Nat × Nat) -- MODEL: the fixed draw in mW, and of each die its demand and its junction in °C, as last sensed (R428)
  kick      : Nat                  -- nanoseconds since the firmware last wrote its kick register (R426)
  deriving DecidableEq, Repr

/-- What moves next: a context's step, the clock, or an event. -/
inductive Move where
  | issue (core ctx : Nat)
  | resume (core ctx : Nat)        -- the instruction that a wake completes (R41)
  | elapse
  | act (i : Instr)
  deriving DecidableEq, Repr

/-- The module. -/
structure State where
  time    : Word                   -- R25, R307
  agenda  : List Move              -- MODEL
  tickDue : Bool                   -- MODEL: the clock moves after each issue
  core    : Nat                    -- MODEL: the core whose context acts
  ctx     : Nat                    -- MODEL: the context that acts
  draws   : Nat                    -- MODEL: free values drawn so far
  mem     : Memory                 -- module memory as the LLC slices answer (R88)
  mems    : Sparse MemDie          -- the eight memory dies (R12)
  cores   : Sparse Core
  groves  : Sparse Grove
  dies    : Sparse Die
  parts   : Sparse Part
  cut     : Nat                    -- partitions of the current cut, 1, 2 or 4 (R13)
  owners  : Memory                 -- owner byte of each 2 MiB frame (R387)
  pieces  : List Piece
  conns   : Sparse Conn
  outbox  : List Out               -- messages sent, oldest first
  ports   : Sparse ExtPort         -- 0 to 15 external, 16 to 59 die-to-die (R14, R430, log entry 126)
  sync    : Bool                   -- in step with the gang (R414)
  gangUp  : Nat                    -- nanoseconds since a ROLE 2 port came up, while one is (R414)
  gangDown : Nat                   -- nanoseconds without such a port (R414)
  rate    : Int                    -- correction of TIME's rate in nanoseconds per exchange (R414)
  tap     : Taproot
  log     : ErrorLog               -- the module's log
  stats   : Stats
  deriving DecidableEq, Repr

/-- The three outcomes of a step of this machine. -/
abbrev Result := Host.Outcome State Fault Refusal

/-- A context that is FREE, every register 0 (R34, R405, R432). -/
def Ctx.reset : Ctx :=
  { mode := .free, heldMode := .ready, regs := [], pc := 0, npc := 0, nnpc := 0, nul0 := false, nul1 := false,
    sl0 := false, sl1 := false, fresh := true, xpc := 0, xnpc := 0, xnnpc := 0, xnul := 0, tl := false, chbind := 0,
    poolSel := 0, timerPend := false, barResult := none, barDone := none, wait := none, waited := 0, woken := false, waking := false, latch := none, handling := 0, nextAddr := 0,
    popped := [], words := [] }

/-- A ring handle at reset (R268). -/
def Ring.reset : Ring :=
  { base := 0, runs := [], fill := 0, drain := 0, valid := false, logSize := 0, logSlots := 0 }

/-- An empty dispatch-ring entry (R335). -/
def DEntry.reset : DEntry :=
  { addr := 0, seq := 0, word := 0, ctx := 0, st := .empty, unit := 0, fault := 0, launch := none, inUnit := false }

/-- An undeclared endpoint (R48). -/
def Endpoint.reset : Endpoint :=
  { declared := false, send := false, words := 1, slots := 1, peer := .core 0 0, live := false, byXchan := false,
    launch := 0, grants := 0, msgs := [], early := [], seqno := 0, unacked := 0#11, haltedBit := false }

/-- The fabric registers at reset and after a claim (R125). -/
def Fabric.reset : Fabric :=
  { claim := 0, tau := 0, thresh := 12, window := 16, timeout := 1024, normq := 15,
    status := .notStarted, start := 0, duration := 0, latchAt := 0, runSeq := 0, codes := [] }

/-- A port at reset (R96). -/
def Port.reset : Port :=
  { tail := 0, head := 0, resv := 0, ovr := false, wrap := false, traceCount := 0, seq := 0, inbox := [], marks := 0,
    trace := [], replay := [], replayWait := 0 }

/-- A core at reset: the control context READY, SHARE 1, everything else 0 or empty (R304, R391, R405). -/
def Core.reset : Core :=
  { ctxs := [(0, { Ctx.reset with mode := .ready })], last := 0, v := [], k := [], fmode := 0, fstat := 0, share := 1,
    seq := 0, pass := 0, l1 := [], icache := [], itlb := [], dtlb := [], job := 0, rings := [], scratch := [], port := Port.reset, dring := [], vq := [], vload := none, fq := [], fwork := none, ru := [],
    copies := [], issued := [], completed := [], copyTurn := 0, events := [], eventCount := 0, eps := [], sb := [],
    sbOut := 0, cmos := [], unit := none, units := 0, late := [], flush := false, flushF := false, fab := Fabric.reset, jpos := 0,
    halted := false, cancelPend := false }

/-- A user table at reset (R274). -/
def Table.reset : Table := { entries := [], width := 8, ordered := false }

/-- A grove at reset (R20, R274). -/
def Grove.reset : Grove :=
  { tiles := [], banks := [], active := 0, tabs := [], requests := 0, holder := none, used := 0, last := 3,
    accepted := [], clock := 20 }

/-- An open input and an inactive integrator with every code 0 (R121). -/
def Input.reset : Input := { enabled := false, mult := 0, source := 0, coef := 0 }
def Integ.reset : Integ := { active := false, bias := 0, init := 0, inputs := [] }

/-- A barrier at reset (R44). -/
def Barrier.reset : Barrier := { count := 0, op := .or, gen := 0, arrivals := [] }

/-- A die at reset. -/
def Die.reset : Die :=
  { l1 := [], owned := [], tlb := [], walks := [], barriers := [], tokens := 0, stands := [], owner := [] }

/-- An empty shard (R75). -/
def Shard.reset : Shard :=
  { elems := [], puts := 0, serial := 0, sent := none, seen := [], inFlight := [], moving := [], pend := [] }

/-- A memory die at reset: zeroed (R405 step 5). -/
def MemDie.reset : MemDie := { gddr := [], llc := [] }

/-- A pool at reset (R306). -/
def Pool.reset : Pool :=
  { bound := 64, limit := 4096, takes := 0, ord := 0, shards := [], arb := [], sweep := none }

/-- A node that is IDLE (R60). -/
def Node.reset : Node :=
  { state := .idle, pending := 0, gen := 0, budget := 0, policy := 0, level := 0, fault := 0, key := 0, launch := 0,
    preds := [], succs := [], ready := false }

/-- No graph. -/
def Graph.reset : Graph :=
  { addr := 0, nodesVa := 0, n := 0, nodes := [], retries := 0, walks := 0, phase := .idle, root := 0, next := 0, stopped := [],
    merge := [], cause := 0, causeRoot := 0, phaseId := 0, signal := 0xFFFF, armed := false, cancel := false,
    cancelled := 0, draining := [], counted := false }

/-- A launch record that no arming has named. -/
def Launch.reset : Launch :=
  { remain := 0, cancelled := 0, faults := 0, first := 0, gen := 0, tag := 0, level := 0, bound := false, trap := false,
    flagMask := 0, signal := 0xFFFF, mask := 0, entry := 0, regmap := 0, args := [], chans := [], held := false, armed := false,
    provisional := false, stopped := false }

/-- A phase entry at reset (R380). -/
def Phase.reset : Phase := { state := 0, signal := 0xFFFF, graphs := 0, cancel := false }

/-- The job record at reset (R381). -/
def Job.reset : Job := { state := 0, left := 0, signal := 0xFFFF, cancel := false, phases := [] }

/-- A collective group not declared. -/
def Group.reset : Group := { n := 0, ranks := [], serials := [], pending := [] }

/-- An empty error log (R430). -/
def ErrorLog.reset : ErrorLog := { count := 0, entries := [] }

/-- The counters at reset (R429). -/
def Stats.reset : Stats :=
  { retries := 0, walks := 0, gcancel := 0, lfaults := 0, wtimeout := 0, eccfix := 0, retrains := 0, switches := 0,
    swmaxns := 0, energy := 0, peakw := 0, tjmax := 0, since := 0, hot := 0 }

/-- A descriptor before SETPART: every field 0 (log entry 4). -/
def resetDesc : Desc :=
  { code := 0, codeLen := 0, gmap := 0, loop := 0, cancel := 0, done := 0, tvb := 0, trb := 0, tick := 0, ltab := 0,
    gtab := 0, stab := 0, disp := 0, phase := 0, poolBase := 0, poolCap := 0 }

/-- A partition at reset (log entry 4). -/
def Part.reset : Part :=
  { set := false, desc := resetDesc, root := 0, waitLim := 0, ways := 0, journal := 0, jcount := 0, pools := [],
    launches := [], held := [], graphs := [], gtab := [], backlog := [], overdue := [], replays := 0, job := Job.reset, jobs := 0, log := ErrorLog.reset,
    stats := Stats.reset, groups := [], peerEnds := [], switch := none, restore := none, out := false, imaged := none, gang := 0 }

/-- An unattached connection (R370). -/
def Conn.reset : Conn := { minor := none, next := 0, early := [], acked := none, checks := false }

/-- An external port at reset, disabled (R393). What its retry buffer holds is, for a channel, the sends that the peer
has not acknowledged (R392, R397). -/
def ExtPort.reset : ExtPort := { peer := 0, retrains := 0, role := 0, st := 0, errors := 0 }

/-- The taproot at reset (R405, R407, R423, R427; log entries 4 and 6): both flash slots are erased, so that neither is
valid and the module is in recovery (R405 step 3, R406). -/
def Taproot.reset : Taproot :=
  { meas := [], seed := 0, keyDigest := 0, svnMin := 0, slotA := [], slotB := [], booted := none, recovery := true,
    tcm := [], staging := none, staged := none, state := .running, heat := [], cap := 1800, floor := none, carry := [], derate := [],
    capLater := none, heatLater := [], sensed := (0, []), kick := 0 }

/-- The module right after reset: cores, dies and partitions unlisted are at their own reset; port 0 trains as ROLE 1;
with erased flash it is in recovery (R405). No firmware and no program is loaded (log entry 5). -/
def State.reset : State :=
  { time := 0, agenda := [], tickDue := false, core := 0, ctx := 0, draws := 0, mem := [], mems := [], cores := [], groves := [],
    dies := [], parts := [], cut := 1, owners := [], pieces := [], conns := [], outbox := [],
    ports := [(0, { ExtPort.reset with role := 1, st := 1 })], sync := true, gangUp := 0, gangDown := 0, rate := 0, tap := Taproot.reset,
    log := ErrorLog.reset, stats := Stats.reset }

end Sys2Proof.Machine
end

