-- ==== Sys2Proof/Machine/Base.lean ====
section
/-! DEFINITION. Sparse maps, bytes and words, the numbering of dies, groves, cores and partitions (R13, R15), and the
accessors that every other file reads and writes the state through. -/

namespace Sys2Proof

/-- The value at a key; `d` for an unlisted one. -/
def Sparse.get {α : Type} (d : α) : Sparse α → Nat → α
  | [], _ => d
  | (k', v) :: m, k => if k = k' then v else if k < k' then d else Sparse.get d m k

/-- Is the key listed. -/
def Sparse.has {α : Type} : Sparse α → Nat → Bool
  | [], _ => false
  | (k', _) :: m, k => if k = k' then true else if k < k' then false else Sparse.has m k

/-- Sets a key, keeping the keys strictly rising. -/
def Sparse.set {α : Type} : Sparse α → Nat → α → Sparse α
  | [], k, v => [(k, v)]
  | (k', v') :: m, k, v =>
    if k < k' then (k, v) :: (k', v') :: m
    else if k = k' then (k, v) :: m
    else (k', v') :: Sparse.set m k v

/-- Removes a key. -/
def Sparse.del {α : Type} : Sparse α → Nat → Sparse α
  | [], _ => []
  | (k', v') :: m, k => if k = k' then m else if k < k' then (k', v') :: m else (k', v') :: Sparse.del m k

/-- The keys are strictly rising. -/
def Sparse.sorted {α : Type} : Sparse α → Bool
  | [] => true
  | [_] => true
  | (k, _) :: (k', v') :: m => decide (k < k') && Sparse.sorted ((k', v') :: m)

/-- The number of bytes `n` of `v`, little-endian (R3). -/
def bytesOf : Nat → Nat → List Byte
  | 0, _ => []
  | n + 1, v => BitVec.ofNat 8 v :: bytesOf n (v / 256)

/-- The number that bytes hold, little-endian (R3). -/
def natOf : List Byte → Nat
  | [] => 0
  | b :: bs => b.toNat + 256 * natOf bs

/-- Bits [hi:lo] of a number. -/
def bits (x hi lo : Nat) : Nat := x / 2 ^ lo % 2 ^ (hi + 1 - lo)

/-- The low `w` bits of `x` sign-extended to 64 bits (R165). -/
def sextNat (x w : Nat) : Word :=
  let y := x % 2 ^ w
  if y < 2 ^ (w - 1) then BitVec.ofNat 64 y else BitVec.ofInt 64 ((y : Int) - 2 ^ w)

/-- Is bit `i` of a word 1. -/
def bitAt (w : Word) (i : Nat) : Bool := w.getLsbD i

/-- All ones. -/
def ones64 : Word := BitVec.allOnes 64

namespace Machine

/-- The byte at an address; an unlisted address reads 0 (R405 step 5). -/
def Memory.get (m : Memory) (a : Nat) : Byte := Sparse.get (α := Byte) 0 m a

/-- Writes one byte in the canonical form: a zero byte is not listed. -/
def Memory.put (m : Memory) (a : Nat) (b : Byte) : Memory :=
  if b = 0 then Sparse.del (α := Byte) m a else Sparse.set (α := Byte) m a b

/-- Writes bytes from an address upwards. -/
def Memory.putAll (m : Memory) (a : Nat) : List Byte → Memory
  | [] => m
  | b :: bs => Memory.putAll (Memory.put m a b) (a + 1) bs

/-- The `n` bytes from an address upwards. -/
def Memory.getAll (m : Memory) (a : Nat) : Nat → List Byte
  | 0 => []
  | n + 1 => Memory.get m a :: Memory.getAll m (a + 1) n

/-- The canonical form: addresses strictly rising, no zero byte listed. -/
def Memory.wf (m : Memory) : Bool := Sparse.sorted (α := Byte) m && m.all fun c => c.2 != 0

/-- Removes every byte of [lo, hi): those addresses then read 0. -/
def Memory.clear (m : Memory) (lo hi : Nat) : Memory := m.filter fun c => !(decide (lo ≤ c.1) && decide (c.1 < hi))

/-- The numbers below `n`. -/
def upTo (n : Nat) : List Nat := List.range n

/-! ### Numbering -/

/-- The compute die of a core (R15). -/
def dieOf (core : Nat) : Nat := core / 128
/-- The grove of a core (R15). -/
def groveOf (core : Nat) : Nat := core / 4
/-- Compute dies of each partition under a cut (R13). -/
def diesPer (cut : Nat) : Nat := 4 / cut
/-- The partition that holds a die (R13). -/
def partOfDie (cut die : Nat) : Nat := die / diesPer cut
/-- The lowest compute die of a partition (R13). -/
def lowDie (cut part : Nat) : Nat := part * diesPer cut

/-- The memory die that homes a physical address (R23). -/
def homeDie (pa : Nat) : Nat := bits pa 14 12

/-- The cores of a core's grove, whose queues share its lane groups (R15, R53). -/
def groveCores (core : Nat) : List Nat := (upTo 4).map fun i => core / 4 * 4 + i

/-- The partition of a core (R13). -/
def State.partOf (s : State) (core : Nat) : Nat := partOfDie s.cut (dieOf core)
/-- Compute dies of each partition. -/
def State.k (s : State) : Nat := diesPer s.cut
/-- The core number of index `i` of a partition (R330). -/
def State.coreAt (s : State) (part i : Nat) : Nat := 128 * lowDie s.cut part + i
/-- The index of a core within its partition (R330). -/
def State.indexOf (s : State) (core : Nat) : Nat := core - 128 * lowDie s.cut (s.partOf core)
/-- Cores of each partition. -/
def State.coresPer (s : State) : Nat := 128 * s.k
/-- Pools of each partition (R74). -/
def State.poolsPer (s : State) : Nat := 16 * s.k

/-! ### Accessors -/

/-- A core's state. -/
def State.getCore (s : State) (c : Nat) : Core := Sparse.get Core.reset s.cores c
/-- Replaces a core's state. -/
def State.setCore (s : State) (c : Nat) (x : Core) : State := { s with cores := s.cores.set c x }
/-- Changes a core's state. -/
def State.modCore (s : State) (c : Nat) (f : Core → Core) : State := s.setCore c (f (s.getCore c))
/-- A context of a core. -/
def Core.getCtx (x : Core) (k : Nat) : Ctx := Sparse.get Ctx.reset x.ctxs k
/-- Changes a context of a core. -/
def Core.modCtx (x : Core) (k : Nat) (f : Ctx → Ctx) : Core := { x with ctxs := x.ctxs.set k (f (x.getCtx k)) }
/-- A context. -/
def State.getCtx (s : State) (c k : Nat) : Ctx := (s.getCore c).getCtx k
/-- Changes a context. -/
def State.modCtx (s : State) (c k : Nat) (f : Ctx → Ctx) : State := s.modCore c fun x => x.modCtx k f
/-- The acting core. -/
def State.me (s : State) : Core := s.getCore s.core
/-- The acting context. -/
def State.cx (s : State) : Ctx := s.getCtx s.core s.ctx
/-- Changes the acting core. -/
def State.modMe (s : State) (f : Core → Core) : State := s.modCore s.core f
/-- Changes the acting context. -/
def State.modCx (s : State) (f : Ctx → Ctx) : State := s.modCtx s.core s.ctx f
/-- A grove's state. -/
def State.getGrove (s : State) (g : Nat) : Grove := Sparse.get Grove.reset s.groves g
/-- Changes a grove's state. -/
def State.modGrove (s : State) (g : Nat) (f : Grove → Grove) : State :=
  { s with groves := s.groves.set g (f (s.getGrove g)) }
/-- A die's state. -/
def State.getDie (s : State) (d : Nat) : Die := Sparse.get Die.reset s.dies d
/-- Changes a die's state. -/
def State.modDie (s : State) (d : Nat) (f : Die → Die) : State := { s with dies := s.dies.set d (f (s.getDie d)) }
/-- A partition's state. -/
def State.getPart (s : State) (p : Nat) : Part := Sparse.get Part.reset s.parts p
/-- A memory die's state. -/
def State.getMem (s : State) (d : Nat) : MemDie := Sparse.get MemDie.reset s.mems d
/-- Changes a memory die's state. -/
def State.modMem (s : State) (d : Nat) (f : MemDie → MemDie) : State := { s with mems := s.mems.set d (f (s.getMem d)) }
/-- Changes a partition's state. -/
def State.modPart (s : State) (p : Nat) (f : Part → Part) : State :=
  { s with parts := s.parts.set p (f (s.getPart p)) }
/-- A partition's pool. -/
def State.getPool (s : State) (p n : Nat) : Pool := Sparse.get Pool.reset (s.getPart p).pools n
/-- Changes a partition's pool. -/
def State.modPool (s : State) (p n : Nat) (f : Pool → Pool) : State :=
  s.modPart p fun x => { x with pools := x.pools.set n (f (Sparse.get Pool.reset x.pools n)) }
/-- A launch record as the launch engine holds it. -/
def State.getLaunch (s : State) (p i : Nat) : Launch := Sparse.get Launch.reset (s.getPart p).launches i
/-- Changes a launch record as the launch engine holds it. -/
def State.modLaunch (s : State) (p i : Nat) (f : Launch → Launch) : State :=
  s.modPart p fun x => { x with launches := x.launches.set i (f (Sparse.get Launch.reset x.launches i)) }
/-- A graph as the graph engine holds it. -/
def State.getGraph (s : State) (p i : Nat) : Graph := Sparse.get Graph.reset (s.getPart p).graphs i
/-- Changes a graph as the graph engine holds it. -/
def State.modGraph (s : State) (p i : Nat) (f : Graph → Graph) : State :=
  s.modPart p fun x => { x with graphs := x.graphs.set i (f (Sparse.get Graph.reset x.graphs i)) }
/-- A channel endpoint of a core. -/
def State.getEp (s : State) (c e : Nat) : Endpoint := Sparse.get Endpoint.reset (s.getCore c).eps e
/-- Changes a channel endpoint. -/
def State.modEp (s : State) (c e : Nat) (f : Endpoint → Endpoint) : State :=
  s.modCore c fun x => { x with eps := x.eps.set e (f (Sparse.get Endpoint.reset x.eps e)) }
/-- A ring handle of a core. -/
def Core.getRing (x : Core) (h : HReg) : Ring := Sparse.get Ring.reset x.rings h.toNat
/-- Changes a ring handle. -/
def State.modRing (s : State) (c : Nat) (h : HReg) (f : Ring → Ring) : State :=
  s.modCore c fun x => { x with rings := x.rings.set h.toNat (f (x.getRing h)) }
/-- A barrier by its module-wide number 32 x d + b (R44). -/
def State.getBar (s : State) (n : Nat) : Barrier := Sparse.get Barrier.reset (s.getDie (n / 32)).barriers (n % 32)
/-- Changes a barrier. -/
def State.modBar (s : State) (n : Nat) (f : Barrier → Barrier) : State :=
  s.modDie (n / 32) fun d => { d with barriers := d.barriers.set (n % 32) (f (Sparse.get Barrier.reset d.barriers (n % 32))) }
/-- An external or die-to-die port; the die-to-die ports are up after boot (R405 step 5). -/
def State.getPort (s : State) (n : Nat) : ExtPort :=
  Sparse.get (if n < 16 then ExtPort.reset else { ExtPort.reset with st := 2 }) s.ports n
/-- Changes a port. -/
def State.modPort (s : State) (n : Nat) (f : ExtPort → ExtPort) : State :=
  { s with ports := s.ports.set n (f (s.getPort n)) }
/-- The port that a route takes to a peer: the lowest of its mask that is up (R397). -/
def State.portFor (s : State) (route : BitVec 16) (peer : BitVec 32) : Option Nat :=
  (upTo 16).find? fun n =>
    route.getLsbD n && (s.getPort n).st == 2 && (s.getPort n).role == 2 && (s.getPort n).peer == peer
/-- The port that an endpoint's traffic takes; none of the module's own channels takes one (R397). -/
def State.portOf (s : State) (e : Endpoint) : Option Nat :=
  match e.peer with
  | .module _ _ peer _ route => s.portFor route peer
  | _ => none
/-- The endpoint's far end is the exchange engine (R399). -/
def Endpoint.isExchange (e : Endpoint) : Bool :=
  match e.peer with
  | .exchange _ _ _ => true
  | _ => false
/-- The endpoint's traffic can leave: its peer is in the module, or a port of its route is up (R392, R397, R398). -/
def State.linkUp (s : State) (e : Endpoint) : Bool :=
  match e.peer with
  | .module _ _ peer _ route => (s.portFor route peer).isSome
  | _ => true
/-- Sends a message out of the module. -/
def State.send (s : State) (m : Out) : State := { s with outbox := s.outbox ++ [m] }
/-- Draws the next free value. -/
def State.drawn (s : State) : State := { s with draws := s.draws + 1 }

/-- The cores that the state lists. -/
def State.coreKeys (s : State) : List Nat := s.cores.map (·.1)

/-- Applies a change for each element of a list in turn. -/
def State.forEach {α : Type} (s : State) (l : List α) (f : State → α → State) : State := l.foldl f s

end Machine

end Sys2Proof
end

