-- ==== Sys2Proof/Machine/Xlate.lean ====
section
/-! DEFINITION. Address translation and ownership (R27, R90, R382 to R387, R431): the walk, the TLBs of a core and its
die, and the page-walk cache. -/

namespace Sys2Proof.Machine

/-- What an access needs of a page (R384). -/
inductive Access where
  | fetch | read | write | atomic
  deriving DecidableEq, Repr

/-- A translation failure (R385). -/
structure XFault where
  cause : Nat
  level : Nat
  table : Bool
  deriving DecidableEq, Repr

/-- The INFO field of a translation failure (R385). -/
def XFault.info (f : XFault) : Word := BitVec.ofNat 64 (f.cause + 256 * f.level + 2048 * f.table.toNat)

/-- The first byte of the windows (R90). -/
def winBase : Nat := 0xFF00000000000
/-- The first byte past the windows (R90). -/
def winEnd : Nat := 0xFF00020000000

/-- The address lies in a window (R90). -/
def inWindow (pa : Nat) : Bool := decide (winBase ≤ pa) && decide (pa < winEnd)
/-- The core that owns the window address (R90). -/
def winCore (pa : Nat) : Nat := (pa - winBase) / 0x100000
/-- The offset within the window (R91). -/
def winOff (pa : Nat) : Nat := (pa - winBase) % 0x100000

/-- The owner byte of the frame that holds a physical address of module memory (R387). -/
def State.owner (s : State) (pa : Nat) : Byte := Memory.get s.owners (pa / 2 ^ 21)

/-- The owner byte of a partition's job memory (R387). -/
def partOwner (part : Nat) : Byte := BitVec.ofNat 8 (1 + part)

/-- Every frame of [pa, pa + size) lies in module memory and has the owner byte (R387). -/
def State.owns (s : State) (o : Byte) (pa size : Nat) : Bool :=
  decide (pa + size ≤ Config.memBytes) &&
  (upTo ((pa % 2 ^ 21 + size + 2 ^ 21 - 1) / 2 ^ 21)).all fun i => s.owner (pa + i * 2 ^ 21) == o

/-- Every byte of a page lies in windows of the partition's own cores (R387, R90). -/
def State.ownWindows (s : State) (part pa size : Nat) : Bool :=
  let lo := winBase + 0x100000 * (128 * lowDie s.cut part)
  decide (lo ≤ pa) && decide (pa + size ≤ lo + 0x100000 * s.coresPer)

/-- log2 of the page that a leaf of a level maps (R382). -/
def leafLog (level : Nat) : Nat := if level = 1 then 26 else if level = 2 then 21 else 16

/-- The table index of an address at a level (R382). -/
def tableIndex (level va : Nat) : Nat :=
  match level with
  | 0 => bits va 55 39 | 1 => bits va 38 26 | 2 => bits va 25 21 | _ => bits va 20 16

/-- The size of the table of a level (R382). -/
def tableSize (level : Nat) : Nat :=
  match level with
  | 0 => 0x100000 | 1 => 0x10000 | _ => 0x100

/-- The field rules of an entry of a level (R383): the low bits of ADDR, the reserved bits, the permission bits. -/
def entryOk (level e : Nat) : Bool :=
  let leaf := bits e 1 1 = 1
  let addr := bits e 51 8 * 256
  decide (bits e 63 52 = 0) && decide (bits e 7 5 = 0) &&
  (if leaf then
    decide (level ≠ 0) && decide (addr % 2 ^ leafLog level = 0) &&
    !(decide (bits e 3 3 = 1) && (decide (bits e 2 2 = 0) || decide (bits e 4 4 = 1)))
  else
    decide (level ≠ 3) && decide (addr % tableSize (level + 1) = 0) && decide (bits e 4 2 = 0))

/-- Walks from the table at `tab` of a level (R431); `n` levels are left. -/
def State.walk (s : State) (part va : Nat) : Nat → Nat → Nat → Except XFault TlbEntry
  | 0, level, _ => .error { cause := 3, level := level, table := false }
  | n + 1, level, tab =>
    if !s.owns 0xFE tab (tableSize level) then .error { cause := 7, level := level, table := true }
    else
      let e := natOf (Memory.getAll s.mem (tab + 8 * tableIndex level va) 8)
      if bits e 0 0 = 0 then .error { cause := 2, level := level, table := false }
      else if !entryOk level e then .error { cause := 3, level := level, table := false }
      else
        let addr := bits e 51 8 * 256
        if bits e 1 1 = 0 then State.walk s part va n (level + 1) addr
        else
          let lg := leafLog level
          if !(s.owns (partOwner part) addr (2 ^ lg) || s.ownWindows part addr (2 ^ lg)) then
            .error { cause := 7, level := level, table := false }
          else
            .ok { part := part, va := va / 2 ^ lg * 2 ^ lg, log := lg, pa := addr, level := level,
                  r := decide (bits e 2 2 = 1), w := decide (bits e 3 3 = 1), x := decide (bits e 4 4 = 1) }

/-- The canonical form of R27: bits [63:56] equal bit [55]. -/
def canonical (va : Word) : Bool :=
  let t := va.toNat / 2 ^ 55
  t == 0 || t == 511

/-- log2 of the addresses that share a table of a level (R382). -/
def tableLog (level : Nat) : Nat := if level = 1 then 39 else if level = 2 then 26 else 21

/-- The tables that a walk from the table at `tab` of a level comes to after it, each by the entry that names it (R431);
`n` levels are left. -/
def State.tables (s : State) (part va : Nat) : Nat → Nat → Nat → List WalkEntry
  | 0, _, _ => []
  | n + 1, level, tab =>
    let e := natOf (Memory.getAll s.mem (tab + 8 * tableIndex level va) 8)
    if bits e 0 0 = 1 ∧ bits e 1 1 = 0 ∧ entryOk level e then
      let addr := bits e 51 8 * 256
      let lg := tableLog (level + 1)
      { part := part, level := level + 1, va := va / 2 ^ lg * 2 ^ lg, tab := addr } ::
        State.tables s part va n (level + 1) addr
    else []

/-- Where a walk begins: at the deepest table that the die's page-walk cache knows, else at the root (R386, R431). -/
def State.walkFrom (s : State) (part die va : Nat) : Nat × Nat :=
  let known (level : Nat) : Option WalkEntry := (s.getDie die).walks.find? fun w =>
    w.part == part && w.level == level && w.va == va / 2 ^ tableLog level * 2 ^ tableLog level
  match known 3, known 2, known 1 with
  | some w, _, _ | none, some w, _ | none, none, some w => (w.level, w.tab)
  | none, none, none => (0, (s.getPart part).root.toNat)

/-- The walk of an agent of a die (R431). -/
def State.dieWalk (s : State) (part die va : Nat) : Except XFault TlbEntry :=
  let (level, tab) := s.walkFrom part die va
  State.walk s part va (4 - level) level tab

/-- The TLB of a core that an access goes through (R386). -/
def Core.tlbFor (c : Core) (acc : Access) : List TlbEntry := if acc = .fetch then c.itlb else c.dtlb

/-- The translation of an address among some. -/
def tlbFind (part va : Nat) (es : List TlbEntry) : Option TlbEntry :=
  es.find? fun e => e.part == part && e.va == va / 2 ^ e.log * 2 ^ e.log

/-- A translation that the core's TLB or its die's last-level TLB holds (R386). -/
def State.tlbHit (s : State) (core va : Nat) (acc : Access) : Option TlbEntry :=
  match tlbFind (s.partOf core) va ((s.getCore core).tlbFor acc) with
  | some e => some e
  | none => tlbFind (s.partOf core) va (s.getDie (dieOf core)).tlb

/-- The permission an access needs (R384), the last check of a walk (R431). -/
def permit (acc : Access) (e : TlbEntry) : Except XFault TlbEntry :=
  match acc with
  | .fetch => if e.x then .ok e else .error { cause := 6, level := e.level, table := false }
  | .read => if e.r then .ok e else .error { cause := 4, level := e.level, table := false }
  | .write => if e.w then .ok e else .error { cause := 5, level := e.level, table := false }
  | .atomic =>
    if !e.r then .error { cause := 4, level := e.level, table := false }
    else if !e.w then .error { cause := 5, level := e.level, table := false } else .ok e

/-- Translates one address for an access of a core or of its engines (R384, R386, R431). -/
def State.xlate (s : State) (core : Nat) (va : Word) (acc : Access) : Except XFault TlbEntry :=
  if !canonical va then .error { cause := 1, level := 0, table := false }
  else
    let a := va.toNat % 2 ^ 56
    match s.tlbHit core a acc with
    | some e => permit acc e
    | none =>
      match s.dieWalk (s.partOf core) (dieOf core) a with
      | .error f => .error f
      | .ok e => permit acc e

/-- The physical address an entry gives for a virtual one. -/
def TlbEntry.phys (e : TlbEntry) (va : Word) : Nat := e.pa + va.toNat % 2 ^ e.log

/-- An entry joins a structure of `n` entries; the oldest leaves a full one (log entry 9). -/
def keepIn {α : Type} [BEq α] (n : Nat) (es : List α) (e : α) : List α :=
  if es.contains e then es else (if es.length < n then es else es.drop 1) ++ [e]

/-- The core's TLB, the last-level TLB and the page-walk cache keep what a translation has used (R386). -/
def State.keepTlb (s : State) (core : Nat) (acc : Access) (va : Nat) (e : TlbEntry) : State :=
  let (level, tab) := s.walkFrom (s.partOf core) (dieOf core) va
  let ws := if (s.tlbHit core va acc).isSome then [] else s.tables (s.partOf core) va (4 - level) level tab
  (s.modDie (dieOf core) fun d =>
    { d with tlb := keepIn Config.tlbEntries d.tlb e, walks := ws.foldl (keepIn Config.walkEntries) d.walks }).modCore core fun c =>
    if acc = .fetch then { c with itlb := keepIn 32 c.itlb e } else { c with dtlb := keepIn 64 c.dtlb e }

/-- A fault of an access: code (R334), INFO (R330), the lowest byte address that faulted. -/
structure AFault where
  code : BitVec 16
  info : Word
  addr : Word
  deriving DecidableEq, Repr

/-- An access whose pages all translate: the physical address of each byte, as runs that do not cross a page. -/
abbrev Runs := List (Nat × Nat)

/-- Translates every page of [va, va + n) in ascending order, the first failure deciding (R212, R341). Fuel: pages. -/
def State.xlateRange (s : State) (core : Nat) (acc : Access) : Nat → Word → Nat → Except AFault (Runs × State)
  | 0, _, _ => .ok ([], s)
  | fuel + 1, va, n =>
    if n = 0 then .ok ([], s)
    else
      match s.xlate core va acc with
      | .error f => .error { code := 0x0005, info := f.info, addr := va }
      | .ok e =>
        let here := min n (2 ^ e.log - va.toNat % 2 ^ e.log)
        match State.xlateRange (s.keepTlb core acc (va.toNat % 2 ^ 56) e) core acc fuel (va + BitVec.ofNat 64 here) (n - here) with
        | .error f => .error f
        | .ok (rs, s') => .ok ((e.phys va, here) :: rs, s')

/-! ### Windows: regions and checks (R91, R92) -/

/-- A region of a window: bounds and whether a write is refused (R91). -/
def winRegion (off : Nat) : Option (Nat × Nat × Bool) :=
  if off < 0x40000 then some (0, 0x40000, false)
  else if off < 0x44000 then some (0x40000, 0x44000, false)
  else if off < 0x44200 then some (0x44000, 0x44200, false)
  else if off < 0x45000 then none
  else if off < 0x45C00 then some (0x45000, 0x45C00, false)
  else if off < 0x46000 then none
  else if off < 0x46200 then some (0x46000, 0x46200, true)
  else if off < 0x47000 then none
  else if off < 0x48000 then some (0x47000, 0x48000, true)
  else if off < 0x49000 then some (0x48000, 0x49000, false)
  else if off < 0x49200 then some (0x49000, 0x49200, false)
  else if off < 0x4A000 then none
  else if off < 0x4A400 then some (0x4A000, 0x4A400, true)
  else if off < 0x50000 then none
  else if off < 0x60000 then some (0x50000, 0x60000, true)
  else if off < 0x80000 then none
  else if off < 0xC0000 then some (0x80000, 0xC0000, false)
  else none

/-- A run of bytes lies in a hole somewhere: the lowest such address, if any. Regions begin on 512-byte boundaries. -/
def holeIn (pa n : Nat) : Option Nat :=
  if inWindow pa && (winRegion (winOff pa)).isNone then some pa
  else
    ((upTo ((n + 511) / 512 + 1)).map fun i => (pa / 512 + 1 + i) * 512).find? fun a =>
      decide (a < pa + n) && inWindow a && (winRegion (winOff a)).isNone

/-- The distance from the access's first byte to its lowest byte in a hole, if any. -/
def holeDist : Runs → Nat → Option Nat
  | [], _ => none
  | (p, n) :: rs, at_ =>
    match holeIn p n with
    | some a => some (at_ + (a - p))
    | none => holeDist rs (at_ + n)

/-- Two ranges overlap. -/
def meets (a n b m : Nat) : Bool := decide (a < b + m) && decide (b < a + n)

/-- The checks of R92 on the translated bytes of one access of `n` bytes at `va`: none when it may proceed. `wr`
marks a store or an atomic. The order is that of the table of R92, and the whole port-control block takes aligned 8-byte
accesses alone (log entry 10). -/
def winCheck (runs : Runs) (va : Word) (n : Nat) (wr : Bool) : Option AFault :=
  if !(runs.any fun r => inWindow r.1) then none
  else
    match holeDist runs 0 with
    | some d => some { code := 0x0006, info := 0, addr := va + BitVec.ofNat 64 d }
    | none =>
      match runs with
      | [] => none
      | (p0, _) :: _ =>
        let offs := runs.map fun r => (winRegion (winOff r.1), r)
        let ro := wr && (offs.any fun x =>
          inWindow x.2.1 && (match x.1 with | some (_, _, ro) => ro | none => false))
        let portRo := wr && (runs.any fun r => inWindow r.1 &&
          (meets (winOff r.1) r.2 0x49008 8 || meets (winOff r.1) r.2 0x49020 8))
        if ro || portRo then some { code := 0x0007, info := 0, addr := va }
        else
          let one :=
            match winRegion (winOff p0) with
            | some (_, hi, _) => inWindow p0 && decide (winOff p0 + n ≤ hi) &&
                (runs.foldl (fun acc r => (acc.1 && decide (r.1 = acc.2), r.1 + r.2)) (true, p0)).1
            | none => false
          if !one then some { code := 0x0008, info := 0, addr := va }
          else if decide (0x49000 ≤ winOff p0) && decide (winOff p0 < 0x49200) && !(n == 8 && p0 % 8 == 0) then
            some { code := 0x0009, info := 0, addr := va }
          else none

/-- Translates and checks one access (R92, R212): the runs, or the fault. -/
def State.access (s : State) (core : Nat) (acc : Access) (va : Word) (n : Nat) : Except AFault (Runs × State) :=
  match s.xlateRange core acc (n / 65536 + 2) va n with
  | .error f => .error f
  | .ok (rs, s') =>
    match winCheck rs va n (decide (acc = .write ∨ acc = .atomic)) with
    | some f => .error f
    | none => .ok (rs, s')

end Sys2Proof.Machine
end

