-- ==== Sys2Proof/Machine/Mem.lean ====
section
/-! DEFINITION. Module memory as the dies see it (R23, R87 to R89, R99 to R104, R107 to R109): GDDR 7 and the LLC, a
die's coherent copy and the L1s that hold it, a core's store buffer, cache maintenance and engine-owned lines. -/

namespace Sys2Proof.Machine

/-- The line of a physical address (R16). -/
def lineOf (pa : Nat) : Nat := pa / 32

/-- The lines that [pa, pa + n) overlaps. -/
def linesOf (pa n : Nat) : List Nat :=
  if n = 0 then [] else (upTo (lineOf (pa + n - 1) - lineOf pa + 1)).map fun i => lineOf pa + i

/-- The line's bytes at the LLC. -/
def State.llcLine (s : State) (line : Nat) : Line :=
  { bytes := Vector.ofFn fun i => Memory.get s.mem (line * 32 + i.val), dirty := 0 }

/-- The LLC slice that homes a line of 64 bytes writes it back to its GDDR 7 (R87, R88). The slice answers as before. -/
def State.llcBack (s : State) (l : Nat) : State :=
  s.modMem (homeDie (64 * l)) fun d =>
    { d with gddr := Memory.putAll d.gddr (64 * l) (Memory.getAll s.mem (64 * l) 64) }

/-- The set of a slice that a line of 64 bytes falls in: its place among the lines that its die homes (R23, log entry 8). -/
def llcSet (l : Nat) : Nat := (l / 512 * 64 + l % 64) % 131072

/-- The ways that the line may take: those of the partition that owns its frame (R388); every way for other frames. -/
def State.waysOf (s : State) (l : Nat) : List Nat :=
  let o := (s.owner (64 * l)).toNat
  (upTo 24).filter fun w => if 1 ≤ o ∧ o ≤ 4 then (s.getPart (o - 1)).ways.getLsbD w else true

/-- The slice holds the line in some way. -/
def MemDie.holds (m : MemDie) (l : Nat) : Bool :=
  (upTo 24).any fun w => let i := 131072 * w + llcSet l; Sparse.has m.llc i && Sparse.get 0 m.llc i == l

/-- The line is allocated in its slice where it misses: in a free way of those it may take, else in the lowest, whose line is
written back; with no way it goes through to GDDR 7 (R88, R388, log entry 8). -/
def State.llcKeep (s : State) (l : Nat) : State :=
  let m := s.getMem (homeDie (64 * l))
  let place (w : Nat) : Nat := 131072 * w + llcSet l
  let put (s : State) (w : Nat) : State :=
    s.modMem (homeDie (64 * l)) fun m => { m with llc := m.llc.set (place w) l }
  if m.holds l then s
  else
    match (s.waysOf l).find? fun w => !Sparse.has m.llc (place w), s.waysOf l with
    | some w, _ => put s w
    | none, w :: _ => put (s.llcBack (Sparse.get 0 m.llc (place w))) w
    | none, [] => s.llcBack l

/-- Writes bytes at the LLC (R109). -/
def State.writeLlc (s : State) (pa : Nat) (bs : List Byte) : State :=
  let s := { s with mem := Memory.putAll s.mem pa bs }
  if bs.isEmpty then s
  else (upTo ((pa + bs.length - 1) / 64 - pa / 64 + 1)).foldl (fun s i => s.llcKeep (pa / 64 + i)) s

/-- The line leaves its slice, written back (R104). -/
def State.llcDrop (s : State) (l : Nat) : State :=
  (s.llcBack l).modMem (homeDie (64 * l)) fun m => { m with llc := m.llc.filter fun e => e.2 != l }

/-- Ways are cleared on the eight slices: every line that they hold is written back and dropped (R24, R388). -/
def State.clearWays (s : State) (ways : BitVec 24) : State :=
  (upTo 8).foldl (fun s d =>
    ((s.getMem d).llc.filter fun e => ways.getLsbD (e.1 / 131072)).foldl (fun s e => s.llcDrop e.2) s) s

/-- A memory die's zeroing engine writes 0 to every byte of [lo, hi) that the die homes, and the LLC's lines there are
dropped (R24, R390). -/
def State.zeroDie (s : State) (d lo hi : Nat) : State :=
  { s.modMem d fun m =>
      { m with gddr := Memory.clear m.gddr lo hi
               llc := m.llc.filter fun e => !(decide (lo ≤ 64 * e.2) && decide (64 * e.2 < hi)) } with
    mem := s.mem.filter fun c => !(decide (lo ≤ c.1) && decide (c.1 < hi) && homeDie c.1 == d) }

/-- The die's coherent copy of a line, if it holds one (R101). -/
def State.copyOf (s : State) (die line : Nat) : Option Line :=
  if Sparse.has (s.getDie die).l1 line then some (Sparse.get (s.llcLine line) (s.getDie die).l1 line) else none

/-- Fills a line that misses from the LLC (R101). -/
def State.fill (s : State) (die line : Nat) : State :=
  if Sparse.has (s.getDie die).l1 line then s
  else (s.modDie die fun d => { d with l1 := d.l1.set line (s.llcLine line) }).llcKeep (line / 2)

/-- The byte that the die's agents see: its coherent copy, else the LLC (R101). -/
def State.seen (s : State) (die pa : Nat) : Byte :=
  match s.copyOf die (lineOf pa) with
  | some l => l.bytes[pa % 32]'(Nat.mod_lt _ (by decide))
  | none => Memory.get s.mem pa

/-- Writes one byte of a line and marks it dirty (R89). -/
def Line.put (l : Line) (i : Nat) (b : Byte) : Line :=
  { bytes := l.bytes.set (i % 32) b (Nat.mod_lt _ (by decide)), dirty := l.dirty ||| (1#32 <<< (i % 32)) }

/-- A store enters memory order: it changes the die's coherent copy (R99, R101). -/
def State.storeByte (s : State) (die pa : Nat) (b : Byte) : State :=
  let s := s.fill die (lineOf pa)
  s.modDie die fun d =>
    { d with l1 := d.l1.set (lineOf pa) (Line.put (Sparse.get (s.llcLine (lineOf pa)) d.l1 (lineOf pa)) (pa % 32) b) }

/-- The bytes of a line with one laid over it that the LLC holds too, so that it is not dirty (R102). -/
def Line.lay (l : Line) (i : Nat) (b : Byte) : Line :=
  { bytes := l.bytes.set (i % 32) b (Nat.mod_lt _ (by decide)), dirty := l.dirty &&& ~~~(1#32 <<< (i % 32)) }

/-- Bytes that are written at the LLC and in the die's copy, as one access (R102). -/
def State.layBytes (s : State) (die : Nat) (pa : Nat) : List Byte → State
  | [] => s
  | b :: bs =>
    let s := s.fill die (lineOf pa)
    let s := s.modDie die fun d =>
      { d with l1 := d.l1.set (lineOf pa) (Line.lay (Sparse.get (s.llcLine (lineOf pa)) d.l1 (lineOf pa)) (pa % 32) b) }
    State.layBytes (s.writeLlc pa [b]) die (pa + 1) bs

/-- A store of several bytes enters memory order. -/
def State.storeBytes (s : State) (die : Nat) (pa : Nat) : List Byte → State
  | [] => s
  | b :: bs => State.storeBytes (s.storeByte die pa b) die (pa + 1) bs

/-- Writes a line's dirty bytes to the LLC; the line stays, clean (R89, R104). -/
def State.cleanLine (s : State) (die line : Nat) : State :=
  match s.copyOf die line with
  | none => s
  | some l =>
    let s := (upTo 32).foldl (fun s i =>
      if l.dirty.getLsbD i then { s with mem := Memory.put s.mem (line * 32 + i) (l.bytes[i % 32]'(Nat.mod_lt _ (by decide))) }
      else s) s
    let s := if l.dirty = 0 then s else s.llcKeep (line / 2)
    s.modDie die fun d => { d with l1 := d.l1.set line { l with dirty := 0 } }

/-- The line leaves every L1 of the die; its dirty bytes, if any, are discarded (R104). -/
def State.dropLine (s : State) (die line : Nat) : State :=
  { s.modDie die fun d => { d with l1 := Sparse.del d.l1 line } with
    cores := s.cores.map fun (c : Nat × Core) =>
      (c.1, if dieOf c.1 = die then { c.2 with l1 := c.2.l1.filter fun l => l != line } else c.2) }

/-- Cleans a line and removes it. -/
def State.flushLine (s : State) (die line : Nat) : State := (s.cleanLine die line).dropLine die line

/-- A line leaves a core's L1, its dirty bytes written to the LLC; the die keeps a copy while another L1 of it holds the line
(R89, R101). -/
def State.evict (s : State) (core line : Nat) : State :=
  let die := dieOf core
  let others := s.cores.any fun c => c.1 != core && dieOf c.1 == die && c.2.l1.contains line
  if others then (s.cleanLine die line).modCore core fun c => { c with l1 := c.l1.filter fun l => l != line }
  else s.flushLine die line

/-- The core's L1 holds a line, filled where it misses; the oldest of a set of 12 makes room for it (R16, R101). -/
def State.hold (s : State) (core line : Nat) : State :=
  let l1 := (s.getCore core).l1
  if l1.contains line then s.fill (dieOf core) line
  else
    let set := l1.filter fun l => l % 2048 == line % 2048
    let s := if set.length < 12 then s else (set.head?.map fun l => s.evict core l).getD s
    (s.fill (dieOf core) line).modCore core fun c => { c with l1 := c.l1 ++ [line] }

/-- A change for every line of some ranges. -/
def State.onLines (s : State) (runs : Runs) (f : State → Nat → State) : State :=
  runs.foldl (fun s r => if inWindow r.1 then s else (linesOf r.1 r.2).foldl f s) s

/-- The core's L1 holds every line of some ranges. -/
def State.holdRuns (s : State) (core : Nat) (runs : Runs) : State := s.onLines runs fun s l => s.hold core l

/-! ### Store buffer (R99) -/

/-- The byte of the context's latest buffered store to an address, if there is one (R99 item 4). -/
def forwarded (sb : List SbEntry) (ctx pa : Nat) : Option Byte :=
  sb.foldl (fun acc e =>
    if e.ctx = ctx ∧ e.pa ≤ pa ∧ pa < e.pa + e.bytes.length then some (e.bytes.getD (pa - e.pa) 0) else acc) none

/-- The byte that a load of a context returns (R99 item 4). -/
def State.loadByte (s : State) (core ctx pa : Nat) : Byte :=
  match forwarded (s.getCore core).sb ctx pa with
  | some b => b
  | none => s.seen (dieOf core) pa

/-- A store of a core enters memory order in its L1 (R99, R109). -/
def State.coreStore (s : State) (core pa : Nat) (bs : List Byte) : State :=
  (s.holdRuns core [(pa, bs.length)]).storeBytes (dieOf core) pa bs

/-- The oldest buffered store leaves the buffer and enters memory order (R99). -/
def State.drainOne (s : State) (core : Nat) : State :=
  match (s.getCore core).sb with
  | [] => s
  | e :: rest => (s.modCore core fun c => { c with sb := rest, sbOut := c.sbOut + 1 }).coreStore core e.pa e.bytes

/-- The first `n` buffered stores leave the buffer in order. -/
def State.drainN (s : State) (core : Nat) : Nat → State
  | 0 => s
  | n + 1 => State.drainN (s.drainOne core) core n

/-- Every buffered store of the core leaves the buffer. -/
def State.drainAll (s : State) (core : Nat) : State := s.drainN core (s.getCore core).sb.length

/-- Buffer length up to the context's last store. -/
def lastOwn (sb : List SbEntry) (ctx : Nat) : Nat :=
  (sb.foldl (fun (acc : Nat × Nat) e => (acc.1 + 1, if e.ctx = ctx then acc.1 + 1 else acc.2)) (0, 0)).2

/-- The context's buffered stores leave the buffer, in order and after every older store (R99, R107). -/
def State.drainCtx (s : State) (core ctx : Nat) : State := s.drainN core (lastOwn (s.getCore core).sb ctx)

/-! ### Engine-owned lines (R108) -/

/-- An engine of the die owns a line of the range. -/
def State.ownedIn (s : State) (die : Nat) (runs : Runs) : Bool :=
  let o := (s.getDie die).owned
  !o.isEmpty && runs.any fun r => !inWindow r.1 && ((linesOf r.1 r.2).any fun l => o.any fun x => x.1 == l)

/-- At dispatch an engine takes the destination lines: their copies leave the die, dirty bytes first (R108). -/
def State.takeLines (s : State) (core : Nat) (seq : BitVec 16) (runs : Runs) : State :=
  s.onLines runs fun s l =>
    (s.flushLine (dieOf core) l).modDie (dieOf core) fun d => { d with owned := d.owned ++ [(l, core, seq)] }

/-- Ownership of an instruction's remaining lines ends (R108). -/
def State.releaseLines (s : State) (core : Nat) (seq : BitVec 16) : State :=
  s.modDie (dieOf core) fun d => { d with owned := d.owned.filter fun x => !(x.2.1 == core && x.2.2 == seq) }

/-- Ownership of the lines that the instruction has written whole ends: those of a range that none of its remaining
destination touches (R108). -/
def State.releaseRange (s : State) (core : Nat) (seq : BitVec 16) (runs left : Runs) : State :=
  let lines (rs : Runs) : List Nat := rs.flatMap fun r => linesOf r.1 r.2
  let done := (lines runs).filter fun l => !(lines left).contains l
  s.modDie (dieOf core) fun d =>
    { d with owned := d.owned.filter fun x => !(x.2.1 == core && x.2.2 == seq && done.contains x.1) }

/-! ### Cache maintenance (R104, R233) -/

/-- What an operation does to one line of the die, and to the line of the LLC that holds it (R104). -/
def State.cmoLine (s : State) (die : Nat) (k : CmoKind) (lv : CmoLevel) (line : Nat) : State :=
  match k, lv with
  | .clean, .l1 => s
  | .clean, .llc => s.cleanLine die line
  | .clean, .mem => (s.cleanLine die line).llcBack (line / 2)
  | .inv, .l1 => s.dropLine die line
  | .inv, _ => (s.dropLine die line).llcDrop (line / 2)
  | .clinv, .l1 => s.flushLine die line
  | .clinv, _ => (s.flushLine die line).llcDrop (line / 2)

/-- The stores that a maintenance operation follows leave the buffer, and every line operation of it reaches its end
(R104, R233). -/
def State.cmoDone (s : State) (core : Nat) (j : CmoJob) : State :=
  (s.drainN core (j.mark - (s.getCore core).sbOut)).onLines j.ranges fun s l => s.cmoLine (dieOf core) j.kind j.level l

/-! ### What an engine of a die reads (R107) and writes (R109) -/

/-- Bytes of runs as an agent of the die sees them. -/
def State.seenRuns (s : State) (die : Nat) (rd : Nat → Byte) (runs : Runs) : List Byte :=
  runs.flatMap fun r => (upTo r.2).map fun i => if inWindow (r.1 + i) then rd (r.1 + i) else s.seen die (r.1 + i)

/-- Distributes bytes over runs: start address and bytes of each. -/
def cutRuns : Runs → List Byte → List (Nat × List Byte)
  | [], _ => []
  | (p, n) :: rs, bs => (p, bs.take n) :: cutRuns rs (bs.drop n)

end Sys2Proof.Machine
end

