-- ==== Sys2Proof/Machine/Window.lean ====
section
/-! DEFINITION. A core's window and port (R91, R93 to R98, R112 to R115, R422): what each byte reads as, what a write
does, and how the port performs a piece. -/

namespace Sys2Proof.Machine

/-- Byte `k` of a number, little-endian. -/
def byteAt (n k : Nat) : Byte := BitVec.ofNat 8 (n / 256 ^ k)

/-- A number with byte `k` replaced. -/
def setByte (n k : Nat) (b : Byte) : Nat := n - (n / 256 ^ k % 256) * 256 ^ k + b.toNat * 256 ^ k

/-- All lanes 0. -/
def zeroLanes : Lanes := Vector.replicate 128 0

/-- A vector register (R148). -/
def Core.getV (c : Core) (i : Nat) : Lanes := Sparse.get zeroLanes c.v i
/-- Writes a vector register. -/
def Core.setV (c : Core) (i : Nat) (x : Lanes) : Core := { c with v := c.v.set i x }
/-- A mask register; k0 reads as all ones (R149). -/
def Core.getK (c : Core) (i : Nat) : BitVec 128 := if i = 0 then BitVec.allOnes 128 else Sparse.get 0 c.k i
/-- Writes a mask register; a write to k0 is discarded (R149). -/
def Core.setK (c : Core) (i : Nat) (x : BitVec 128) : Core := if i = 0 then c else { c with k := c.k.set i x }

/-- A lane of a vector register by number. -/
def laneAt (x : Lanes) (j : Nat) : Lane := x[j % 128]'(Nat.mod_lt _ (by decide))

/-- Is s(i) of a context bound to an endpoint (R305). -/
def Ctx.bound (c : Ctx) (i : Nat) : Bool := decide (24 ≤ i) && c.chbind.getLsbD (8 * (i - 24) + 7)

/-- The endpoint of a bound register (R305). -/
def Ctx.boundEp (c : Ctx) (i : Nat) : Nat := bits c.chbind.toNat (8 * (i - 24) + 5) (8 * (i - 24))

/-- A ring handle as 256 bits (R268). -/
def Ring.bits (r : Ring) : Nat :=
  r.base.toNat * 2 ^ 192 + r.fill.toNat * 2 ^ 160 + r.drain.toNat * 2 ^ 128 + r.valid.toNat * 2 ^ 16 +
  r.logSize.toNat * 256 + r.logSlots.toNat

/-- STATE of a dispatch-ring entry (R335). -/
def DState.num : DState → Nat
  | .empty => 0 | .inFlight => 1 | .completed => 2 | .faulted => 3

/-- A dispatch-ring entry as 128 bits (R335). -/
def DEntry.bits (e : DEntry) : Nat :=
  e.addr.toNat * 2 ^ 64 + e.seq.toNat * 2 ^ 48 + e.word.toNat * 2 ^ 32 + e.ctx * 2 ^ 28 + e.st.num * 2 ^ 26 +
  e.unit % 256 * 2 ^ 16 + e.fault.toNat

/-- PORTSTAT (R96). -/
def Port.stat (p : Port) : Nat := p.wrap.toNat * 2 + p.ovr.toNat

/-- The port-control register at an offset of the block (R96). -/
def Port.reg (p : Port) (off : Nat) : Nat :=
  match off / 8 with
  | 0 => p.tail.toNat | 1 => p.head.toNat | 2 => p.resv.toNat | 3 => p.stat | 4 => p.traceCount.toNat | _ => 0

/-- An element of a tile (R91). -/
def Grove.tileAt (g : Grove) (t i : Nat) : Lane := Sparse.get 0 (Sparse.get [] g.tiles t) i
/-- Writes an element of a tile. -/
def Grove.setTile (g : Grove) (t i : Nat) (x : Lane) : Grove :=
  { g with tiles := g.tiles.set t (Sparse.set (Sparse.get [] g.tiles t) i x) }

/-- What a byte of a core's window reads as (R91, R93, R94, R96); a hole reads 0 and no access reaches it. -/
def State.winByte (s : State) (core off : Nat) : Byte :=
  let c := s.getCore core
  if off < 0x40000 then Memory.get c.scratch off
  else if off < 0x44000 then byteAt (laneAt (c.getV ((off - 0x40000) / 512)) (off % 512 / 4)).toNat (off % 4)
  else if off < 0x44080 then byteAt (c.getK ((off - 0x44000) / 16)).toNat (off % 16)
  else if off < 0x45000 then 0
  else if off < 0x45B00 then
    let x := c.getCtx ((off - 0x45000) / 256)
    let i := off % 256 / 8
    if i = 0 ∨ x.bound i then 0 else byteAt (Sparse.get (0 : Word) x.regs i).toNat (off % 8)
  else if off < 0x46000 then 0
  else if off < 0x46200 then byteAt (c.getRing (BitVec.ofNat 4 ((off - 0x46000) / 32))).bits (off % 32)
  else if off < 0x47000 then 0
  else if off < 0x48000 then
    match c.events.find? fun e => e.n % 256 == (off - 0x47000) / 16 with
    | some e => byteAt e.bits.toNat (off % 16)
    | none => 0
  else if off < 0x49000 then Memory.get c.port.inbox (off - 0x48000)
  else if off < 0x49200 then byteAt (c.port.reg (off - 0x49000)) (off % 8)
  else if off < 0x4A000 then 0
  else if off < 0x4A400 then byteAt (Sparse.get DEntry.reset c.dring ((off - 0x4A000) / 16)).bits (off % 16)
  else if off < 0x50000 then 0
  else if off < 0x60000 then byteAt (Sparse.get (0 : BitVec 128) c.port.trace ((off - 0x50000) / 16)).toNat (off % 16)
  else if 0x80000 ≤ off ∧ off < 0xC0000 then
    byteAt ((s.getGrove (groveOf core)).tileAt ((off - 0x80000) / 0x10000) (off % 0x10000 / 4)).toNat (off % 4)
  else 0

/-- The byte at a physical address of the windows. -/
def State.winSeen (s : State) (pa : Nat) : Byte := s.winByte (winCore pa) (winOff pa)

/-- A write of `t` to TAIL (R97). -/
def Port.writeTail (p : Port) (t : Word) : Port :=
  if p.head.toNat + 64 < t.toNat then { p with ovr := true }
  else if t.toNat ≤ p.tail.toNat then p
  else { p with tail := t }

/-- The KIND of the trace entry of a write of `t` to TAIL: applied, stale or discarded (R114). -/
def Port.tailKind (p : Port) (t : Word) : Nat :=
  if p.head.toNat + 64 < t.toNat then 5 else if t.toNat ≤ p.tail.toNat then 4 else 3

/-- A write of PORTSTAT clears the bits written 1 (R96). -/
def Port.writeStat (p : Port) (w : Word) : Port :=
  { p with ovr := p.ovr && !bitAt w 0, wrap := p.wrap && !bitAt w 1 }

/-- A write of 8 bytes to the port-control block; bytes past the registers discard it (R96). -/
def Port.writeReg (p : Port) (off : Nat) (w : Word) : Port :=
  match off / 8 with
  | 0 => p.writeTail w | 2 => { p with resv := w } | 3 => p.writeStat w | _ => p

/-- A write of one byte into s(i) of a context; s0 and a bound register discard it (R93). -/
def Ctx.putByte (x : Ctx) (i k : Nat) (b : Byte) : Ctx :=
  if i = 0 ∨ x.bound i then x
  else { x with regs := x.regs.set i (BitVec.ofNat 64 (setByte (Sparse.get (0 : Word) x.regs i).toNat k b)) }

/-- A write of one byte of a window outside the port-control block. `front` marks the launch engine, whose record
pieces set a slot's mark; any other agent's clear it (R436). -/
def State.winPut (s : State) (core off : Nat) (b : Byte) (front : Bool) : State :=
  if off < 0x40000 then s.modCore core fun c => { c with scratch := Memory.put c.scratch off b }
  else if off < 0x44000 then
    let i := (off - 0x40000) / 512
    let j := off % 512 / 4
    s.modCore core fun c =>
      c.setV i ((c.getV i).set (j % 128) (BitVec.ofNat 32 (setByte (laneAt (c.getV i) j).toNat (off % 4) b))
        (Nat.mod_lt _ (by decide)))
  else if off < 0x44080 then
    let i := (off - 0x44000) / 16
    s.modCore core fun c => c.setK i (BitVec.ofNat 128 (setByte (c.getK i).toNat (off % 16) b))
  else if 0x45000 ≤ off ∧ off < 0x45B00 then
    s.modCtx core ((off - 0x45000) / 256) fun x => x.putByte (off % 256 / 8) (off % 8) b
  else if 0x48000 ≤ off ∧ off < 0x49000 then
    let slot := (off - 0x48000) / 64
    s.modCore core fun c =>
      { c with port := { c.port with
          inbox := Memory.put c.port.inbox (off - 0x48000) b,
          marks := if front then c.port.marks ||| (1#64 <<< slot) else c.port.marks &&& ~~~(1#64 <<< slot) } }
  else if 0x80000 ≤ off ∧ off < 0xC0000 then
    let t := (off - 0x80000) / 0x10000
    let i := off % 0x10000 / 4
    s.modGrove (groveOf core) fun g =>
      g.setTile t i (BitVec.ofNat 32 (setByte (g.tileAt t i).toNat (off % 4) b))
  else s

/-- A write of the bytes of a piece into a window but for those of inactive lanes (R246). -/
def State.winWriteSkip (s : State) (core off : Nat) (bs : List Byte) (skip : List Nat) : State :=
  (bs.zipIdx.filter fun x => !skip.contains x.2).foldl (fun s x => s.winPut core (off + x.2) x.1 false) s

/-- A write of bytes into a window, whole as one piece (R112). -/
def State.winWrite (s : State) (core off : Nat) (bs : List Byte) (front : Bool) : State :=
  if 0x49000 ≤ off ∧ off < 0x49200 then
    s.modCore core fun c => { c with port := c.port.writeReg (off - 0x49000) (BitVec.ofNat 64 (natOf bs)) }
  else (bs.foldl (fun (acc : State × Nat) b => (acc.1.winPut core acc.2 b front, acc.2 + 1)) (s, off)).1

/-- The next arrival sequence number is taken (R113). -/
def State.bumpSeq (s : State) (core n : Nat) : State :=
  s.modCore core fun c => { c with port := { c.port with seq := c.port.seq + BitVec.ofNat 20 n } }

/-- log2 of a number of bytes, rounded up (R114). -/
def logSize (n : Nat) : Nat := if n ≤ 1 then 0 else Nat.log2 (n - 1) + 1

/-- KIND of a write piece (R114). -/
def Piece.kind (p : Piece) (port : Port) : Nat :=
  if p.off = 0x49000 then port.tailKind (BitVec.ofNat 64 (natOf p.bytes))
  else if p.engine then 2 else 0

/-- A trace entry (R114). -/
def traceEntry (time : Word) (kind size agent src off seq : Nat) : BitVec 128 :=
  BitVec.ofNat 128
    (time.toNat * 2 ^ 64 + kind * 2 ^ 61 + size * 2 ^ 57 + agent * 2 ^ 52 + src * 2 ^ 43 + off * 2 ^ 20 + seq)

/-- The port writes a trace entry for a write piece or atomic that is not its own core's (R113, R115). -/
def State.trace (s : State) (core kind size agent src off : Nat) : State :=
  s.modCore core fun c =>
    let p := c.port
    { c with port := { p with
        trace := p.trace.set (p.traceCount.toNat % 4096) (traceEntry s.time kind size agent src off p.seq.toNat),
        wrap := p.wrap || (decide (p.traceCount.toNat ≠ 0) && decide (p.traceCount.toNat % 4096 = 0)),
        traceCount := p.traceCount + 1 } }

/-- The SRC field of an agent (R114). -/
def State.srcField (s : State) (agent src : Nat) : Nat := if 20 ≤ agent then 0 else s.indexOf src

/-- The replay queue admits the piece: it is empty, or the head agrees (R422). -/
def State.replayAdmits (s : State) (core kind size agent src off : Nat) : Bool :=
  match (s.getCore core).port.replay with
  | [] => true
  | e :: _ =>
    let x := e.toNat
    decide (bits x 60 57 = size) && decide (bits x 56 52 = agent) && decide (bits x 51 43 = src) &&
    decide (bits x 39 20 = off) &&
    (decide (bits x 63 61 = kind) || (decide (3 ≤ bits x 63 61) && decide (bits x 63 61 ≤ 5) && decide (off = 0x49000)))

/-- The head of the replay queue is popped, when there is one (R422). -/
def State.replayPop (s : State) (core : Nat) : State :=
  s.modCore core fun c => { c with port := { c.port with replay := c.port.replay.drop 1, replayWait := 0 } }

/-- An access to vector or mask registers finds the owner's vector queue empty (R94); one to a tile finds no accepted
command that writes it (R95). -/
def State.winReady (s : State) (core off n : Nat) : Bool :=
  if 0x40000 ≤ off ∧ off < 0x44200 then (s.getCore core).vq.isEmpty
  else if 0x80000 ≤ off ∧ off < 0xC0000 then
    let lo := (off - 0x80000) / 0x10000
    let hi := (off - 0x80000 + n - 1) / 0x10000
    (s.getGrove (groveOf core)).accepted.all fun a =>
      match a.entry.instr with
      | .mmac t _ _ | .mgrp t _ _ _ | .mzero t => decide (t.toNat < lo) || decide (hi < t.toNat)
      | _ => true
  else true

/-! ### A core that comes to another job (R391) -/

/-- A core's state is cleared (R391). -/
def Core.clear (c : Core) : Core :=
  { c with ctxs := c.ctxs.map fun x => (x.1, { x.2 with regs := [] }), v := [], k := [], rings := [], scratch := [],
           port := { Port.reset with seq := c.port.seq }, dring := [], issued := [], completed := [], events := [],
           l1 := [], icache := [], itlb := [], dtlb := [] }

/-- A grove's matrix state is cleared, and its lease count starts as after reset (R20, R274, R391). -/
def Grove.clear (g : Grove) : Grove := { g with tiles := [], banks := [], tabs := [], active := 0, last := 3 }

/-- A core takes part in a job other than the one whose state it holds: its state is cleared, the lines of its L1 written
back, and its grove's when no other core of the grove is of the new job yet; barriers stay, as R44 clears them at a re-cut
(R391, log entry 131). `port` says whether its inbox and port are cleared with it. -/
def State.ownCore (s : State) (core : Nat) (port : Bool) : State :=
  let jobs := (s.getPart (s.partOf core)).jobs
  let c := s.getCore core
  if c.job = jobs then s
  else
    let s := c.l1.foldl (fun s l => s.flushLine (dieOf core) l) s
    let s := if (groveCores core).any fun k => (s.getCore k).job == jobs then s else s.modGrove (groveOf core) Grove.clear
    s.modCore core fun c => { c.clear with port := if port then c.clear.port else c.port, job := jobs }

/-- A core of the partition's present job reaches another's window: one that holds an older job's state comes to the new job
before this access (R391). -/
def State.reach (s : State) (src dst : Nat) : State :=
  if src ≠ dst ∧ src < 512 ∧ s.partOf src = s.partOf dst ∧ (s.getCore src).job = (s.getPart (s.partOf dst)).jobs then
    s.ownCore dst true
  else s

/-- The port performs a write piece: effect, sequence number, trace entry for a remote agent (R112, R113). -/
def State.perform (s : State) (p : Piece) : State :=
  let s := s.reach p.src p.dst
  let own := decide (p.src = p.dst) && decide (p.agent.toNat < 20)
  let kind := p.kind (s.getCore p.dst).port
  let s' :=
    if p.skip.isEmpty then s.winWrite p.dst p.off p.bytes (decide (p.agent = 20))
    else s.winWriteSkip p.dst p.off p.bytes p.skip
  let s' :=
    if own then s'
    else (s'.trace p.dst kind (logSize p.bytes.length) p.agent.toNat (s.srcField p.agent.toNat p.src) p.off).replayPop
      p.dst
  s'.bumpSeq p.dst 1

/-- The replay queue of the port admits the piece; the owner's own pass untouched (R422). -/
def State.inReplay (s : State) (p : Piece) : Bool :=
  (decide (p.src = p.dst) && decide (p.agent.toNat < 20)) ||
  s.replayAdmits p.dst (p.kind (s.getCore p.dst).port) (logSize p.bytes.length) p.agent.toNat
    (s.srcField p.agent.toNat p.src) p.off

/-- The piece may be performed now. -/
def State.admits (s : State) (p : Piece) : Bool := s.winReady p.dst p.off p.bytes.length && s.inReplay p

/-- The sender is a core of another partition, whose pieces the port does not accept (R387). -/
def State.foreign (s : State) (p : Piece) : Bool := decide (p.src < 512) && s.partOf p.src != s.partOf p.dst

/-- Cuts the bytes of an access into pieces of 64, ascending from its first byte (R112). -/
def pieces64 : Nat → Nat → List Byte → List (Nat × List Byte)
  | 0, _, _ => []
  | fuel + 1, off, bs =>
    if bs.isEmpty then [] else (off, bs.take 64) :: pieces64 fuel (off + 64) (bs.drop 64)

/-- The pieces of a write of bytes at a physical window address. -/
def piecesOf (src : Nat) (agent : BitVec 5) (ctx : Nat) (engine : Bool) (pa : Nat) (bs : List Byte) : List Piece :=
  (pieces64 (bs.length / 64 + 1) (winOff pa) bs).map fun x =>
    { src := src, agent := agent, ctx := ctx, dst := winCore pa, off := x.1, bytes := x.2, skip := [], engine := engine,
      launch := none }

/-- The pieces of a read of `n` bytes of a core's window by an agent take their arrival numbers (R112, R113). -/
def State.readPieces (s : State) (src core n : Nat) : State := (s.reach src core).bumpSeq core ((n + 63) / 64)

/-- The pieces of an agent's read of runs, those in windows. -/
def State.readRuns (s : State) (src : Nat) (runs : Runs) : State :=
  runs.foldl (fun s r => if inWindow r.1 then s.readPieces src (winCore r.1) r.2 else s) s

/-- The owner's own access, in pieces, at issue (R112). -/
def State.performAll (s : State) (ps : List Piece) : State := ps.foldl State.perform s

/-- The oldest piece from a source on its way to a port. -/
def State.nextPiece (s : State) (dst src : Nat) : Option Piece := s.pieces.find? fun p => p.dst == dst && p.src == src

/-- Takes a piece out of those on their way. -/
def removeFirst (ps : List Piece) (dst src : Nat) : List Piece :=
  match ps with
  | [] => []
  | p :: rest => if p.dst = dst ∧ p.src = src then rest else p :: removeFirst rest dst src

/-- The oldest piece from a source arrives at a port, when the port admits it (R112); one that the port does not accept is
gone (R387). -/
def State.arrive (s : State) (dst src : Nat) : State :=
  match s.nextPiece dst src with
  | none => s
  | some p =>
    let t := { s with pieces := removeFirst s.pieces dst src }
    if s.foreign p then t else if s.admits p then t.perform p else s

/-- Pieces of a source that are still on their way, delivered in order as far as their ports take them. -/
def State.arriveN (s : State) (src : Nat) : Nat → State
  | 0 => s
  | n + 1 =>
    match s.pieces.find? fun p => p.src == src with
    | none => s
    | some p => State.arriveN (s.arrive p.dst src) src n

/-- A replay queue holds the oldest piece of the core on its way to a port, so that what has sent it stalls behind it: the
store buffer for a context, the engine for another (R422). `f` says whose piece it is. -/
def State.heldBack (s : State) (core : Nat) (f : Piece → Bool) : Bool :=
  s.pieces.any fun p => p.src == core && f p && s.nextPiece p.dst core == some p && !s.inReplay p

/-- A context's piece, one of the vector unit, one of the copy engine, one of the fabric (R114). -/
def Piece.byCtx (p : Piece) : Bool := decide (p.agent.toNat < 16)
def Piece.byVector (p : Piece) : Bool := p.agent == 17
def Piece.byCopy (p : Piece) : Bool := p.agent == 16 && decide (11 ≤ p.ctx)
def Piece.byFabric (p : Piece) : Bool := p.agent == 16 && decide (p.ctx < 11)

/-- A source has no piece on its way that a filter holds. -/
def State.noPieces (s : State) (src : Nat) (f : Piece → Bool) : Bool := s.pieces.all fun p => !(p.src == src && f p)

end Sys2Proof.Machine
end

