-- ==== Sys2Proof/Machine/Operands.lean ====
section
/-! DEFINITION. Operands: scalar registers with their channel bindings (R50, R93, R147, R165), channel words (R48 to
R51), the registers an instruction names, and which instructions a helper may issue (R35). -/

namespace Sys2Proof

namespace Machine

/-! ### Channels -/

/-- The next word of a receive endpoint's stream (R50). -/
def Endpoint.peek (e : Endpoint) : Option Word :=
  match e.msgs with
  | (w :: _) :: _ => some w
  | _ => none

/-- The stream after one word is popped; the slot of a message whose last word is popped is free (R49, R50). -/
def Endpoint.pop (e : Endpoint) : Endpoint :=
  match e.msgs with
  | (_ :: []) :: rest => { e with msgs := rest }
  | (_ :: ws) :: rest => { e with msgs := ws :: rest }
  | _ => e

/-- A slot of the receiver is free: not granted and not filled (R49). -/
def Endpoint.freeSlot (e : Endpoint) : Bool := e.declared && !e.send && decide (e.grants + e.msgs.length < e.slots)

/-- Pops one word of a core's endpoint. -/
def State.popEp (s : State) (core ep : Nat) : State := s.modEp core ep Endpoint.pop

/-- A context sends a message under a held grant, whole (R49): to a core of the module its words are placed at once, to
another module or the exchange engine they leave the core. -/
def State.sendMsg (s : State) (core ctx ep : Nat) (ws : List Word) : State :=
  let e := s.getEp core ep
  let s := s.modEp core ep fun e => { e with grants := e.grants - 1, seqno := e.seqno + 1 }
  match e.peer with
  | .core c' e' => s.modEp c' e' fun r => { r with grants := r.grants - 1, msgs := r.msgs ++ [ws] }
  | .module _ _ peer chan _ =>
    (s.modEp core ep fun e => { e with unacked := e.unacked ||| (1#11 <<< ctx) }).send
      (.message ((s.portOf e).getD 0) peer chan e.seqno ws)
  | .exchange _ _ _ => s.modEp core ep fun e => { e with msgs := e.msgs ++ [ws] }

/-! ### Scalar registers -/

/-- The value of s(i) of a context outside an instruction: the stored value (R147). -/
def Ctx.stored (x : Ctx) (i : Nat) : Word := if i = 0 then 0 else Sparse.get 0 x.regs i

/-- The value of s(i) that an instruction reads: as it was at the start of one that has waited and issues again
(R93, R211). -/
def Ctx.source (x : Ctx) (i : Nat) : Word :=
  match x.latch with
  | some regs => if i = 0 then 0 else Sparse.get 0 regs i
  | none => x.stored i

/-- S(i) (R165): 0 for s0, the next word of a bound receive endpoint, 0 for a bound send endpoint. -/
def State.rd (s : State) (r : SReg) : Word :=
  let i := r.toNat
  if s.cx.bound i then
    let e := s.getEp s.core (s.cx.boundEp i)
    if e.send then 0 else e.peek.getD 0
  else s.cx.source i

/-- S(c) of a third source, s0 to s15 (R141). -/
def State.rdC (s : State) (c : CReg) : Word := s.cx.source c.toNat

/-- Stores a register of a context; s0 discards (R147). -/
def Ctx.store (x : Ctx) (i : Nat) (v : Word) : Ctx := if i = 0 then x else { x with regs := x.regs.set i v }

/-- S(i) ← v of a context (R165): discarded for s0 and a bound receive register, sent for a bound send register. -/
def State.wrAt (s : State) (core ctx : Nat) (r : SReg) (v : Word) : State :=
  let i := r.toNat
  let x := s.getCtx core ctx
  if x.bound i then
    if (s.getEp core (x.boundEp i)).send then s.sendMsg core ctx (x.boundEp i) [v] else s
  else s.modCtx core ctx fun x => x.store i v

/-- S(i) ← v of the acting context. -/
def State.wr (s : State) (r : SReg) (v : Word) : State := s.wrAt s.core s.ctx r v

/-- The destination is bound to an endpoint (R266, R298). -/
def State.isBound (s : State) (r : SReg) : Bool := s.cx.bound r.toNat

end Machine

/-! ### What an engine-bound instruction names -/

/-- The s registers that an engine-bound instruction writes at its completion (R238, R266). -/
def Instr.lateDests : Instr → List SReg
  | .vmovs d _ _ _ | .kpop d _ _ | .vredsumF32 d _ _ | .vredmaxF32 d _ _ | .vredminF32 d _ _ | .vredsumF64 d _ _
  | .vredsumI32 d _ _ | .vredmaxI32 d _ _ | .vredsumI64 d _ _ | .vredor d _ _ | .hget d _ _ | .afcfgClaim d _
  | .afwait d | .afwaitTry d => [d]
  | .evwait d a | .evtry d a | .afsamp d a _ => [d, a]
  | _ => []

/-- The base word of an instruction, for the dispatch ring (R264). -/
def Instr.word (i : Instr) : BitVec 16 :=
  match i.fields with
  | some f => baseWord f
  | none => 0

namespace Machine

/-! ### The chain (R152, R153, R432) -/

/-- A step with no transfer (R153). -/
def Ctx.advance (x : Ctx) : Ctx :=
  { x with pc := x.npc, npc := x.nnpc, nnpc := x.nextAddr, nul0 := x.nul1, nul1 := false, sl0 := x.sl1, sl1 := false }

/-- A step that executed a transfer (R153). -/
def Ctx.transfer (x : Ctx) (t : Word) (z : Bool) : Ctx :=
  { x with pc := x.npc, npc := x.nnpc, nnpc := t, nul0 := x.nul1 || z, nul1 := z, sl0 := true, sl1 := true }

/-- A chain sequential from an address, formed without fetching (R432). -/
def Ctx.sequential (x : Ctx) (e : Word) : Ctx :=
  { x with pc := e, npc := 0, nnpc := 0, nul0 := false, nul1 := false, sl0 := false, sl1 := false, fresh := true }

/-- A context that is FREE: of its state only the scalar registers are left (R17). -/
def Ctx.freed (x : Ctx) : Ctx := { Ctx.reset with regs := x.regs }

/-- The chain saved in the X registers (R156). -/
def Ctx.saveChain (x : Ctx) : Ctx :=
  { x with xpc := x.pc, xnpc := if x.fresh then 0 else x.npc, xnnpc := if x.fresh then 0 else x.nnpc,
           xnul := if x.fresh then 16
                   else BitVec.ofNat 5 (x.nul0.toNat + 2 * x.nul1.toNat + 4 * x.sl0.toNat + 8 * x.sl1.toNat) }

/-- The step's pops happen and the context is READY with no wait (R41, R50). -/
def State.popAll (s : State) : State := s.cx.popped.foldl (fun s e => s.popEp s.core e) s

/-- The context leaves its step READY: nothing popped is left, no wait stands and no source is kept. -/
def Ctx.settled (x : Ctx) : Ctx :=
  { x with popped := [], mode := .ready, wait := none, waited := 0, woken := false, waking := false, latch := none }

/-- The instruction retires and the chain moves on sequentially (R153). -/
def State.retire (s : State) : State := s.popAll.modCx fun x => x.advance.settled

/-- A transfer retires (R153). -/
def State.retireTo (s : State) (t : Word) (z : Bool) : State := s.popAll.modCx fun x => (x.transfer t z).settled

/-- The result of an instruction that writes one register and retires. -/
def State.result (s : State) (d : SReg) (v : Word) : State := (s.wr d v).retire

end Machine

end Sys2Proof
end

