-- ==== Sys2Proof/Machine/Record.lean ====
section
/-! DEFINITION. What the engines of the link die read and write (R435), the error logs and counters (R429, R430) and
the completion signals (R378, R379). -/

namespace Sys2Proof.Machine

/-- Bits [hi:lo] of `x` replaced by `v`. -/
def setBits (x hi lo v : Nat) : Nat := x - bits x hi lo * 2 ^ lo + v % 2 ^ (hi + 1 - lo) * 2 ^ lo

/-! ### Error logs and counters -/

/-- The log's latest SERIAL (R430). -/
def ErrorLog.serial (l : ErrorLog) : BitVec 32 := BitVec.ofNat 32 l.count

/-- The event's entry is written in slot SERIAL mod 1,024 (R430). -/
def ErrorLog.add (l : ErrorLog) (time : Word) (kind code d0 d1 : Nat) : ErrorLog :=
  let n := l.count + 1
  { count := n
    entries := l.entries.set (n % 1024)
      (BitVec.ofNat 256 (time.toNat * 2 ^ 192 + d1 % 2 ^ 64 * 2 ^ 128 + d0 % 2 ^ 64 * 2 ^ 64 + n % 2 ^ 32 * 2 ^ 32 +
        code % 65536 * 2 ^ 16 + kind)) }

/-- An entry in a partition's log (R430). -/
def State.logPart (s : State) (part kind code d0 d1 : Nat) : State :=
  s.modPart part fun p => { p with log := p.log.add s.time kind code d0 d1 }

/-- An entry in the module's log (R430). -/
def State.logMod (s : State) (kind code d0 d1 : Nat) : State := { s with log := s.log.add s.time kind code d0 d1 }

/-- A counter of `w` bits saturates at all ones (R429). -/
def satAdd (w a b : Nat) : Nat := min (a + b) (2 ^ w - 1)

/-- A change of a partition's counters, which counts for the module too (R429). -/
def State.count (s : State) (part : Nat) (f : Stats → Stats) : State :=
  { s.modPart part fun p => { p with stats := f p.stats } with stats := f s.stats }

/-! ### Records (R435) -/

/-- A record that an engine reaches (R430 KIND 8). -/
inductive RecKind where
  | launch | graph | signal | phase
  deriving DecidableEq, Repr

/-- DETAIL1 of a record's kind (R430). -/
def RecKind.num : RecKind → Nat
  | .launch => 0 | .graph => 1 | .signal => 2 | .phase => 3

/-- The bytes of [va, va + n) in module memory through the partition's translation (R435). Fuel: pages. -/
def State.engRuns (s : State) (part : Nat) (acc : Access) : Nat → Word → Nat → Option Runs
  | 0, _, n => if n = 0 then some [] else none
  | fuel + 1, va, n =>
    if n = 0 then some []
    else if !canonical va then none
    else
      match State.walk s part (va.toNat % 2 ^ 56) 4 0 (s.getPart part).root.toNat with
      | .error _ => none
      | .ok e =>
        match permit acc e with
        | .error _ => none
        | .ok e =>
          let here := min n (2 ^ e.log - va.toNat % 2 ^ e.log)
          if inWindow (e.phys va) then none
          else
            match State.engRuns s part acc fuel (va + BitVec.ofNat 64 here) (n - here) with
            | none => none
            | some rs => some ((e.phys va, here) :: rs)

/-- The failure's entry in the error log (R435). -/
def State.engFail (s : State) (part : Nat) (k : RecKind) (write : Bool) (va : Word) : State :=
  s.logPart part 8 0 va.toNat (k.num + 256 * write.toNat)

/-- An engine's read of a record at the LLC; none when it fails, which is logged (R435). -/
def State.engRead (s : State) (part : Nat) (k : RecKind) (va : Word) (n : Nat) : Option (List Byte) × State :=
  match s.engRuns part .read (n / 65536 + 2) va n with
  | none => (none, s.engFail part k false va)
  | some rs => (some (rs.flatMap fun r => Memory.getAll s.mem r.1 r.2), s)

/-- An engine's write of a record at the LLC, not performed when it fails (R435). -/
def State.engWrite (s : State) (part : Nat) (k : RecKind) (va : Word) (bs : List Byte) : State :=
  match s.engRuns part .write (bs.length / 65536 + 2) va bs.length with
  | none => s.engFail part k true va
  | some rs => (cutRuns rs bs).foldl (fun s x => s.writeLlc x.1 x.2) s

/-! ### Completion signals (R378) -/

/-- The payload of a NOTIFY (R379). -/
def notifyPayload (ctx count : Nat) (sig level : Nat) (cancelled : Bool) (obj code root : Nat) : List Byte :=
  bytesOf 8 ctx ++ bytesOf 8 count ++ bytesOf 2 sig ++ bytesOf 1 level ++ bytesOf 1 cancelled.toNat ++ bytesOf 4 obj ++
  bytesOf 2 code ++ bytesOf 2 0 ++ bytesOf 4 root

/-- The minor version that a connection has negotiated; 0 while it is not attached (R367, R370). -/
def State.minorOf (s : State) (conn : Nat) : BitVec 8 := BitVec.ofNat 8 ((Sparse.get Conn.reset s.conns conn).minor.getD 0)

/-- The lowest-numbered attached connection. -/
def State.firstConn (s : State) : Option Nat := (s.conns.find? fun c => c.2.minor.isSome).map fun c => c.1

/-- The header of a NOTIFY or a HEARTBEAT, with the minor version of the first attached connection (R367, R423): it answers no command, so that COOKIE and SEQ are 0 (log entry
127). -/
def State.notifyHdr (s : State) (part : Nat) : Hdr :=
  { conn := 0, cookie := 0, seq := 0, part := BitVec.ofNat 4 part, rsv := 0, major := 2, minor := s.minorOf (s.firstConn.getD 0) }

/-- The 16 bytes of a message's header: `resp` is 1 in responses and notifications (R367). -/
def Hdr.message (h : Hdr) (op : BitVec 8) (status : BitVec 16) (resp : Bool) : List Byte :=
  bytesOf 16 (h.cookie.toNat * 2 ^ 64 + h.seq.toNat * 2 ^ 48 + status.toNat * 2 ^ 32 + op.toNat * 2 ^ 24 + h.part.toNat * 2 ^ 20 +
    h.rsv.toNat * 2 ^ 17 + resp.toNat * 2 ^ 16 + h.major.toNat * 256 + h.minor.toNat)

/-- The header that the 16 bytes of a command hold, and its opcode (R367). -/
def hdrOf (conn : Nat) (bs : List Byte) : Hdr × BitVec 8 :=
  let x := natOf bs
  ({ conn := conn, cookie := BitVec.ofNat 64 (bits x 127 64), seq := BitVec.ofNat 16 (bits x 63 48),
     part := BitVec.ofNat 4 (bits x 23 20), rsv := BitVec.ofNat 3 (bits x 19 17), major := BitVec.ofNat 8 (bits x 15 8),
     minor := BitVec.ofNat 8 (bits x 7 0) }, BitVec.ofNat 8 (bits x 31 24))

/-- The bytes of an NCP message that the module sends, header and payload (R367). -/
def Out.ncpBytes : Out → Option (List Byte)
  | .response h op st payload => some (Hdr.message h op st true ++ payload)
  | .notify h _ _ payload _ => some (Hdr.message h 0x80 0 true ++ payload)
  | .heartbeat h payload => some (Hdr.message h 0x81 0 true ++ payload)
  | _ => none

/-- A completion signal moves: COUNT rises, and one NOTIFY is sent if ENABLE is 1 (R378). 0xFFFF names no signal. -/
def State.signal (s : State) (part : Nat) (sig : BitVec 16) (level obj : Nat) (cancelled : Bool) (code : BitVec 16)
    (root nodes : Nat) : State :=
  if sig = 0xFFFF then s
  else
    let va := (s.getPart part).desc.stab + BitVec.ofNat 64 (0x20 * sig.toNat)
    match s.engRead part .signal va 32 with
    | (none, s) => s
    | (some bs, s) =>
      let e := natOf bs
      let n := (bits e 255 192 + 1) % 2 ^ 64
      match s.engRuns part .write 2 (va + 24) 8 with
      | none => s.engFail part .signal true (va + 24)
      | some rs =>
        let s := (cutRuns rs (bytesOf 8 n)).foldl (fun s x => s.writeLlc x.1 x.2) s
        if bits e 0 0 = 1 then
          s.send (.notify (s.notifyHdr part) (BitVec.ofNat 64 (bits e 191 128)) part
            (notifyPayload (bits e 127 64) n sig.toNat level cancelled obj code.toNat root) nodes)
        else s

end Sys2Proof.Machine
end

