-- ==== Sys2Proof/Machine/Unit.lean ====
section
/-! DEFINITION. Units, launches and their ends: what stops a unit (R32, R433), what a launch counts and reports (R30,
R31, R33, R373), and where a late fault goes (R335 to R339). -/

namespace Sys2Proof.Machine

/-! ### The dispatch ring (R335) -/

/-- The entry of a sequence number. -/
def Core.entry (c : Core) (seq : BitVec 16) : DEntry := Sparse.get DEntry.reset c.dring (seq.toNat % 64)

/-- Changes the entry of a sequence number that is in flight. -/
def Core.modEntry (c : Core) (seq : BitVec 16) (f : DEntry → DEntry) : Core :=
  let e := c.entry seq
  if e.st = .inFlight ∧ e.seq = seq then { c with dring := c.dring.set (seq.toNat % 64) (f e) } else c

/-- The entry of an instruction that is withdrawn: FLUSHED, in flight or complete (R433). -/
def Core.withdrawEntry (c : Core) (seq : BitVec 16) : Core :=
  let e := c.entry seq
  if e.seq = seq ∧ (e.st = .inFlight ∨ e.st = .completed) then
    { c with dring := c.dring.set (seq.toNat % 64) { e with st := .faulted, fault := 0x0041 } }
  else c

/-- The instruction ends with STATE 3 and FAULT FLUSHED; its destination lines are no longer owned (R32, R108, R335). -/
def State.flushSeq (s : State) (core : Nat) (seq : BitVec 16) : State :=
  (s.modCore core fun c => c.modEntry seq fun e => { e with st := .faulted, fault := 0x0041 }).releaseLines core seq

/-- An engine-bound instruction has completed (R335); its destination lines are no longer owned (R108). -/
def State.complete (s : State) (core : Nat) (seq : BitVec 16) : State :=
  (s.modCore core fun c => c.modEntry seq fun e => { e with st := .completed }).releaseLines core seq

/-- The queued instruction ends without effect. -/
def State.flushEntry (s : State) (core : Nat) (q : QEntry) : State := if q.sys then s else s.flushSeq core q.seq

/-- Queues with some instructions taken out; what a head had done so far goes with it (R112). -/
def Core.keepQueued (c : Core) (f : QEntry → Bool) : Core :=
  let vq := c.vq.filter f
  let fq := c.fq.filter f
  { c with vq := vq, vload := if vq.head? = c.vq.head? then c.vload else none, ru := c.ru.filter f,
           fq := fq, fwork := if fq.head? = c.fq.head? then c.fwork else none }

/-- The instructions of the core's queues and ring unit that a filter holds leave without effect (R32). -/
def State.dropEntries (s : State) (core : Nat) (f : QEntry → Bool) : State :=
  let c := s.getCore core
  let s := (c.vq ++ c.ru ++ c.fq).foldl (fun s q => if f q then s.flushEntry core q else s) s
  s.modCore core fun c => c.keepQueued fun q => !f q

/-- A context leaves its wait other than by its wake: the engine-bound instruction it waits on (R433), or its request to
a pool's arbiter, is withdrawn. -/
def State.leaveWait (s : State) (core ctx : Nat) : State :=
  let s :=
    match (s.getCtx core ctx).wait with
    | some { seq := some q, .. } =>
      (s.dropEntries core fun e => !e.sys && e.seq == q).modCore core fun c => c.withdrawEntry q
    | some { obj := .pool n, .. } =>
      s.modPool (s.partOf core) n fun p =>
        { p with arb := p.arb.filter fun r => !(r.waits && r.core == core && r.ctx == ctx) }
    | _ => s
  s.modCtx core ctx fun x =>
    { x with wait := none, waited := 0, popped := [], woken := false, waking := false, latch := none,
             barResult := x.barDone.or x.barResult, barDone := none }

/-! ### Leases, claims, bindings -/

/-- The lease goes to the next requesting core, counting on from the last holder (R20). -/
def Grove.grant (g : Grove) : Grove :=
  match g.holder with
  | some _ => g
  | none =>
    let order := [g.last + 1, g.last + 2, g.last + 3, g.last]
    match order.find? fun i => g.requests.getLsbD i.val with
    | some i => { g with holder := some i, used := 0 }
    | none => g

/-- The lease ends; the request stands, and the array goes on at once (R20, R55). -/
def Grove.passOn (g : Grove) : Grove :=
  match g.holder with
  | some h => ({ g with holder := none, used := 0, last := h }).grant
  | none => g

/-- The core withdraws its request, and a lease of it ends and passes on at once (R55, R20). -/
def State.endLease (s : State) (core : Nat) : State :=
  s.modGrove (groveOf core) fun g =>
    let c : Fin 4 := ⟨core % 4, Nat.mod_lt _ (by decide)⟩
    let g := { g with requests := g.requests &&& ~~~(1#4 <<< c.val) }
    if g.holder = some c then g.passOn else g

/-- A claim ends: the run is abandoned and its afrun counts as completed, the stands return to their reset values and
are free (R121). -/
def State.endClaim (s : State) (core : Nat) : State :=
  let f := (s.getCore core).fab
  let s := if f.status = .running then s.complete core f.runSeq else s
  let mine := (s.getDie (dieOf core)).owner.filter fun x => x.2 == core
  let s := s.modDie (dieOf core) fun d =>
    { d with owner := d.owner.filter fun x => !(x.2 == core),
             stands := d.stands.filter fun x => !(mine.any fun y => y.1 == x.1) }
  s.modCore core fun c => { c with fab := Fabric.reset }

/-- A release that gdone has placed stands in the fabric queue (R315 step 4). -/
def Core.releasing (c : Core) : Bool := c.fq.any fun q => q.sys && q.instr == .afcfgRel

/-- The core counts a claim as outstanding or held: from the dispatch of afcfg.claim until its status is written, and from a
status of 0 until afcfg.rel, gdone or a cancel (R292). -/
def Core.claims (c : Core) : Bool :=
  (c.fq.any fun q => match q.instr with | .afcfgClaim _ _ => true | _ => false) || (c.fab.claim != 0 && !c.releasing)

/-- Every binding of the core's contexts ends (R234). -/
def State.unbindAll (s : State) (core : Nat) : State :=
  (upTo 11).foldl (fun s k => s.modCtx core k fun x => { x with chbind := 0 }) s

/-- A recorded arrival that has not been released is withdrawn (R327). -/
def State.withdrawArrivals (s : State) (core : Nat) : State :=
  let ds := (upTo s.k).map fun i => lowDie s.cut (s.partOf core) + i
  ds.foldl (fun s d => s.modDie d fun x =>
    { x with barriers := x.barriers.map fun b =>
        (b.1, { b.2 with arrivals := b.2.arrivals.filter fun a => !(a.core == core) }) }) s

/-- A read or write of the engine-held fields of a record in place, at the LLC (R435). -/
def State.engPatch (s : State) (part : Nat) (k : RecKind) (va : Word) (n : Nat) (f : Nat → Nat) : State :=
  match s.engRuns part .write 2 va n with
  | none => s.engFail part k true va
  | some rs =>
    let old := natOf (rs.flatMap fun r => Memory.getAll s.mem r.1 r.2)
    (cutRuns rs (bytesOf n (f old))).foldl (fun s x => s.writeLlc x.1 x.2) s

/-! ### What a launch counts -/

/-- The address of launch record `i` (R371). -/
def State.launchVa (s : State) (part i : Nat) : Word := (s.getPart part).desc.ltab + BitVec.ofNat 64 (0x200 * i)

/-- The launch engine writes back REMAIN, CANCELLED, FAULTS, FIRST and GEN, bits [383:160] of the header (R373). -/
def State.launchBack (s : State) (part i : Nat) : State :=
  let l := s.getLaunch part i
  s.engPatch part .launch (s.launchVa part i + 20) 28 fun x =>
    setBits (setBits (setBits (setBits (setBits x 47 28 l.gen.toNat) 143 128 l.first.toNat) 159 144 l.faults.toNat)
      191 160 l.cancelled.toNat) 223 192 l.remain.toNat

/-- Events of the graph engine that wait at most (R345). -/
def backlogRoom : Nat := 65536

/-- A report to the graph engine (R65); one that finds the backlog full waits with its agent (R345). -/
def State.report (s : State) (part : Nat) (e : GraphEvent) : State :=
  s.modPart part fun p =>
    if p.backlog.length < backlogRoom ∧ p.overdue.isEmpty then { p with backlog := p.backlog ++ [e] }
    else { p with overdue := p.overdue ++ [e] }

/-- The endpoints that an arming declared are free again. -/
def State.freeEps (s : State) (part i : Nat) : State :=
  s.coreKeys.foldl (fun s c =>
    if s.partOf c = part then
      s.modCore c fun x =>
        { x with eps := x.eps.filter fun e => !(e.2.declared && !e.2.byXchan && e.2.launch == i) }
    else s) s

/-- A unit of the launch ends or is cancelled: REMAIN falls by 1 (R30). The last one makes the launch provisionally
complete, unless it was stopped, and frees its endpoints (R31, R374). -/
def State.unitOver (s : State) (part i core : Nat) (cancelled : Bool) : State :=
  let s := s.modLaunch part i fun l =>
    { l with remain := l.remain - 1, cancelled := if cancelled then l.cancelled + 1 else l.cancelled,
             mask := l.mask &&& ~~~(1#512 <<< s.indexOf core) }
  let l := s.getLaunch part i
  let s :=
    if l.remain = 0 then
      let s := s.freeEps part i
      if l.stopped then s
      else
        let s := s.modLaunch part i fun l => { l with provisional := true }
        if l.bound then s.report part (.provisional l.tag) else s
    else s
  s.launchBack part i

/-- A launch record counts one more fault (R338, R373). -/
def State.countFault (s : State) (part i : Nat) (code : BitVec 16) : State :=
  ((s.modLaunch part i fun l =>
    { l with faults := if l.faults = 0xFFFF then l.faults else l.faults + 1,
             first := if l.first = 0 then code else l.first }).launchBack part i).count part fun t =>
    { t with lfaults := satAdd 32 t.lfaults 1 }

/-- A late fault of a unit that has ended and had no launch goes to the error log (R336, R436). -/
def State.logLate (s : State) (core : Nat) (seq code : BitVec 16) : State :=
  s.logPart (s.partOf core) 9 code.toNat (s.indexOf core) seq.toNat

/-! ### Cancel (R32) -/

/-- A copy that a cancel stops, or removes before it starts, counts as completed with FAULT FLUSHED. -/
def CopyReq.stop (r : CopyReq) : CopyReq :=
  if r.stage = .ended ∨ r.stage = .posting then r else { r with stage := .ended, fault := 0x0041, buf := [] }

/-- Accepted matrix commands of a unit that have not started leave the array; the one in flight completes. What the acceptance
of one has done, such as the flip of ACTIVE by mswap, stands (R32, log entry 139). -/
def State.stopMatrix (s : State) (core unit : Nat) : State :=
  match (s.getGrove (groveOf core)).accepted with
  | [] => s
  | a :: rest =>
    let mine (b : Accepted) : Bool := b.core == core && b.entry.unit == unit
    let s := rest.foldl (fun s b => if mine b then s.flushEntry core b.entry else s) s
    s.modGrove (groveOf core) fun g => { g with accepted := a :: rest.filter fun b => !mine b }

/-- The contexts of a stopped unit: waits are abandoned, the helpers are FREE, and the control context stands at the
cancel entry with TL 0 (R32 steps 1, 7, 8). -/
def State.stopContexts (s : State) (core : Nat) : State :=
  let s := (upTo 11).foldl (fun s k => s.leaveWait core k) s
  let s := (upTo 10).foldl (fun s k => s.modCtx core (k + 1) Ctx.freed) s
  let e := (s.getPart (s.partOf core)).desc.cancel
  s.modCtx core 0 fun x => { x.sequential e with mode := .ready, tl := false, barResult := none, handling := 0 }

/-- A copy that a cancel stops owns no line any longer (R108). -/
def State.stopCopies (s : State) (core unit : Nat) : State :=
  let mine := (s.getCore core).copies.filter fun r => r.unit == unit
  let s := s.modCore core fun c => { c with copies := c.copies.map fun r => if r.unit = unit then r.stop else r }
  mine.foldl (fun s r => s.releaseLines core r.seq) s

/-- A running unit is stopped (R32); its late faults that wait for delivery go to its launch's count (R338). A lease
request or a claim that an earlier unit's gdone is still to end is not the unit's (R121). -/
def State.stopUnit (s : State) (core : Nat) : State :=
  let c := s.getCore core
  match c.unit with
  | none => s
  | some u =>
    let part := s.partOf core
    let s := s.stopContexts core
    let s := s.dropEntries core fun q => q.unit == c.units
    let s := s.stopMatrix core c.units
    let s := (s.stopCopies core c.units).modCore core fun c =>
      { c with unit := none, late := [], flush := false, flushF := false, cancelPend := false }
    let owed := (s.getCore core).vq.any fun q => q.sys && q.unit != c.units && q.instr == .mleaseRel
    let s := if owed then s else s.endLease core
    let s := if c.fab.claim = 0 ∨ (s.getCore core).releasing then s else s.endClaim core
    let s := (s.unbindAll core).withdrawArrivals core
    let s := s.modPart part fun p =>
      { p with
        pools := p.pools.map fun x =>
          (x.1, { x.2 with arb := x.2.arb.map fun r => if r.core = core then { r with live := false } else r })
        groups := p.groups.map fun x =>
          (x.1, { x.2 with pending := x.2.pending.map fun r =>
            if r.core = core ∧ r.unit = c.units then { r with live := false } else r }) }
    match u.launch with
    | none => c.late.foldl (fun s l => s.logLate core l.seq l.code) s
    | some (i, _) =>
      (c.late.foldl (fun s l => s.countFault part i l.code) s).unitOver part i core true

/-- A cancel reaches the core: its unit stops, or, while the core is halted, stops at RESUME (R372). -/
def State.cancelUnit (s : State) (core : Nat) : State :=
  if (s.getCore core).halted then
    s.modCore core fun c =>
      { c with cancelPend := c.unit.isSome, unit := c.unit.map fun u => { u with stopped := true } }
  else s.stopUnit core

/-- The piece by which the launch engine marks a record CANCELLED in its inbox slot (R32, R375). -/
def State.markPiece (s : State) (core slot : Nat) : Piece :=
  let off := 0x48000 + 64 * slot + 0x10
  let b := Memory.get (s.getCore core).port.inbox (64 * slot + 0x10)
  { src := 512, agent := 20, ctx := 0, dst := core, off := off, bytes := [b ||| 0x80], skip := [], engine := false, launch := none }

/-- The tag that a record in a slot holds (R375). -/
def Core.slotTag (c : Core) (slot : Nat) : Word := BitVec.ofNat 64 (natOf (Memory.getAll c.port.inbox (64 * slot + 8) 8))

/-- The slot of the core's inbox that holds an arming's record, neither released nor marked CANCELLED. -/
def Core.slotOf (c : Core) (tag : Word) : Option Nat :=
  ((upTo 64).map fun j => (c.port.head.toNat + j) % 64).find? fun j =>
    c.port.marks.getLsbD j && c.slotTag j == tag && !(Memory.get c.port.inbox (64 * j + 0x10)).getLsbD 7

/-- The unit of a core whose record is not yet released is cancelled at once (R32): a record in the inbox or in a
reserved slot is marked, one that has no slot is dropped. A mark that the port's replay queue holds waits there as a delivery
of stage 3: the port orders it with the irel of the record (R422). -/
def State.cancelRecord (s : State) (part i core : Nat) : State :=
  let mine (d : Delivery) : Bool := d.idx == i && d.core == core
  match (s.getCore core).slotOf (s.getLaunch part i).tag with
  | some j =>
    if s.admits (s.markPiece core j) then (s.perform (s.markPiece core j)).unitOver part i core true
    else
      s.modPart part fun p =>
        { p with held := p.held ++ [{ idx := i, core := core, stage := 3, k := 0,
                                      bytes := Memory.getAll (s.getCore core).port.inbox (64 * j) 64 }] }
  | none =>
    (s.modPart part fun p =>
      { p with held := (p.held.filter fun d => !(mine d && d.stage == 0)).map fun d =>
          if mine d && d.stage == 1 then { d with bytes := d.bytes.set 16 (d.bytes.getD 16 0 ||| 0x80) } else d }).unitOver
      part i core true

/-- A mark that has waited at the port is performed, or finds its record released: then the cancel stops the unit that it has
started, if that still runs (R32, R422). -/
def State.markHeld (s : State) (core : Nat) : Option State :=
  let part := s.partOf core
  match (s.getPart part).held.find? fun d => d.core == core && d.stage == 3 with
  | none => none
  | some d =>
    let tag := BitVec.ofNat 64 (natOf ((d.bytes.drop 8).take 8))
    let gone := s.modPart part fun p => { p with held := p.held.erase d }
    match (s.getCore core).slotOf tag with
    | some j =>
      if s.admits (s.markPiece core j) then some ((gone.perform (s.markPiece core j)).unitOver part d.idx core true) else none
    | none =>
      if (s.getCore core).unit.any fun u => u.launch == some (d.idx, BitVec.ofNat 20 (bits tag.toNat 51 32)) then
        some (gone.cancelUnit core)
      else some gone

/-- A cancel of an arming at launch level or above (R32, R374); a second one has no effect (R33). -/
def State.stopLaunch (s : State) (part i : Nat) : State :=
  let l := s.getLaunch part i
  if l.stopped ∨ l.remain = 0 then s
  else
    let s := s.modLaunch part i fun l => { l with stopped := true }
    if l.held then
      (s.modLaunch part i fun l =>
        { l with held := false, cancelled := l.cancelled + l.remain, remain := 0, mask := 0 }).launchBack part i
    else
      ((upTo s.coresPer).filter fun j => l.mask.getLsbD j).foldl (fun s j =>
        let core := s.coreAt part j
        match (s.getCore core).unit with
        | some { launch := some (i', _), .. } =>
          if i' = i then s.cancelUnit core else s.cancelRecord part i core
        | _ => s.cancelRecord part i core) s

/-! ### Late faults (R335 to R339) -/

/-- The faults that report an instruction whose effect stands, and TABLE_FORMAT, whose instruction has consumed its slot
(R285): they flush nothing (R339, log entry 34). -/
def keepsEffect (code : BitVec 16) : Bool := code == 0x0040 || code == 0x0033 || code == 0x0034 || code == 0x0024

/-- A fault is reported to a launch: it counts, it cancels the launch unless that is stopped already, and it reaches the
graph node, which may find it stale (R65, R336 STOP, R338). -/
def State.reportLaunch (s : State) (core : Nat) (l : LaunchId) (seq code : BitVec 16) : State :=
  match l with
  | none => s.logLate core seq code
  | some (i, g) =>
    let part := s.partOf core
    let r := s.getLaunch part i
    if r.gen = g then
      let s := s.countFault part i code
      let s := if r.stopped then s else (s.stopLaunch part i).modLaunch part i fun l => { l with stopped := true }
      if r.bound then s.report part (.fault r.tag code) else s
    else
      s.report part (.fault (BitVec.ofNat 64 (setBits r.tag.toNat 51 32 g.toNat)) code)

/-- Later instructions of the unit in the queue are flushed (R339). -/
def State.flushBehind (s : State) (core : Nat) (vector : Bool) (unit : Nat) (seq : BitVec 16) : State :=
  let late (q : QEntry) : Bool := q.unit == unit && !q.sys && decide ((q.seq - seq).toNat < 0x8000)
  let c := s.getCore core
  let s := ((if vector then c.vq else c.fq).filter late).foldl (fun s q => s.flushEntry core q) s
  s.modCore core fun c =>
    let k := c.keepQueued fun q => !late q
    if vector then { c with vq := k.vq, vload := k.vload } else { c with fq := k.fq, fwork := k.fwork }

/-- The queue that an instruction's base word goes to: true vector, false fabric, none copy engine and ring unit. -/
def queueOf (word : BitVec 16) : Option Bool :=
  let m := word.toNat / 4096
  if m = 13 then some false else if m = 12 then none else some true

/-- A late fault reaches the core (R336): it is recorded in its entry, flushes the queue behind it, and goes to the
control context or to the launch. -/
def State.lateFault (s : State) (core : Nat) (seq code : BitVec 16) (info faddr : Word) : State :=
  let c := s.getCore core
  let e := c.entry seq
  if e.st ≠ .inFlight ∨ e.seq ≠ seq then s
  else
    let s := (s.modCore core fun c => c.modEntry seq fun e => { e with st := .faulted, fault := code }).releaseLines core
      seq
    let now := decide (e.unit = c.units) && (e.inUnit == c.unit.isSome)
    let s :=
      match queueOf e.word, keepsEffect code with
      | some v, false =>
        let s := s.flushBehind core v e.unit seq
        if now then s.modCore core fun c => if v then { c with flush := true } else { c with flushF := true } else s
      | _, _ => s
    let pend : LatePend := { seq := seq, code := code, info := info, faddr := faddr, addr := e.addr,
                             queue := if keepsEffect code then none else queueOf e.word }
    if now then
      match c.unit with
      | none => s.modCore core fun c => { c with late := c.late ++ [pend] }
      | some u =>
        let gone :=
          match u.launch with
          | none => u.stopped
          | some (i, _) => u.stopped || (s.getLaunch (s.partOf core) i).stopped
        if u.trap && !gone then s.modCore core fun c => { c with late := c.late ++ [pend] }
        else s.reportLaunch core u.launch seq code
    else s.reportLaunch core e.launch seq code

/-- The flag-fault mask of the launch that an entry decides by (R340). -/
def State.flagMaskOf (s : State) (core : Nat) (l : LaunchId) : Word :=
  match l with
  | none => 0
  | some (i, _) => (s.getLaunch (s.partOf core) i).flagMask

/-- An engine-bound instruction completes with its flags: they are ORed into FSTAT, and a masked one raises FLAGGED
(R171, R340). -/
def State.completeFlags (s : State) (core : Nat) (seq : BitVec 16) (fl : BitVec 11) : State :=
  let l := ((s.getCore core).entry seq).launch
  let s := s.modCore core fun c => { c with fstat := c.fstat ||| fl }
  let m := s.flagMaskOf core l &&& fl.setWidth 64
  if m = 0 then s.complete core seq else s.lateFault core seq 0x0040 m 0

end Sys2Proof.Machine
end

