-- ==== Sys2Proof/Machine/Ops.lean ====
section
/-! DEFINITION. The named operations of a context: waiting (R41), memory and window accesses (R211 to R213, R241),
taking an exception (R328 to R333) and returning from one (R311). -/

namespace Sys2Proof

namespace Machine

/-! ### The acting context -/

/-- The same module with another context acting. -/
def State.on (s : State) (core ctx : Nat) : State := { s with core := core, ctx := ctx }
/-- The acting core's die. -/
def State.die (s : State) : Nat := dieOf s.core
/-- The acting core's partition. -/
def State.part (s : State) : Nat := s.partOf s.core
/-- The acting core's partition's state. -/
def State.mine (s : State) : Part := s.getPart s.part

/-- The context becomes WAITING on an object (R41). An engine-bound instruction is named by its sequence number and keeps
what it is to pop at its completion (R433); any other issues again and keeps the registers it reads as they are (R93). -/
def State.waitOn (s : State) (obj : WaitObj) (seq : Option (BitVec 16)) : State :=
  s.modCx fun x =>
    { x with mode := .waiting, wait := some { obj := obj, seq := seq }, waited := 0, woken := false, waking := false,
             popped := if seq.isSome then x.popped else [],
             latch := if seq.isSome then none else x.latch.or (some x.regs) }

/-- A register that an earlier instruction of the context is still to write (R238, R266, R298). -/
def State.busy (s : State) (r : SReg) : Bool :=
  let c := s.me
  r != 0 &&
  ((c.vq ++ c.ru ++ c.fq).any (fun q => q.ctx == s.ctx && q.instr.lateDests.contains r) ||
   s.mine.pools.any fun p => p.2.arb.any fun a =>
     a.live && a.core == s.core && a.ctx == s.ctx && (a.d == r || a.a == r))

/-- The register is bound to a receive endpoint that holds no word (R41, R50). -/
def State.starved (s : State) (r : SReg) : Bool :=
  let e := s.getEp s.core (s.cx.boundEp r.toNat)
  s.isBound r && !e.send && e.peek.isNone

/-- The register is bound to a send endpoint that holds no grant, or whose message cannot leave (R41, R49, R398). -/
def State.ungranted (s : State) (r : SReg) : Bool :=
  let e := s.getEp s.core (s.cx.boundEp r.toNat)
  s.isBound r && e.send && (e.grants == 0 || !s.linkUp e)

/-- What follows once each bound destination holds a grant; till then the context waits for one (R41, R49). -/
def State.granted (s : State) (dests : List SReg) (k : State → State) : State :=
  match dests.find? s.ungranted with
  | some r => s.waitOn (.send (s.cx.boundEp r.toNat)) none
  | none => k s

/-- An instruction begins (R211): it stalls while a register it names is still to be written, waits for a word of each
bound source, and pops each bound endpoint once when it retires (R50). -/
def State.start (s : State) (srcs dests : List SReg) (k : State → State) : State :=
  if (srcs ++ dests).any s.busy then s
  else
    match srcs.find? s.starved with
    | some r => s.waitOn (.receive (s.cx.boundEp r.toNat)) none
    | none =>
      let eps := ((srcs.filter fun r => s.isBound r && !(s.getEp s.core (s.cx.boundEp r.toNat)).send).map
        fun r => s.cx.boundEp r.toNat).eraseDups
      k (s.modCx fun x => { x with popped := eps })

/-- The start of an instruction that makes no check of memory: a grant for each bound destination is its last wait. -/
def State.begin (s : State) (srcs dests : List SReg) (k : State → State) : State :=
  s.start srcs dests fun s => s.granted dests k

/-! ### Stores of a context (R99, R112) -/

/-- A write of the acting context to a window: performed at issue in its own, sent as pieces to another (R112). -/
def State.winStore (s : State) (pa : Nat) (bs : List Byte) : State :=
  let ps := piecesOf s.core (BitVec.ofNat 5 s.ctx) s.ctx false pa bs
  if winCore pa = s.core then s.performAll ps else { s with pieces := s.pieces ++ ps }

/-- Stores of the acting context: memory bytes enter the store buffer (R99), window bytes go to the port. -/
def State.storeRuns (s : State) (runs : Runs) (bs : List Byte) : State :=
  (cutRuns runs bs).foldl (fun s x =>
    if inWindow x.1 then s.winStore x.1 x.2
    else s.modMe fun c => { c with sb := c.sb ++ [{ ctx := s.ctx, pa := x.1, bytes := x.2 }] }) s

/-! ### Taking an exception (R328 to R333) -/

/-- What a trap record says (R330). -/
structure TrapInfo where
  cls   : Nat
  info  : Word
  faddr : Word
  seq   : BitVec 16
  code  : BitVec 16
  more  : Bool
  fault : BitVec 16
  iaddr : Word
  deriving DecidableEq, Repr

/-- The 64 bytes of a trap record (R330). -/
def TrapInfo.bytes (t : TrapInfo) (time : Word) : List Byte :=
  bytesOf 8 t.iaddr.toNat ++
  bytesOf 8 (t.fault.toNat + t.more.toNat * 2 ^ 16 + t.cls * 2 ^ 24 + t.code.toNat * 2 ^ 32 + t.seq.toNat * 2 ^ 48) ++
  bytesOf 8 t.faddr.toNat ++ bytesOf 8 t.info.toNat ++ bytesOf 8 time.toNat ++ bytesOf 24 0

/-- The address of the acting context's trap record (R330). -/
def State.recordVa (s : State) : Word := s.mine.desc.trb + BitVec.ofNat 64 (0x40 * (11 * s.indexOf s.core + s.ctx))

/-- The checks of the record's stores (R329 step 2). -/
def State.recordAccess (s : State) : Except AFault (Runs × State) := s.access s.core .write s.recordVa 64

/-- A double trap (R333): the record when it can be written, the error log, and the unit stopped as by a launch-level
cancel with the fault DOUBLE_TRAP. `c1` made it double, `c2` was being handled or entered. -/
def State.doubleTrap (s : State) (t : TrapInfo) (c1 c2 : BitVec 16) : State :=
  let codes := c1.toNat + 65536 * c2.toNat
  let s :=
    match s.recordAccess with
    | .error _ => s
    | .ok (rs, s) =>
      s.storeRuns rs
        ({ t with info := BitVec.ofNat 64 codes, seq := 0, more := false, fault := 0x0042 }.bytes s.time)
  let s := s.logPart s.part 7 0x0042 (s.indexOf s.core + 512 * s.ctx) codes
  match s.me.unit with
  | none => s.stopContexts s.core
  | some u =>
    let s := s.reportLaunch s.core u.launch 0 0x0042
    if s.me.unit.isSome then s.cancelUnit s.core else s

/-- An engine owns a line of the record, so that trap entry waits (R108). -/
def State.recordOwned (s : State) : Bool :=
  match s.recordAccess with
  | .ok (rs, _) => s.ownedIn s.die rs
  | .error _ => false

/-- Trap entry of the acting context (R329): the chain is saved, the record is stored, TL becomes 1 and the chain
stands at the class's entry. A record that cannot be written makes it a double trap, whose address is the one that could
not be stored to (R330, R333). -/
def State.trapEntry (s : State) (t : TrapInfo) : State :=
  let s := (s.leaveWait s.core s.ctx).modCx Ctx.saveChain
  match s.recordAccess with
  | .error f => s.doubleTrap { t with faddr := f.addr } f.code t.fault
  | .ok (rs, s) =>
    let s := s.storeRuns rs (t.bytes s.time)
    let entry := s.mine.desc.tvb + BitVec.ofNat 64 (0x40 * t.cls)
    s.modCx fun x => { x.sequential entry with tl := true, mode := .ready, handling := t.fault }

/-- A precise fault of the instruction at PC (class FAULT); at TL 1 it is a double trap (R329, R333). -/
def State.takeFault (s : State) (code : BitVec 16) (info faddr : Word) : State :=
  let s := s.modCx fun x => { x with popped := [] }
  let t : TrapInfo :=
    { cls := 0, info := info, faddr := faddr, seq := 0, code := 0, more := false, fault := code, iaddr := s.cx.pc }
  if s.recordOwned then s else if s.cx.tl then s.doubleTrap t code s.cx.handling else s.trapEntry t

/-- A precise fault without detail. -/
def State.fault (s : State) (code : BitVec 16) : State := s.takeFault code 0 0

/-- ILLEGAL (R193). -/
def State.illegal (s : State) : State := s.fault 0x0001

/-- The trap instruction: its step completes without a transfer, then class TRAP is entered with the code (R310). -/
def State.takeTrap (s : State) (code : BitVec 16) : State :=
  let t : TrapInfo :=
    { cls := 1, info := 0, faddr := 0, seq := 0, code := code, more := false, fault := 0, iaddr := s.cx.pc }
  if s.recordOwned then s
  else if s.cx.tl then s.doubleTrap t 0 s.cx.handling
  else (s.modCx fun x => x.advance.settled).trapEntry t

/-- eret (R311): the chain is restored from the X registers and TL becomes 0. -/
def State.eret (s : State) : State :=
  let x := s.cx
  let odd (w : Word) : Bool := bitAt w 0
  if x.sl0 then s.illegal
  else if bitAt (x.xnul.setWidth 64) 4 then
    if odd x.xpc then s.takeFault 0x0003 0 x.xpc
    else s.modCx fun x => { (x.sequential x.xpc).settled with tl := false, handling := 0 }
  else if odd x.xpc then s.takeFault 0x0003 0 x.xpc
  else if odd x.xnpc then s.takeFault 0x0003 0 x.xnpc
  else if odd x.xnnpc then s.takeFault 0x0003 0 x.xnnpc
  else
    s.modCx fun x =>
      { x.settled with
        pc := x.xpc, npc := x.xnpc, nnpc := x.xnnpc, nul0 := x.xnul.getLsbD 0, nul1 := x.xnul.getLsbD 1,
        sl0 := x.xnul.getLsbD 2, sl1 := x.xnul.getLsbD 3, fresh := false, tl := false, handling := 0 }

/-- The control context can take a LATE or TIMER now: TL is 0, the core runs, and it stands READY or WAITING (R331). -/
def Core.deliverable (c : Core) : Bool :=
  let x := c.getCtx 0
  !x.tl && !c.halted && (x.mode == .ready || x.mode == .waiting)

/-- The pending late fault of the lowest sequence number, counted from the next one to be given (R337). -/
def Core.firstLate (c : Core) : Option LatePend :=
  c.late.foldl (fun acc l =>
    match acc with
    | none => some l
    | some m => if (c.seq - m.seq).toNat < (c.seq - l.seq).toNat then some l else some m) none

/-- LATE trap entry (R331, R337); the flush that the fault began ends (R339). -/
def State.lateEntry (s : State) (core : Nat) : State :=
  let c := s.getCore core
  match c.firstLate with
  | none => s
  | some l =>
    if !c.deliverable || (s.on core 0).recordOwned then s
    else
      let rest := c.late.filter fun x => !(x.seq == l.seq)
      let ends (v : Bool) : Bool := l.queue == some v && !(rest.any fun x => x.queue == some v)
      let s := s.modCore core fun c =>
        { c with late := rest, flush := c.flush && !ends true, flushF := c.flushF && !ends false }
      (s.on core 0).trapEntry
        { cls := 2, info := l.info, faddr := l.faddr, seq := l.seq, code := 0, more := !rest.isEmpty, fault := l.code,
          iaddr := l.addr }

/-- The context waits in a barrier after its arrival is recorded (R331). -/
def Ctx.inBarrier (x : Ctx) : Bool :=
  match x.wait with
  | some { obj := .barrier _, .. } => true
  | _ => false

/-- TIMER trap entry (R331, R332): no LATE is pending, and the context does not wait for a barrier's release. -/
def State.timerEntry (s : State) (core : Nat) : State :=
  let c := s.getCore core
  let x := c.getCtx 0
  if x.timerPend && c.deliverable && c.late.isEmpty && !x.inBarrier && !(s.on core 0).recordOwned then
    ((s.modCtx core 0 fun x => { x with timerPend := false }).on core 0).trapEntry
      { cls := 3, info := 0, faddr := 0, seq := 0, code := 0, more := false, fault := 0, iaddr := 0 }
  else s

/-- A LATE or TIMER is to be taken before the context's next step, wake or timeout (R331). -/
def State.trapDue (s : State) (core ctx : Nat) : Bool :=
  let c := s.getCore core
  let x := c.getCtx 0
  ctx == 0 && c.deliverable && (!c.late.isEmpty || (x.timerPend && !x.inBarrier))

/-! ### Order against the vector queue and the store buffer (R107, R241) -/

/-- The bytes that a vector memory instruction names, as far as they are known before it executes (R246 to R248):
start and length, or none for the indexed forms. -/
def QEntry.span (q : QEntry) : Option (Option (Word × Nat)) :=
  match q.instr with
  | .vldW _ _ _ imm | .vstW _ _ _ imm => some (some (q.a + imm * 4, 512))
  | .vldD _ _ _ imm | .vstD _ _ _ imm => some (some (q.a + imm * 8, 512))
  | .kld _ _ | .kst _ _ => some (some (q.a, 16))
  | .vldxW _ _ _ _ | .vstxW _ _ _ _ => some none
  | _ => none

/-- The instruction is a vector store (R241). -/
def QEntry.isStore (q : QEntry) : Bool :=
  match q.instr with
  | .vstW _ _ _ _ | .vstD _ _ _ _ | .vstxW _ _ _ _ | .kst _ _ => true
  | _ => false

/-- Two byte ranges overlap. -/
def overlaps (a : Word) (n : Nat) (b : Word) (m : Nat) : Bool :=
  decide ((b - a).toNat < n) || decide ((a - b).toNat < m)

/-- An earlier vector access of the context, not yet performed, may overlap the bytes (R241 rule 4). -/
def State.vecBusy (s : State) (va : Word) (n : Nat) : Bool :=
  s.me.vq.any fun q =>
    q.ctx == s.ctx &&
    match q.span with
    | some none => true
    | some (some (a, m)) => overlaps a m va n
    | none => false

/-- A context's store may not leave the store buffer while an earlier vector store of it is not performed (R241
rule 2). -/
def Core.storeBlocked (c : Core) (ctx : Nat) : Bool := c.vq.any fun q => q.ctx == ctx && q.isStore

/-- A buffered store has to wait in the buffer: for a vector store before it, for a line that an engine owns, or for a piece
of the core that a replay queue holds (R108, R241, R422). -/
def State.stuck (s : State) (core : Nat) (e : SbEntry) : Bool :=
  (s.getCore core).storeBlocked e.ctx || s.ownedIn (dieOf core) [(e.pa, e.bytes.length)] || s.heldBack core Piece.byCtx

/-- The head of the store buffer may leave it. -/
def State.mayDrain (s : State) (core : Nat) : Bool :=
  match (s.getCore core).sb with
  | [] => false
  | e :: _ => !s.stuck core e

/-- Every store of the context, and what stands before it in the buffer, may leave now. -/
def State.drainable (s : State) (core ctx : Nat) : Bool :=
  let sb := (s.getCore core).sb
  (sb.take (lastOwn sb ctx)).all fun e => !s.stuck core e

/-- The pieces of a core's contexts on their way to a port have arrived, as far as the port admits them (R112). -/
def State.deliverTo (s : State) (dst : Nat) : State :=
  (upTo (s.pieces.length)).foldl (fun s _ => s.arrive dst s.core) s

/-- A maintenance operation can reach its end: the buffered stores that it follows may leave the buffer. A vector store that
is still queued is no buffered store, and nothing has it performed first (R104, log entry 128). -/
def State.cmoReady (s : State) (core : Nat) (j : CmoJob) : Bool :=
  let c := s.getCore core
  (c.sb.take (j.mark - c.sbOut)).all fun e => !s.stuck core e

/-- The oldest maintenance operation of the core reaches its end, if it can. -/
def State.cmoStep (s : State) (core : Nat) : State :=
  match (s.getCore core).cmos with
  | [] => s
  | j :: _ =>
    if s.cmoReady core j then (s.cmoDone core j).modCore core fun c => { c with cmos := c.cmos.drop 1 } else s

/-- Every maintenance operation of the core reaches its end, as far as they can. -/
def State.cmoAll (s : State) (core : Nat) : State :=
  (upTo (s.getCore core).cmos.length).foldl (fun s _ => s.cmoStep core) s

/-- Every maintenance operation of the core reaches its end, the stores that it follows with it: a gang switch drains both
(R233, R343). -/
def State.cmoDrain (s : State) (core : Nat) : State :=
  ((s.getCore core).cmos.foldl (fun s j => s.cmoDone core j) s).modCore core fun c => { c with cmos := [] }

/-! ### Fences (R103, R232) -/

/-- No earlier read of the context is outstanding: vector loads, event-queue reads and takes (R103 class r, R241). -/
def State.readsDone (s : State) : Bool :=
  let c := s.me
  !(c.vq.any fun q => q.ctx == s.ctx && q.span.isSome && !q.isStore) &&
  !(c.ru.any fun q => q.ctx == s.ctx && match q.instr with | .evwait _ _ | .evtry _ _ => true | _ => false) &&
  !(s.mine.pools.any fun p => p.2.arb.any fun a => a.live && a.core == s.core && a.ctx == s.ctx)

/-- A core lies within the scope of the acting core (R103). -/
def State.inScope (s : State) (scope : Scope) (core : Nat) : Bool :=
  match scope with
  | .c => core == s.core
  | .g => groveOf core == groveOf s.core
  | .d => dieOf core == s.die
  | .v | .y => true

end Machine

/-- The scope reaches beyond the die (R103). -/
def Scope.wide : Scope → Bool
  | .v | .y => true
  | _ => false

namespace Machine

/-- A put of the context has not been linearized (R103, R321). -/
def State.putPending (s : State) : Bool :=
  s.mine.pools.any fun p => p.2.shards.any fun x => x.2.pend.any fun q => q.core == s.core && q.ctx == s.ctx

/-- Every line operation of the context's maintenance instructions reaches its end (R104). -/
def State.cmoCtx (s : State) : State :=
  let js := s.me.cmos.filter fun j => j.ctx == s.ctx
  (js.foldl (fun s j => s.cmoDone s.core j) s).modMe fun c => { c with cmos := c.cmos.filter fun j => !(j.ctx == s.ctx) }

/-- The context's earlier writes are made complete for a scope, or none while they cannot be yet: its stores leave the
buffer, its maintenance reaches its level, its window pieces arrive (R103 class w). -/
def State.writesDone (s : State) (scope : Scope) : Option State :=
  if s.me.storeBlocked s.ctx || !s.drainable s.core s.ctx then none
  else
    let s := (s.drainCtx s.core s.ctx).cmoCtx
    let s := (s.pieces.filter fun p => p.src == s.core && s.inScope scope p.dst).foldl (fun s p => s.arrive p.dst p.src) s
    if !(s.noPieces s.core fun p => p.ctx == s.ctx && s.inScope scope p.dst) then none
    else if scope.wide && s.putPending then none
    else some s

/-- A peer module has not acknowledged every send of the context (R103 scope .y, R397). -/
def State.unacked (s : State) : Bool := s.me.eps.any fun e => e.2.unacked.getLsbD s.ctx

/-- What comes after a fence of the classes `r` and `w`: the context waits until the earlier accesses are complete for the
scope, those over the links acknowledged (R103, R232). -/
def State.fenced (s : State) (r w : Bool) (scope : Scope) (k : State → State) : State :=
  let wait := s.waitOn (.fence r w scope) none
  if r && !s.readsDone then wait
  else if w then
    match s.writesDone scope with
    | none => wait
    | some s' => if scope = .y ∧ s'.unacked then s'.waitOn (.fence r w scope) none else k s'
  else k s

/-- The earlier accesses of the classes are complete for the scope, or can be made so now (R103). -/
def State.fenceDone (s : State) (r w : Bool) (scope : Scope) : Bool :=
  (!r || s.readsDone) &&
  (!w || match s.writesDone scope with
    | none => false
    | some s' => !(scope == .y && s'.unacked))

/-! ### Loads and stores of the scalar pipeline (R211 to R213) -/

/-- An access of a context to lines that an earlier invalidation of its own covers follows the invalidation; none while
that cannot reach its end yet (R233). `seq` is the access's sequence number, or the core's next one. The spec gives no order
between two maintenance operations of a context on one line: an invalidation that goes first here may pass an earlier clean
(log entry 140). -/
def State.settleInv (s : State) (core ctx : Nat) (seq : BitVec 16) (runs : Runs) : Option State :=
  let ls := runs.flatMap fun r => if inWindow r.1 then [] else linesOf r.1 r.2
  let hit (j : CmoJob) : Bool :=
    j.ctx == ctx && j.kind != .clean && decide ((seq - j.seq).toNat < 0x8000) && j.ranges.any fun r => (linesOf r.1 r.2).any ls.contains
  let js := (s.getCore core).cmos.filter hit
  if js.all (s.cmoReady core) then
    some ((js.foldl (fun s j => s.cmoDone core j) s).modCore core fun c => { c with cmos := c.cmos.filter fun j => !hit j })
  else none

/-- The checks of R212 after alignment, then the waits for a grant of a bound destination, of R108 and R241, then the
access. A window access of another core waits for the core's own pieces on their way there; one to registers or tiles
for R94 and R95. -/
def State.gate (s : State) (acc : Access) (va : Word) (n : Nat) (dests : List SReg) (k : State → Runs → State) : State :=
  match s.access s.core acc va n with
  | .error f => s.takeFault f.code f.info f.addr
  | .ok (rs, s') =>
    s'.granted dests fun s' =>
      if s'.ownedIn s'.die rs then s'.waitOn (.lines rs) none
      else if s'.vecBusy va n then s
      else
        match rs with
        | (p, _) :: _ =>
          if inWindow p then
            let s'' := s'.deliverTo (winCore p)
            if ((acc = .write) ∧ winCore p ≠ s.core) ∨
              (s''.winReady (winCore p) (winOff p) n ∧ s''.noPieces s.core (fun q => q.dst == winCore p)) then
              k s'' rs
            else s
          else
            match s'.settleInv s'.core s'.ctx s'.me.seq rs with
            | some t => k t rs
            | none => s
        | [] => k s' rs

/-- The bytes that a load of the acting context returns: its own buffered stores first, then the die's copy, or the
window (R99, R93). -/
def State.loadRuns (s : State) (runs : Runs) : List Byte :=
  runs.flatMap fun r => (upTo r.2).map fun i =>
    if inWindow (r.1 + i) then s.winSeen (r.1 + i) else s.loadByte s.core s.ctx (r.1 + i)

/-- The acting core reads runs: their pieces at a port take arrival numbers, and its L1 holds their lines (R101, R113). -/
def State.readIn (s : State) (rs : Runs) : State := (s.readRuns s.core rs).holdRuns s.core rs

/-- A load of `n` bytes into a register: the L1 holds each line, and `k` takes the value (R101, R218). -/
def State.load (s : State) (va : Word) (n : Nat) (d : SReg) (k : State → Nat → State) : State :=
  s.gate .read va n [d] fun s rs => let s := s.readIn rs; k s (natOf (s.loadRuns rs))

/-- A store of `n` bytes, after which the instruction retires (R218). -/
def State.store (s : State) (va : Word) (n : Nat) (v : Word) : State :=
  s.gate .write va n [] fun s rs => (s.storeRuns rs (bytesOf n v.toNat)).retire

/-- Flags of a scalar instruction are ORed into FSTAT as it retires (R171). -/
def State.orFlags (s : State) (f : BitVec 11) : State := s.modMe fun c => { c with fstat := c.fstat ||| f }

end Machine

end Sys2Proof
end

