-- ==== Sys2Proof/Machine/Alu.lean ====
section
/-! DEFINITION. The integer instructions of majors 0x0, 0x1 and 0x5 (R214 to R217). None sets a flag or faults. -/

namespace Sys2Proof.Machine

/-! ### What they compute -/

/-- sext(v, 32) of R165. -/
def sext32 (v : Word) : Word := (v.setWidth 32).signExtend 64
/-- A shift amount of 6 bits. -/
def sh6 (y : Word) : Nat := y.toNat % 64
/-- A shift amount of 5 bits. -/
def sh5 (y : Word) : Nat := y.toNat % 32
/-- The high half of the signed product (R214). -/
def mulHigh (x y : Word) : Word := BitVec.ofInt 64 ((x.toInt * y.toInt).fdiv (2 ^ 64))
/-- The high half of the unsigned product (R214). -/
def mulHighU (x y : Word) : Word := BitVec.ofNat 64 (x.toNat * y.toNat / 2 ^ 64)
/-- Signed division (R215). -/
def divS (x y : Word) : Word := if y = 0 then ones64 else BitVec.ofInt 64 (x.toInt.tdiv y.toInt)
/-- Unsigned division (R215). -/
def divU (x y : Word) : Word := if y = 0 then ones64 else BitVec.ofNat 64 (x.toNat / y.toNat)
/-- Signed remainder, with the sign of the dividend (R215). -/
def remS (x y : Word) : Word := if y = 0 then x else BitVec.ofInt 64 (x.toInt.tmod y.toInt)
/-- Unsigned remainder (R215). -/
def remU (x y : Word) : Word := if y = 0 then x else BitVec.ofNat 64 (x.toNat % y.toNat)
/-- 1 when the comparison holds, else 0 (R217). -/
def truth (b : Bool) : Word := if b then 1 else 0
/-- Count of leading zero bits, 0 to 64. -/
def leadingZeros (x : Word) : Word := if x = 0 then 64 else BitVec.ofNat 64 (63 - x.toNat.log2)
/-- Count of trailing zero bits, 0 to 64. -/
def trailingZeros (x : Word) : Word := BitVec.ofNat 64 (((upTo 64).find? fun i => bitAt x i).getD 64)
/-- Count of one bits. -/
def oneBits (x : Word) : Word := BitVec.ofNat 64 ((upTo 64).filter fun i => bitAt x i).length
/-- The eight bytes in reverse order. -/
def reverseBytes (x : Word) : Word := BitVec.ofNat 64 (natOf (bytesOf 8 x.toNat).reverse)

/-- An instruction of two sources and one result. -/
def State.binary (s : State) (d a b : SReg) (f : Word → Word → Word) : Result :=
  .next (s.begin [a, b] [d] fun s => s.result d (f (s.rd a) (s.rd b)))
/-- An instruction of one source and one result. -/
def State.unary (s : State) (d a : SReg) (f : Word → Word) : Result :=
  .next (s.begin [a] [d] fun s => s.result d (f (s.rd a)))
/-- An instruction of three sources and one result; C is never bound (R141, R50). -/
def State.ternary (s : State) (d a b : SReg) (c : CReg) (f : Word → Word → Word → Word) : Result :=
  .next (s.begin [a, b, c.setWidth 5] [d] fun s => s.result d (f (s.rd a) (s.rd b) (s.rdC c)))

/-! ### Registers, major 0x0 (R214, R215) -/

/-- add (R214). -/
def execAdd (d a b : SReg) (s : State) : Result := s.binary d a b fun x y => x + y

/-- sub (R214). -/
def execSub (d a b : SReg) (s : State) : Result := s.binary d a b fun x y => x - y

/-- and (R214). -/
def execAnd (d a b : SReg) (s : State) : Result := s.binary d a b fun x y => x &&& y

/-- or (R214). -/
def execOr (d a b : SReg) (s : State) : Result := s.binary d a b fun x y => x ||| y

/-- xor (R214). -/
def execXor (d a b : SReg) (s : State) : Result := s.binary d a b fun x y => x ^^^ y

/-- sll (R214). -/
def execSll (d a b : SReg) (s : State) : Result := s.binary d a b fun x y => x <<< sh6 y

/-- srl (R214). -/
def execSrl (d a b : SReg) (s : State) : Result := s.binary d a b fun x y => x >>> sh6 y

/-- sra (R214). -/
def execSra (d a b : SReg) (s : State) : Result := s.binary d a b fun x y => x.sshiftRight (sh6 y)

/-- mul (R214). -/
def execMul (d a b : SReg) (s : State) : Result := s.binary d a b fun x y => x * y

/-- mulh (R214). -/
def execMulh (d a b : SReg) (s : State) : Result := s.binary d a b fun x y => mulHigh x y

/-- mulhu (R214). -/
def execMulhu (d a b : SReg) (s : State) : Result := s.binary d a b fun x y => mulHighU x y

/-- div (R215). -/
def execDiv (d a b : SReg) (s : State) : Result := s.binary d a b divS

/-- divu (R215). -/
def execDivu (d a b : SReg) (s : State) : Result := s.binary d a b divU

/-- rem (R215). -/
def execRem (d a b : SReg) (s : State) : Result := s.binary d a b remS

/-- remu (R215). -/
def execRemu (d a b : SReg) (s : State) : Result := s.binary d a b remU

/-- addw (R214). -/
def execAddw (d a b : SReg) (s : State) : Result := s.binary d a b fun x y => sext32 (x + y)

/-- subw (R214). -/
def execSubw (d a b : SReg) (s : State) : Result := s.binary d a b fun x y => sext32 (x - y)

/-- sllw (R214). -/
def execSllw (d a b : SReg) (s : State) : Result := s.binary d a b fun x y => sext32 (x <<< sh5 y)

/-- srlw (R214). -/
def execSrlw (d a b : SReg) (s : State) : Result := s.binary d a b fun x y => ((x.setWidth 32) >>> sh5 y).signExtend 64

/-- sraw (R214). -/
def execSraw (d a b : SReg) (s : State) : Result := s.binary d a b fun x y => ((x.setWidth 32).sshiftRight (sh5 y)).signExtend 64

/-- mulw (R214). -/
def execMulw (d a b : SReg) (s : State) : Result := s.binary d a b fun x y => sext32 (x * y)

/-- madd (R214). -/
def execMadd (d a b : SReg) (c : CReg) (s : State) : Result := s.ternary d a b c fun x y z => x * y + z

/-! ### Immediates, major 0x1 (R216) -/

/-- addi (R216). -/
def execAddi (d a : SReg) (imm : Word) (s : State) : Result := s.unary d a fun x => x + imm

/-- andi (R216). -/
def execAndi (d a : SReg) (imm : Word) (s : State) : Result := s.unary d a fun x => x &&& imm

/-- ori (R216). -/
def execOri (d a : SReg) (imm : Word) (s : State) : Result := s.unary d a fun x => x ||| imm

/-- xori (R216). -/
def execXori (d a : SReg) (imm : Word) (s : State) : Result := s.unary d a fun x => x ^^^ imm

/-- slli (R216). -/
def execSlli (d a : SReg) (imm : Word) (s : State) : Result := s.unary d a fun x => x <<< sh6 imm

/-- srli (R216). -/
def execSrli (d a : SReg) (imm : Word) (s : State) : Result := s.unary d a fun x => x >>> sh6 imm

/-- srai (R216). -/
def execSrai (d a : SReg) (imm : Word) (s : State) : Result := s.unary d a fun x => x.sshiftRight (sh6 imm)

/-- muli (R216). -/
def execMuli (d a : SReg) (imm : Word) (s : State) : Result := s.unary d a fun x => x * imm

/-! ### Compare, select and bits, major 0x5 (R217) -/

/-- slt (R217). -/
def execSlt (d a b : SReg) (s : State) : Result := s.binary d a b fun x y => truth (x.slt y)

/-- sltu (R217). -/
def execSltu (d a b : SReg) (s : State) : Result := s.binary d a b fun x y => truth (x.ult y)

/-- seq (R217). -/
def execSeq (d a b : SReg) (s : State) : Result := s.binary d a b fun x y => truth (x == y)

/-- min (R217). -/
def execMin (d a b : SReg) (s : State) : Result := s.binary d a b fun x y => if x.slt y then x else y

/-- max (R217). -/
def execMax (d a b : SReg) (s : State) : Result := s.binary d a b fun x y => if x.slt y then y else x

/-- minu (R217). -/
def execMinu (d a b : SReg) (s : State) : Result := s.binary d a b fun x y => if x.ult y then x else y

/-- maxu (R217). -/
def execMaxu (d a b : SReg) (s : State) : Result := s.binary d a b fun x y => if x.ult y then y else x

/-- rol (R217). -/
def execRol (d a b : SReg) (s : State) : Result := s.binary d a b fun x y => x.rotateLeft (sh6 y)

/-- ror (R217). -/
def execRor (d a b : SReg) (s : State) : Result := s.binary d a b fun x y => x.rotateRight (sh6 y)

/-- andn (R217). -/
def execAndn (d a b : SReg) (s : State) : Result := s.binary d a b fun x y => x &&& ~~~y

/-- orn (R217). -/
def execOrn (d a b : SReg) (s : State) : Result := s.binary d a b fun x y => x ||| ~~~y

/-- sel (R217). -/
def execSel (d a b : SReg) (c : CReg) (s : State) : Result := s.ternary d a b c fun x y z => if z = 0 then y else x

/-- clz (R217). -/
def execClz (d a : SReg) (s : State) : Result := s.unary d a leadingZeros

/-- ctz (R217). -/
def execCtz (d a : SReg) (s : State) : Result := s.unary d a trailingZeros

/-- popc (R217). -/
def execPopc (d a : SReg) (s : State) : Result := s.unary d a oneBits

/-- rev8 (R217). -/
def execRev8 (d a : SReg) (s : State) : Result := s.unary d a reverseBytes

end Sys2Proof.Machine
end

