-- ==== Sys2Proof/Machine/Atomic.lean ====
section
/-! DEFINITION. Atomics, fences, cache maintenance and channels, major 0x7 (R116, R230 to R236). -/

namespace Sys2Proof.Machine

/-! ### Atomics (R116, R230, R231) -/

/-- An atomic at the port that owns a window address: the old value is read, the new one applied as a write of the
register (R231), one piece with one arrival number, and a trace entry unless the owner issues it (R113). -/
def State.portAtomic (s : State) (pa : Nat) (f : Word → Word) : State × Word :=
  let dst := winCore pa
  let s := s.reach s.core dst
  let off := winOff pa
  let old := BitVec.ofNat 64 (natOf ((upTo 8).map fun i => s.winSeen (pa + i)))
  let new := f old
  let kind := if off = 0x49000 then (s.getCore dst).port.tailKind new else 1
  let t := s.winWrite dst off (bytesOf 8 new.toNat) false
  let t := if dst = s.core then t else (t.trace dst kind 3 s.ctx (s.srcField s.ctx s.core) off).replayPop dst
  (t.bumpSeq dst 1, old)

/-- The port performs the atomic now (R422). -/
def State.portReady (s : State) (pa : Nat) (f : Word → Word) : Bool :=
  let dst := winCore pa
  let off := winOff pa
  let old := BitVec.ofNat 64 (natOf ((upTo 8).map fun i => s.winSeen (pa + i)))
  let kind := if off = 0x49000 then (s.getCore dst).port.tailKind (f old) else 1
  dst == s.core || s.replayAdmits dst kind 3 s.ctx (s.srcField s.ctx s.core) off

/-- An atomic on memory at the place that its scope names (R116): the die's copy, or the atomic unit of the memory die
that homes it, in the LLC, once the die's copies of the line are cleaned and removed. -/
def State.memAtomic (s : State) (wide : Bool) (pa : Nat) (f : Word → Word) : State × Word :=
  if wide then
    let s := s.flushLine s.die (lineOf pa)
    let old := BitVec.ofNat 64 (natOf (Memory.getAll s.mem pa 8))
    (s.writeLlc pa (bytesOf 8 (f old).toNat), old)
  else
    let s := s.hold s.core (lineOf pa)
    let old := BitVec.ofNat 64 (natOf ((upTo 8).map fun i => s.seen s.die (pa + i)))
    (s.coreStore s.core pa (bytesOf 8 (f old).toNat), old)

/-- An atomic on the 8 bytes at S(a) (R230): the checks of R212, then it orders as a fence of both classes. `f` takes
the old value. -/
def State.amo (s : State) (scope : Scope) (d a : SReg) (f : Word → Word) : State :=
  let va := s.rd a
  if va.toNat % 8 ≠ 0 then s.takeFault 0x0004 0 va
  else
    s.gate .atomic va 8 [d] fun s rs =>
      match rs with
      | [] => s
      | (pa, _) :: _ =>
        let win := inWindow pa
        s.fenced true true (if win || scope.wide then scope else .d) fun t =>
          if win then
            if t.portReady pa f then let (u, old) := t.portAtomic pa f; u.result d old else s
          else let (u, old) := t.memAtomic scope.wide pa f; u.result d old

/-- An atomic of one operand. -/
def State.amo2 (s : State) (scope : Scope) (d a b : SReg) (f : Word → Word → Word) : Result :=
  .next (s.start [a, b] [d] fun s => let y := s.rd b; s.amo scope d a fun old => f old y)

/-- amo.cas: it writes in every case (R230). -/
def State.amoCompare (s : State) (scope : Scope) (d a b : SReg) (c : CReg) : Result :=
  .next (s.start [a, b, c.setWidth 5] [d] fun s =>
    let y := s.rd b
    let x := s.rdC c
    s.amo scope d a fun old => if old = x then y else old)

/-- The signed lesser. -/
def minS (x y : Word) : Word := if x.slt y then x else y
/-- The signed greater. -/
def maxS (x y : Word) : Word := if x.slt y then y else x

/-- amo.add.c (R230). -/
def execAmoAdd (d a b : SReg) (s : State) : Result := s.amo2 .c d a b (fun x y => x + y)

/-- amo.and.c (R230). -/
def execAmoAnd (d a b : SReg) (s : State) : Result := s.amo2 .c d a b (fun x y => x &&& y)

/-- amo.or.c (R230). -/
def execAmoOr (d a b : SReg) (s : State) : Result := s.amo2 .c d a b (fun x y => x ||| y)

/-- amo.xor.c (R230). -/
def execAmoXor (d a b : SReg) (s : State) : Result := s.amo2 .c d a b (fun x y => x ^^^ y)

/-- amo.min.c (R230). -/
def execAmoMin (d a b : SReg) (s : State) : Result := s.amo2 .c d a b minS

/-- amo.max.c (R230). -/
def execAmoMax (d a b : SReg) (s : State) : Result := s.amo2 .c d a b maxS

/-- amo.swap.c (R230). -/
def execAmoSwap (d a b : SReg) (s : State) : Result := s.amo2 .c d a b (fun _ y => y)

/-- amo.cas.c (R230). -/
def execAmoCas (d a b : SReg) (c : CReg) (s : State) : Result := s.amoCompare .c d a b c

/-- amo.add of a wider scope (R230). -/
def execAmoAddScoped (scope : Scope) (d a b : SReg) (s : State) : Result :=
  s.amo2 scope d a b (fun x y => x + y)

/-- amo.and of a wider scope (R230). -/
def execAmoAndScoped (scope : Scope) (d a b : SReg) (s : State) : Result :=
  s.amo2 scope d a b (fun x y => x &&& y)

/-- amo.or of a wider scope (R230). -/
def execAmoOrScoped (scope : Scope) (d a b : SReg) (s : State) : Result :=
  s.amo2 scope d a b (fun x y => x ||| y)

/-- amo.xor of a wider scope (R230). -/
def execAmoXorScoped (scope : Scope) (d a b : SReg) (s : State) : Result :=
  s.amo2 scope d a b (fun x y => x ^^^ y)

/-- amo.min of a wider scope (R230). -/
def execAmoMinScoped (scope : Scope) (d a b : SReg) (s : State) : Result :=
  s.amo2 scope d a b minS

/-- amo.max of a wider scope (R230). -/
def execAmoMaxScoped (scope : Scope) (d a b : SReg) (s : State) : Result :=
  s.amo2 scope d a b maxS

/-- amo.swap of a wider scope (R230). -/
def execAmoSwapScoped (scope : Scope) (d a b : SReg) (s : State) : Result :=
  s.amo2 scope d a b (fun _ y => y)

/-- amo.cas of a wider scope (R230). -/
def execAmoCasScoped (scope : Scope) (d a b : SReg) (c : CReg) (s : State) : Result := s.amoCompare scope d a b c

/-! ### fence (R232) -/

/-- fence.C.S (R232): it waits until the earlier accesses of its class are complete for the scope. -/
def execFence (scope : Scope) (cls : FenceClass) (s : State) : Result :=
  .next (s.begin [] [] fun s =>
    s.fenced (cls != .w) (cls != .r) scope fun s => s.retire)

/-! ### Cache maintenance (R104, R233) -/

/-- Buffer length up to the context's last store to a line of the ranges. -/
def lastTo (sb : List SbEntry) (ctx : Nat) (rs : Runs) : Nat :=
  let ls := rs.flatMap fun r => if inWindow r.1 then [] else linesOf r.1 r.2
  let hit (e : SbEntry) : Bool := e.ctx == ctx && (linesOf e.pa e.bytes.length).any ls.contains
  (sb.zipIdx.foldl (fun n x => if hit x.1 then x.2 + 1 else n) 0)

/-- The translation checks of a maintenance range (R233): a range past 2^64 fails at address 0 as non-canonical, once
the bytes before it have been checked. -/
def State.cmoRange (s : State) (acc : Access) (va : Word) (n : Nat) : Except AFault (Runs × State) :=
  if 2 ^ 64 < va.toNat + n then
    match s.xlateRange s.core acc (n / 65536 + 2) va (2 ^ 64 - va.toNat) with
    | .error f => .error f
    | .ok _ => .error { code := 0x0005, info := ({ cause := 1, level := 0, table := false } : XFault).info, addr := 0 }
  else s.xlateRange s.core acc (n / 65536 + 2) va n

/-- A maintenance instruction (R233): it checks every page and retires, and its line operations go on, after the
context's buffered stores to the ranges (R104). -/
def State.cmo (s : State) (k : CmoKind) (lv : CmoLevel) (a d : SReg) (imm : Word) : Result :=
  .next (s.begin [a, d] [] fun s =>
    let va := s.rd a
    let n := (s.rd d + imm).toNat
    if n = 0 then s.retire
    else
      match s.cmoRange (if k = .inv then .write else .read) va n with
      | .error f => s.takeFault f.code f.info f.addr
      | .ok (rs, t) =>
        (t.modMe fun c =>
          { c with cmos := c.cmos ++
              [{ ctx := s.ctx, kind := k, level := lv, ranges := rs, mark := c.sbOut + lastTo c.sb s.ctx rs,
                 seq := c.seq }] }).retire)

/-- cmo.clean.l1 (R104, R233). -/
def execCmoCleanL1 (a d : SReg) (imm : Word) (s : State) : Result := s.cmo .clean .l1 a d imm
/-- cmo.clean.llc. -/
def execCmoCleanLlc (a d : SReg) (imm : Word) (s : State) : Result := s.cmo .clean .llc a d imm
/-- cmo.clean.mem. -/
def execCmoCleanMem (a d : SReg) (imm : Word) (s : State) : Result := s.cmo .clean .mem a d imm
/-- cmo.inv.l1. -/
def execCmoInvL1 (a d : SReg) (imm : Word) (s : State) : Result := s.cmo .inv .l1 a d imm
/-- cmo.inv.llc. -/
def execCmoInvLlc (a d : SReg) (imm : Word) (s : State) : Result := s.cmo .inv .llc a d imm
/-- cmo.inv.mem. -/
def execCmoInvMem (a d : SReg) (imm : Word) (s : State) : Result := s.cmo .inv .mem a d imm
/-- cmo.clinv.l1. -/
def execCmoClinvL1 (a d : SReg) (imm : Word) (s : State) : Result := s.cmo .clinv .l1 a d imm
/-- cmo.clinv.llc. -/
def execCmoClinvLlc (a d : SReg) (imm : Word) (s : State) : Result := s.cmo .clinv .llc a d imm
/-- cmo.clinv.mem. -/
def execCmoClinvMem (a d : SReg) (imm : Word) (s : State) : Result := s.cmo .clinv .mem a d imm

/-- The oldest maintenance operation of a core reaches its stated end (R233). -/
def execCmoLineOperationsDone (core : Nat) (s : State) : Result := .next (s.cmoStep core)

/-! ### Channels (R234 to R236) -/

/-- The endpoint is declared for the unit that the acting core runs (R48, R234). -/
def State.declaredEp (s : State) (e : Nat) : Bool :=
  let ep := s.getEp s.core e
  ep.declared &&
  match s.me.unit with
  | some u => ep.byXchan || (match u.launch with | some (i, _) => ep.launch == i | none => false)
  | none => false

/-- CHBIND with s(24 + r) bound to an endpoint and no other register (R305, R234). -/
def bindReg (w : Word) (r e : Nat) : Word :=
  BitVec.ofNat 64 (natOf ((upTo 8).map fun i =>
    let b := bits w.toNat (8 * i + 7) (8 * i)
    if i = r then BitVec.ofNat 8 (128 + e) else if b = 128 + e then 0 else BitVec.ofNat 8 b))

/-- The context has a register bound to the endpoint. -/
def Ctx.binds (x : Ctx) (e : Nat) : Bool := (upTo 8).any fun i => bits x.chbind.toNat (8 * i + 7) (8 * i) == 128 + e

/-- chbind (R234). -/
def execChbind (r : BitVec 3) (endpoint : BitVec 6) (s : State) : Result :=
  .next (s.begin [] [] fun s =>
    let e := endpoint.toNat
    let ep := s.getEp s.core e
    if (upTo 11).any fun k => k != s.ctx && (s.getCtx s.core k).binds e then s.fault 0x000C
    else if !s.declaredEp e || (ep.send && ep.words != 1) then s.fault 0x000D
    else (s.modCx fun x => { x with chbind := bindReg x.chbind r.toNat e }).retire)

/-- The words of a buffer. -/
def wordsOf : Nat → List Byte → List Word
  | 0, _ => []
  | n + 1, bs => BitVec.ofNat 64 (natOf (bs.take 8)) :: wordsOf n (bs.drop 8)

/-- chsend (R235): the checks, the wait for a grant and a port, one load of the buffer, the message whole. A descriptor
for the exchange engine leaves once the context's stores are out of the store buffer, as its reads of SRC follow them
(R107, R402). -/
def execChsend (a b : SReg) (s : State) : Result :=
  .next (s.begin [a, b] [] fun s =>
    let e := (s.rd a).toNat
    let buf := s.rd b
    let ep := s.getEp s.core e
    if decide (63 < e) || !s.declaredEp e || !ep.send then s.fault 0x000D
    else if buf.toNat % 8 ≠ 0 then s.takeFault 0x0004 0 buf
    else
      match s.access s.core .read buf (8 * ep.words) with
      | .error f => s.takeFault f.code f.info f.addr
      | .ok (_, s) =>
        if ep.grants = 0 || !s.linkUp ep then s.waitOn (.send e) none
        else if ep.isExchange && !s.drainable s.core s.ctx then s
        else
          (if ep.isExchange then s.drainCtx s.core s.ctx else s).gate .read buf (8 * ep.words) [] fun s rs =>
            let s := s.readIn rs
            (s.sendMsg s.core s.ctx e (wordsOf ep.words (s.loadRuns rs))).retire)

end Sys2Proof.Machine
end

