-- ==== Sys2Proof/Machine/Branch.lean ====
section
/-! DEFINITION. Control transfers, major 0x4 (R222 to R225): each moves the chain by Transfer (R153). -/

namespace Sys2Proof.Machine

/-- The target at a halfword offset from the instruction's address (R222, R223). -/
def Ctx.target (x : Ctx) (imm : Word) : Word := x.pc + 2 * imm

/-- A conditional branch, taken or not (R222): .n nullifies the slots of a taken one, .t of one not taken. -/
def State.branch (s : State) (form : BrForm) (taken : Bool) (imm : Word) : State :=
  if taken then s.retireTo (s.cx.target imm) (form == .n) else s.retireTo s.cx.nextAddr (form == .t)

/-- A branch on one register and zero. -/
def State.branch1 (s : State) (form : BrForm) (a : SReg) (imm : Word) (p : Word → Bool) : Result :=
  .next (s.begin [a] [] fun s => s.branch form (p (s.rd a)) imm)

/-- A branch on two registers. -/
def State.branch2 (s : State) (form : BrForm) (a b : SReg) (imm : Word) (p : Word → Word → Bool) : Result :=
  .next (s.begin [a, b] [] fun s => s.branch form (p (s.rd a) (s.rd b)) imm)

/-- br.eq against zero (R222). -/
def execBrEq (form : BrForm) (a : SReg) (imm : Word) (s : State) : Result := s.branch1 form a imm fun x => x == 0
/-- br.ne against zero (R222). -/
def execBrNe (form : BrForm) (a : SReg) (imm : Word) (s : State) : Result := s.branch1 form a imm fun x => x != 0
/-- br.lt against zero (R222). -/
def execBrLt (form : BrForm) (a : SReg) (imm : Word) (s : State) : Result := s.branch1 form a imm fun x => x.slt 0
/-- br.ge against zero (R222). -/
def execBrGe (form : BrForm) (a : SReg) (imm : Word) (s : State) : Result := s.branch1 form a imm fun x => !x.slt 0
/-- br.eq of two registers (R222). -/
def execBrEqTwoReg (form : BrForm) (a b : SReg) (imm : Word) (s : State) : Result :=
  s.branch2 form a b imm fun x y => x == y
/-- br.ne of two registers (R222). -/
def execBrNeTwoReg (form : BrForm) (a b : SReg) (imm : Word) (s : State) : Result :=
  s.branch2 form a b imm fun x y => x != y
/-- br.lt of two registers (R222). -/
def execBrLtTwoReg (form : BrForm) (a b : SReg) (imm : Word) (s : State) : Result :=
  s.branch2 form a b imm fun x y => x.slt y
/-- br.ge of two registers (R222). -/
def execBrGeTwoReg (form : BrForm) (a b : SReg) (imm : Word) (s : State) : Result :=
  s.branch2 form a b imm fun x y => !x.slt y
/-- br.ltu (R222). -/
def execBrLtu (form : BrForm) (a b : SReg) (imm : Word) (s : State) : Result :=
  s.branch2 form a b imm fun x y => x.ult y
/-- br.geu (R222). -/
def execBrGeu (form : BrForm) (a b : SReg) (imm : Word) (s : State) : Result :=
  s.branch2 form a b imm fun x y => !x.ult y

/-- j (R223). -/
def execJ (imm : Word) (s : State) : Result := .next (s.begin [] [] fun s => s.retireTo (s.cx.target imm) false)
/-- jal (R223): s1 takes NextAddr(NNPC) as it stands before the step. -/
def execJal (imm : Word) (s : State) : Result :=
  .next (s.begin [] [1] fun s => (s.wr 1 s.cx.nextAddr).retireTo (s.cx.target imm) false)

/-- A register-indirect jump: FETCH_ALIGN for an odd target, before s1 is written (R224). -/
def State.jumpTo (s : State) (t : Word) (link : Bool) : State :=
  if bitAt t 0 then s.takeFault 0x0003 0 t
  else (if link then s.wr 1 s.cx.nextAddr else s).retireTo t false

/-- jr (R224). -/
def execJr (a : SReg) (imm : Word) (s : State) : Result :=
  .next (s.begin [a] [] fun s => s.jumpTo (s.rd a + 2 * imm) false)
/-- jalr (R224): the old S(a) gives the target even for s1. -/
def execJalr (a : SReg) (imm : Word) (s : State) : Result :=
  .next (s.begin [a] [1] fun s => s.jumpTo (s.rd a + 2 * imm) true)

end Sys2Proof.Machine
end

