-- ==== Sys2Proof/Machine/Engine.lean ====
section
/-! DEFINITION. Dispatch of an engine-bound instruction (R138, R264 to R267, R335, R339) and what every engine does at
the end of one (R238, R266, R336). -/

namespace Sys2Proof.Machine

/-- Where an engine-bound instruction goes (R267); a copy request has its own path. -/
inductive Place where
  | vector | ring | fabric
  deriving DecidableEq, Repr

/-- The place has room (R267, R346). -/
def Core.room (c : Core) : Place → Bool
  | .vector => decide (c.vq.length < 32)
  | .ring => decide (c.ru.length < 16)
  | .fabric => decide (c.fq.length < 8)

/-- A queue flush goes on at the place (R339). -/
def Core.flushing (c : Core) : Place → Bool
  | .vector => c.flush
  | .ring => false
  | .fabric => c.flushF

/-- The core's vector queue becomes non-empty: its pass rises to the least of the cores with instructions (R53). -/
def State.passUp (s : State) (core : Nat) : State :=
  let others := (groveCores core).filter fun c => c != core && !(s.getCore c).vq.isEmpty
  match others.map fun c => (s.getCore c).pass.toNat with
  | [] => s
  | p :: ps => s.modCore core fun c => { c with pass := BitVec.ofNat 32 (Nat.max c.pass.toNat (ps.foldl Nat.min p)) }

/-- The instruction takes the next sequence number and its dispatch-ring entry (R264, R335). -/
def State.numbered (s : State) (i : Instr) : State :=
  s.modMe fun c =>
    { c with
      seq := c.seq + 1
      dring := c.dring.set (c.seq.toNat % 64)
        { addr := (c.getCtx s.ctx).pc, seq := c.seq, word := i.word, ctx := s.ctx, st := .inFlight, unit := c.units,
          fault := 0, launch := c.unit.bind fun u => u.launch, inUnit := c.unit.isSome } }

/-- The entry that the next dispatch takes still holds an instruction in flight (R335). -/
def Core.dringBusy (c : Core) : Bool := (c.entry c.seq).st == .inFlight

/-- Dispatch with the captured operands (R264, R265): it stalls while the place is full, the ring entry is in flight or
stores of the context stand in the store buffer (R107). `k` takes what the instruction still does in the pipeline, told
its sequence number and whether a flush took it at once (R339). -/
def State.enqueue (s : State) (p : Place) (i : Instr) (a b c : Word) (k : State → BitVec 16 → Bool → State) : State :=
  let me := s.me
  if !me.room p || me.dringBusy || !s.drainable s.core s.ctx then s
  else
    let s := (s.drainCtx s.core s.ctx).numbered i
    if me.flushing p then k (s.flushSeq s.core me.seq) me.seq true
    else
      let q : QEntry :=
        { instr := i, seq := me.seq, ctx := s.ctx, a := a, b := b, c := c, fmode := me.fmode,
          journal := if p = .fabric then s.mine.journal else 0,
          unit := me.units, words := s.cx.words, sys := false }
      let s := if p = .vector ∧ me.vq.isEmpty then s.passUp s.core else s
      let s := s.modMe fun c =>
        match p with
        | .vector => { c with vq := c.vq ++ [q] }
        | .ring => { c with ru := c.ru ++ [q] }
        | .fabric => { c with fq := c.fq ++ [q] }
      k s me.seq false

/-- The checks of R193 that a dispatch makes: the issuing context (R35) and a destination bound to an endpoint (R238,
R266). -/
def State.barred (s : State) (p : Place) (i : Instr) : Bool :=
  (p != .ring && s.ctx != 0) || i.lateDests.any s.isBound

/-- The dispatch of an instruction with its operand registers; `k` as for `enqueue`. -/
def State.dispatchWith (s : State) (p : Place) (i : Instr) (a b : SReg) (c : CReg)
    (k : State → BitVec 16 → Bool → State) : Result :=
  .next (if s.barred p i then s.illegal
    else s.begin [a, b, c.setWidth 5] i.lateDests fun s => s.enqueue p i (s.rd a) (s.rd b) (s.rdC c) k)

/-- The dispatch of an instruction that the pipeline then retires. -/
def State.dispatch (s : State) (p : Place) (i : Instr) (a b : SReg) (c : CReg) : Result :=
  s.dispatchWith p i a b c fun s _ _ => s.retire

/-- A result that an engine writes at completion arrives as a write through the window: a bound register discards it
(R93, R238, R266). -/
def State.lateWr (s : State) (core ctx : Nat) (r : SReg) (v : Word) : State :=
  s.modCtx core ctx fun x => if x.bound r.toNat then x else x.store r.toNat v

end Sys2Proof.Machine
end

