-- ==== Sys2Proof/Machine/Flags.lean ====
section
/-! DEFINITION. Every flag computation and the arithmetic that gives the flags: the IEEE formats, rounding, the sticky
flags of FSTAT and the integer saturations (R166 to R171, R227 to R229, R253). A value is exact until the one
rounding of Round(x, f, m). -/

namespace Sys2Proof.Machine

/-- Flags in the layout of FSTAT [10:0] (R303). -/
abbrev Flags := BitVec 11
/-- Inexact. -/
def flagNX : Flags := 0x001
/-- Underflow. -/
def flagUF : Flags := 0x002
/-- Overflow. -/
def flagOF : Flags := 0x004
/-- Division by zero. -/
def flagDZ : Flags := 0x008
/-- Invalid operation. -/
def flagNV : Flags := 0x010
/-- OUTLIER_LOST. -/
def flagOutlier : Flags := 0x100
/-- SATURATE. -/
def flagSat : Flags := 0x200
/-- GROUP_BOUNDS. -/
def flagGroup : Flags := 0x400

/-- A flag when a condition holds. -/
def flagIf (c : Bool) (f : Flags) : Flags := if c then f else 0

/-- An IEEE format by its exponent and fraction bits (R166). -/
structure Fmt where
  ebits : Nat
  mbits : Nat
  deriving DecidableEq, Repr

/-- FP64. -/
def fp64 : Fmt := { ebits := 11, mbits := 52 }
/-- FP32. -/
def fp32 : Fmt := { ebits := 8, mbits := 23 }
/-- FP16. -/
def fp16 : Fmt := { ebits := 5, mbits := 10 }
/-- BF16. -/
def bf16 : Fmt := { ebits := 8, mbits := 7 }

/-- What a value of a format denotes: the finite nonzero value is ± m × 2^e. -/
inductive Num where
  | zero (neg : Bool)
  | fin (neg : Bool) (m : Nat) (e : Int)
  | inf (neg : Bool)
  | nan (signalling : Bool)
  deriving DecidableEq, Repr

/-- A result and the flags it raises. -/
structure FRes where
  val   : Nat
  flags : Flags
  deriving DecidableEq, Repr

/-- What FMODE says of rounding and flushing (R302). -/
structure FCtl where
  rm  : Nat
  fz  : Bool
  daz : Bool
  deriving DecidableEq, Repr

/-- The control that an FMODE value gives (R302). -/
def fctl (fmode : Word) : FCtl := { rm := fmode.toNat % 8, fz := bitAt fmode 3, daz := bitAt fmode 4 }

/-- RNE with no flushing, as the encoder, the array and vdec use (R169, R184, R191, R263). -/
def plainCtl : FCtl := { rm := 0, fz := false, daz := false }

/-- The exponent of the format's least subnormal: its value is 2^lsbMin. -/
def Fmt.lsbMin (f : Fmt) : Int := 2 - 2 ^ (f.ebits - 1) - f.mbits
/-- The magnitude bits of ∞. -/
def Fmt.infMag (f : Fmt) : Nat := (2 ^ f.ebits - 1) * 2 ^ f.mbits
/-- The sign bit's weight. -/
def Fmt.signBit (f : Fmt) : Nat := 2 ^ (f.ebits + f.mbits)
/-- A sign and magnitude bits. -/
def Fmt.pack (f : Fmt) (neg : Bool) (mag : Nat) : Nat := if neg then f.signBit + mag else mag
/-- The canonical NaN (R167). -/
def Fmt.nan (f : Fmt) : Nat := f.infMag + 2 ^ (f.mbits - 1)

/-- What the low bits of `x` denote, under DAZ or not (R169). -/
def Fmt.num (f : Fmt) (daz : Bool) (x : Nat) : Num :=
  let neg := decide (x / f.signBit % 2 = 1)
  let e := x / 2 ^ f.mbits % 2 ^ f.ebits
  let m := x % 2 ^ f.mbits
  if e = 2 ^ f.ebits - 1 then (if m = 0 then .inf neg else .nan (decide (m < 2 ^ (f.mbits - 1))))
  else if e = 0 then (if m = 0 ∨ daz then .zero neg else .fin neg m f.lsbMin)
  else .fin neg (m + 2 ^ f.mbits) (f.lsbMin + (e - 1))

/-- Does the mode round the remainder `r` of `u` up in magnitude (R168). -/
def roundsUp (rm : Nat) (neg odd : Bool) (r u : Nat) : Bool :=
  match rm with
  | 0 => decide (u < 2 * r) || (decide (2 * r = u) && odd)
  | 1 => false
  | 2 => !neg && decide (r ≠ 0)
  | 3 => neg && decide (r ≠ 0)
  | _ => decide (u ≤ 2 * r) && decide (r ≠ 0)

/-- ± m × 2^e rounded to a multiple of 2^lsb: the multiple, and whether it was inexact. -/
def roundAt (rm : Nat) (neg : Bool) (m : Nat) (e lsb : Int) : Nat × Bool :=
  if lsb ≤ e then (m * 2 ^ (e - lsb).toNat, false)
  else
    let u := 2 ^ (lsb - e).toNat
    let n := m / u
    let r := m % u
    (if roundsUp rm neg (decide (n % 2 = 1)) r u then n + 1 else n, decide (r ≠ 0))

/-- The magnitude that an overflow gives (R168). -/
def Fmt.overflowMag (f : Fmt) (rm : Nat) (neg : Bool) : Nat :=
  match rm with
  | 1 => f.infMag - 1
  | 2 => if neg then f.infMag - 1 else f.infMag
  | 3 => if neg then f.infMag else f.infMag - 1
  | _ => f.infMag

/-- Round(± m × 2^e, f, RM) for m above 0, with its flags; tininess after rounding (R168, R169). -/
def Fmt.round (f : Fmt) (c : FCtl) (neg : Bool) (m : Nat) (e : Int) : FRes :=
  let top : Int := e + m.log2
  let free := top - f.mbits
  let lsb := max free f.lsbMin
  let (n, ix) := roundAt c.rm neg m e lsb
  let mag := n + (lsb - f.lsbMin).toNat * 2 ^ f.mbits
  if f.infMag ≤ mag then { val := f.pack neg (f.overflowMag c.rm neg), flags := flagOF ||| flagNX }
  else
    let emin := f.lsbMin + f.mbits
    let tiny := decide (top < emin) &&
      !(decide (top + 1 = emin) && decide ((roundAt c.rm neg m e free).1 = 2 ^ (f.mbits + 1)))
    if c.fz && decide (mag ≠ 0) && decide (mag < 2 ^ f.mbits) then { val := f.pack neg 0, flags := flagUF ||| flagNX }
    else { val := f.pack neg mag, flags := flagIf ix flagNX ||| flagIf (tiny && ix) flagUF }

/-- A number written in a format: finite values round, NaNs are canonical. -/
def Fmt.put (f : Fmt) (c : FCtl) : Num → FRes
  | .zero neg => { val := f.pack neg 0, flags := 0 }
  | .fin neg m e => f.round c neg m e
  | .inf neg => { val := f.pack neg f.infMag, flags := 0 }
  | .nan s => { val := f.nan, flags := flagIf s flagNV }

/-- The result of an invalid operation (R168). -/
def Fmt.invalid (f : Fmt) : FRes := { val := f.nan, flags := flagNV }

/-- The number is a NaN. -/
def Num.isNan : Num → Bool
  | .nan _ => true
  | _ => false
/-- The number is a signalling NaN. -/
def Num.isSnan : Num → Bool
  | .nan s => s
  | _ => false
/-- The sign. -/
def Num.neg : Num → Bool
  | .zero n | .fin n _ _ | .inf n => n
  | .nan _ => false
/-- The number with its sign changed. -/
def Num.negate : Num → Num
  | .zero n => .zero (!n)
  | .fin n m e => .fin (!n) m e
  | .inf n => .inf (!n)
  | .nan s => .nan s

/-- A signed multiple of 2^e as a number; an exact zero takes the sign that the mode gives it (R168). -/
def numOf (rm : Nat) (s : Int) (e : Int) : Num :=
  if s = 0 then .zero (decide (rm = 3)) else .fin (decide (s < 0)) s.natAbs e

/-- The signed integer `± m`. -/
def signed (neg : Bool) (m : Nat) : Int := if neg then -(m : Int) else m

/-- x + y of two finite nonzero values, exact. -/
def sumFin (rm : Nat) (n1 : Bool) (m1 : Nat) (e1 : Int) (n2 : Bool) (m2 : Nat) (e2 : Int) : Num :=
  let e := min e1 e2
  numOf rm (signed n1 (m1 * 2 ^ (e1 - e).toNat) + signed n2 (m2 * 2 ^ (e2 - e).toNat)) e

/-- Round(x + y, f, RM) (R227, R242). -/
def Fmt.add (f : Fmt) (c : FCtl) (x y : Num) : FRes :=
  match x, y with
  | .nan s, y => f.put c (.nan (s || y.isSnan))
  | x, .nan s => f.put c (.nan (s || x.isSnan))
  | .inf a, .inf b => if a = b then f.put c (.inf a) else f.invalid
  | .inf a, _ => f.put c (.inf a)
  | _, .inf b => f.put c (.inf b)
  | .zero a, .zero b => f.put c (.zero (if a = b then a else decide (c.rm = 3)))
  | .zero _, y => f.put c y
  | x, .zero _ => f.put c x
  | .fin n1 m1 e1, .fin n2 m2 e2 => f.put c (sumFin c.rm n1 m1 e1 n2 m2 e2)

/-- Round(x − y, f, RM). -/
def Fmt.sub (f : Fmt) (c : FCtl) (x y : Num) : FRes := f.add c x y.negate

/-- x × y exactly; none for the invalid product 0 × ∞. -/
def mulNum (x y : Num) : Option Num :=
  match x, y with
  | .nan s, y => some (.nan (s || y.isSnan))
  | x, .nan s => some (.nan (s || x.isSnan))
  | .inf _, .zero _ | .zero _, .inf _ => none
  | .inf a, y => some (.inf (a != y.neg))
  | x, .inf b => some (.inf (x.neg != b))
  | .zero a, y => some (.zero (a != y.neg))
  | x, .zero b => some (.zero (x.neg != b))
  | .fin n1 m1 e1, .fin n2 m2 e2 => some (.fin (n1 != n2) (m1 * m2) (e1 + e2))

/-- Round(x × y, f, RM). -/
def Fmt.mul (f : Fmt) (c : FCtl) (x y : Num) : FRes :=
  match mulNum x y with
  | none => f.invalid
  | some p => f.put c p

/-- Round(x × y + z, f, RM), one rounding; a product 0 × ∞ is invalid whatever the addend (R167). -/
def Fmt.fma (f : Fmt) (c : FCtl) (x y z : Num) : FRes :=
  match mulNum x y with
  | none => f.invalid
  | some p => f.add c p z

/-- Bits of quotient and root beyond the operands' own, so that one sticky bit decides every rounding. -/
def guardBits : Nat := 64

/-- Round(x ÷ y, f, RM). -/
def Fmt.div (f : Fmt) (c : FCtl) (x y : Num) : FRes :=
  match x, y with
  | .nan s, y => f.put c (.nan (s || y.isSnan))
  | x, .nan s => f.put c (.nan (s || x.isSnan))
  | .inf _, .inf _ | .zero _, .zero _ => f.invalid
  | .inf a, y => f.put c (.inf (a != y.neg))
  | x, .inf b => f.put c (.zero (x.neg != b))
  | .zero a, y => f.put c (.zero (a != y.neg))
  | .fin a _ _, .zero b => { val := f.pack (a != b) f.infMag, flags := flagDZ }
  | .fin n1 m1 e1, .fin n2 m2 e2 =>
    let k := 2 * guardBits
    let q := m1 * 2 ^ k / m2
    let r := m1 * 2 ^ k % m2
    f.round c (n1 != n2) (2 * q + (if r = 0 then 0 else 1)) (e1 - e2 - k - 1)

/-- The largest `r` with r × r ≤ n, found bit by bit from 2^(k−1) down. -/
def isqrt (n : Nat) : Nat → Nat → Nat
  | 0, r => r
  | k + 1, r => isqrt n k (if (r + 2 ^ k) * (r + 2 ^ k) ≤ n then r + 2 ^ k else r)

/-- Round(√x, f, RM); √(−0) = −0. -/
def Fmt.sqrt (f : Fmt) (c : FCtl) (x : Num) : FRes :=
  match x with
  | .nan s => f.put c (.nan s)
  | .zero a => f.put c (.zero a)
  | .inf false => f.put c (.inf false)
  | .inf true => f.invalid
  | .fin true _ _ => f.invalid
  | .fin false m e =>
    let odd : Nat := (e % 2).toNat
    let n := m * 2 ^ odd * 4 ^ guardBits
    let r := isqrt n (n.log2 / 2 + 1) 0
    f.round c false (2 * r + (if r * r = n then 0 else 1)) ((e - odd) / 2 - guardBits - 1)

/-- The order of two numbers that are no NaN: is x below y. −0 equals +0. -/
def Num.lt (x y : Num) : Bool :=
  match x, y with
  | .inf a, .inf b => a && !b
  | .inf a, _ => a
  | _, .inf b => !b
  | .zero _, .zero _ => false
  | .zero _, .fin n _ _ => !n
  | .fin n _ _, .zero _ => n
  | .fin n1 m1 e1, .fin n2 m2 e2 =>
    let e := min e1 e2
    decide (signed n1 (m1 * 2 ^ (e1 - e).toNat) < signed n2 (m2 * 2 ^ (e2 - e).toNat))
  | _, _ => false

/-- x = y of two numbers that are no NaN. -/
def Num.eq (x y : Num) : Bool := !x.isNan && !y.isNan && !x.lt y && !y.lt x

/-- minimumNumber of IEEE 754-2019, −0 below +0 (R227). -/
def Fmt.min (f : Fmt) (c : FCtl) (x y : Num) : FRes :=
  let nv := flagIf (x.isSnan || y.isSnan) flagNV
  let r :=
    if x.isNan then (if y.isNan then .nan false else y)
    else if y.isNan then x
    else if x.lt y then x else if y.lt x then y else if x.neg then x else y
  let o := f.put c r
  { o with flags := o.flags ||| nv }

/-- maximumNumber of IEEE 754-2019, −0 below +0 (R227). -/
def Fmt.max (f : Fmt) (c : FCtl) (x y : Num) : FRes :=
  let nv := flagIf (x.isSnan || y.isSnan) flagNV
  let r :=
    if x.isNan then (if y.isNan then .nan false else y)
    else if y.isNan then x
    else if y.lt x then x else if x.lt y then y else if x.neg then y else x
  let o := f.put c r
  { o with flags := o.flags ||| nv }

/-- A comparison: its truth and its flags. -/
structure CRes where
  holds : Bool
  flags : Flags
  deriving DecidableEq, Repr

/-- feq: only a signalling NaN sets NV (R228). -/
def cmpEq (x y : Num) : CRes := { holds := x.eq y, flags := flagIf (x.isSnan || y.isSnan) flagNV }
/-- flt: any NaN sets NV (R228). -/
def cmpLt (x y : Num) : CRes :=
  { holds := !x.isNan && !y.isNan && x.lt y, flags := flagIf (x.isNan || y.isNan) flagNV }
/-- fle: any NaN sets NV (R228). -/
def cmpLe (x y : Num) : CRes :=
  { holds := !x.isNan && !y.isNan && !y.lt x, flags := flagIf (x.isNan || y.isNan) flagNV }

/-- The one-hot class (R228); it ignores DAZ. -/
def Fmt.classify (f : Fmt) (x : Nat) : Nat :=
  match f.num false x with
  | .inf true => 0x001
  | .fin n m _ => if m < 2 ^ f.mbits then (if n then 0x004 else 0x020) else (if n then 0x002 else 0x040)
  | .zero true => 0x008
  | .zero false => 0x010
  | .inf false => 0x080
  | .nan true => 0x100
  | .nan false => 0x200

/-- A conversion to an integer of the range [lo, hi] (R170). -/
def toInt (rm : Nat) (lo hi : Int) (x : Num) : Int × Flags :=
  match x with
  | .nan _ => (0, flagNV)
  | .inf n => (if n then lo else hi, flagNV)
  | .zero _ => (0, 0)
  | .fin n m e =>
    let (k, ix) := roundAt rm n m e 0
    let v := signed n k
    if v < lo then (lo, flagNV) else if hi < v then (hi, flagNV) else (v, flagIf ix flagNX)

/-- A conversion from an integer, rounding once (R170). -/
def Fmt.ofInt (f : Fmt) (c : FCtl) (v : Int) : FRes :=
  if v = 0 then { val := 0, flags := 0 } else f.round c (decide (v < 0)) v.natAbs 0

/-- The integer ranges of R229. -/
def loS (w : Nat) : Int := -(2 : Int) ^ (w - 1)
/-- The largest signed value of `w` bits. -/
def hiS (w : Nat) : Int := (2 : Int) ^ (w - 1) - 1
/-- The largest unsigned value of `w` bits. -/
def hiU (w : Nat) : Int := (2 : Int) ^ w - 1

/-- sat(v, lo, hi) with SATURATE when it clamps (R165, R243). -/
def satInt (lo hi v : Int) : Int × Flags :=
  if v < lo then (lo, flagSat) else if hi < v then (hi, flagSat) else (v, 0)

/-! ### exp2 (R253) -/

/-- Fraction bits of the fixed-point powers of two. -/
def expBits : Nat := 320

/-- 2^(f / 2^k) for the low `k` bits `f`, in units of 2^-expBits, by repeated square roots: `root` is 2^(2^-i) at bit
k − i. -/
def expFrac (f : Nat) : Nat → Nat → Nat → Nat
  | 0, _, acc => acc
  | k + 1, root, acc =>
    let r := isqrt (root * 2 ^ expBits) (expBits + 2) 0
    expFrac f k r (if f / 2 ^ k % 2 = 1 then acc * r / 2 ^ expBits else acc)

/-- Round(2^x, FP32, RM). An integer exponent from −149 to 127 is exact and raises no flag, under FZ too, to which R240
makes the entry an exception (R253, log entry 25); any other result is irrational, so a sticky bit stands below the
fixed-point value. -/
def exp2 (c : FCtl) (x : Num) : FRes :=
  match x with
  | .nan s => fp32.put c (.nan s)
  | .zero _ => fp32.round c false 1 0
  | .inf true => fp32.put c (.zero false)
  | .inf false => fp32.put c (.inf false)
  | .fin n m e =>
    let int (i : Int) : FRes := fp32.round (if -149 ≤ i then { c with fz := false } else c) false 1 i
    if 10 < e + m.log2 then int (if n then -2000 else 2000)
    else if 0 ≤ e then int (signed n (m * 2 ^ e.toNat))
    else
      let k := (-e).toNat
      let i := (signed n m).fdiv (2 ^ k)
      let f := ((signed n m).fmod (2 ^ k)).toNat
      if f = 0 then int i
      else fp32.round c false (2 * expFrac f k (2 * 2 ^ expBits) (2 ^ expBits) + 1) (i - expBits - 1)

end Sys2Proof.Machine
end

