-- ==== Sys2Proof/Machine/Vector.lean ====
section
/-! DEFINITION. Vector arithmetic, masks, reductions, scans, permutes, the hash and conversion (R242 to R258): what each
writes when it executes, from the values that its core's registers then hold, and the dispatch of each. -/

namespace Sys2Proof.Machine

/-! ### Lanes and elements (R148, R149, R239) -/

/-- Element e of a register as 64 bits: lanes 2e and 2e + 1. -/
def elemAt (x : Lanes) (e : Nat) : Nat := (laneAt x (2 * e)).toNat + 2 ^ 32 * (laneAt x (2 * e + 1)).toNat

/-- Flags of the active of `n` results. -/
def flagsOf (n : Nat) (act : Nat → Bool) (f : Nat → Nat × Flags) : Flags :=
  (upTo n).foldl (fun acc j => if act j then acc ||| (f j).2 else acc) 0

/-- Results in the active lanes; an inactive lane keeps its value and raises no flag (R239). -/
def lanes32 (old : Lanes) (m : BitVec 128) (f : Nat → Nat × Flags) : Lanes × Flags :=
  (Vector.ofFn fun j => if m.getLsbD j.val then BitVec.ofNat 32 (f j.val).1 else laneAt old j.val,
   flagsOf 128 (fun j => m.getLsbD j) f)

/-- Results in the active elements. -/
def lanes64 (old : Lanes) (m : BitVec 128) (f : Nat → Nat × Flags) : Lanes × Flags :=
  (Vector.ofFn fun j =>
    if m.getLsbD (j.val / 2 * 2) then BitVec.ofNat 32 ((f (j.val / 2)).1 / 2 ^ (32 * (j.val % 2))) else laneAt old j.val,
   flagsOf 64 (fun e => m.getLsbD (2 * e)) f)

/-- A mask from its bits. -/
def maskOf (f : Nat → Bool) : BitVec 128 :=
  (upTo 128).foldl (fun acc j => if f j then acc ||| (1#128 <<< j) else acc) 0

/-- A comparison per lane; an inactive lane writes 0 (R244). -/
def compare32 (m : BitVec 128) (f : Nat → CRes) : BitVec 128 × Flags :=
  (maskOf fun j => m.getLsbD j && (f j).holds,
   flagsOf 128 (fun j => m.getLsbD j) fun j => (0, (f j).flags))

/-- A comparison per element, written to both of its bits. -/
def compare64 (m : BitVec 128) (f : Nat → CRes) : BitVec 128 × Flags :=
  (maskOf fun j => m.getLsbD (j / 2 * 2) && (f (j / 2)).holds,
   flagsOf 64 (fun e => m.getLsbD (2 * e)) fun e => (0, (f e).flags))

/-- What an instruction writes at completion. -/
inductive VOut where
  | v (d : VReg) (x : Lanes)
  | k (d : KReg) (x : BitVec 128)
  | s (d : SReg) (x : Word)
  deriving DecidableEq, Repr

/-- A vector result with its flags. -/
def vOut (d : VReg) (r : Lanes × Flags) : VOut × Flags := (.v d r.1, r.2)
/-- A mask result with its flags. -/
def kOut (d : KReg) (r : BitVec 128 × Flags) : VOut × Flags := (.k d r.1, r.2)

/-- A result and its flags from a rounding. -/
def FRes.pair (r : FRes) : Nat × Flags := (r.val, r.flags)

/-! ### Arithmetic of one lane or element (R242, R243) -/

/-- An FP32 operation on the lanes of two registers. -/
def vec32 (c : Core) (q : QEntry) (d a b : VReg) (m : KReg) (op : FCtl → Num → Num → FRes) : VOut × Flags :=
  let t := fctl q.fmode
  let n (x : Lanes) (j : Nat) : Num := fp32.num t.daz (laneAt x j).toNat
  vOut d (lanes32 (c.getV d.toNat) (c.getK m.toNat) fun j => (op t (n (c.getV a.toNat) j) (n (c.getV b.toNat) j)).pair)

/-- An FP64 operation on the elements of two registers. -/
def vec64 (c : Core) (q : QEntry) (d a b : VReg) (m : KReg) (op : FCtl → Num → Num → FRes) : VOut × Flags :=
  let t := fctl q.fmode
  let n (x : Lanes) (e : Nat) : Num := fp64.num t.daz (elemAt x e)
  vOut d (lanes64 (c.getV d.toNat) (c.getK m.toNat) fun e => (op t (n (c.getV a.toNat) e) (n (c.getV b.toNat) e)).pair)

/-- vfma.f32: x × y + z with z the old lane of d. -/
def vecFma32 (c : Core) (q : QEntry) (d a b : VReg) (m : KReg) : VOut × Flags :=
  let t := fctl q.fmode
  let n (r : VReg) (j : Nat) : Num := fp32.num t.daz (laneAt (c.getV r.toNat) j).toNat
  vOut d (lanes32 (c.getV d.toNat) (c.getK m.toNat) fun j => (fp32.fma t (n a j) (n b j) (n d j)).pair)

/-- vfma.f64. -/
def vecFma64 (c : Core) (q : QEntry) (d a b : VReg) (m : KReg) : VOut × Flags :=
  let t := fctl q.fmode
  let n (r : VReg) (e : Nat) : Num := fp64.num t.daz (elemAt (c.getV r.toNat) e)
  vOut d (lanes64 (c.getV d.toNat) (c.getK m.toNat) fun e => (fp64.fma t (n a e) (n b e) (n d e)).pair)

/-- An operation on the FP32 lanes of one register. -/
def vecOne (c : Core) (q : QEntry) (d a : VReg) (m : KReg) (op : FCtl → Num → FRes) : VOut × Flags :=
  let t := fctl q.fmode
  vOut d (lanes32 (c.getV d.toNat) (c.getK m.toNat) fun j => (op t (fp32.num t.daz (laneAt (c.getV a.toNat) j).toNat)).pair)

/-- vsqrt.f64. -/
def vecSqrt64 (c : Core) (q : QEntry) (d a : VReg) (m : KReg) : VOut × Flags :=
  let t := fctl q.fmode
  vOut d (lanes64 (c.getV d.toNat) (c.getK m.toNat) fun e => (fp64.sqrt t (fp64.num t.daz (elemAt (c.getV a.toNat) e))).pair)

/-- An integer operation on 32-bit lanes without a flag. -/
def int32 (c : Core) (d a b : VReg) (m : KReg) (op : Lane → Lane → Lane) : VOut × Flags :=
  vOut d (lanes32 (c.getV d.toNat) (c.getK m.toNat) fun j =>
    ((op (laneAt (c.getV a.toNat) j) (laneAt (c.getV b.toNat) j)).toNat, 0))

/-- A saturating operation on signed 32-bit lanes (R243). -/
def sat32 (c : Core) (d a b : VReg) (m : KReg) (op : Int → Int → Int) : VOut × Flags :=
  vOut d (lanes32 (c.getV d.toNat) (c.getK m.toNat) fun j =>
    let r := satInt (loS 32) (hiS 32) (op (laneAt (c.getV a.toNat) j).toInt (laneAt (c.getV b.toNat) j).toInt)
    ((BitVec.ofInt 32 r.1).toNat, r.2))

/-- An integer operation on 64-bit elements. -/
def int64 (c : Core) (d a b : VReg) (m : KReg) (op : Word → Word → Word) : VOut × Flags :=
  vOut d (lanes64 (c.getV d.toNat) (c.getK m.toNat) fun e =>
    ((op (BitVec.ofNat 64 (elemAt (c.getV a.toNat) e)) (BitVec.ofNat 64 (elemAt (c.getV b.toNat) e))).toNat, 0))

/-- A comparison of FP32 lanes (R244). -/
def vcmp32 (c : Core) (q : QEntry) (d : KReg) (a b : VReg) (m : KReg) (op : Num → Num → CRes) : VOut × Flags :=
  let n (r : VReg) (j : Nat) : Num := fp32.num (fctl q.fmode).daz (laneAt (c.getV r.toNat) j).toNat
  kOut d (compare32 (c.getK m.toNat) fun j => op (n a j) (n b j))

/-- A comparison of FP64 elements. -/
def vcmp64 (c : Core) (q : QEntry) (d : KReg) (a b : VReg) (m : KReg) (op : Num → Num → CRes) : VOut × Flags :=
  let n (r : VReg) (e : Nat) : Num := fp64.num (fctl q.fmode).daz (elemAt (c.getV r.toNat) e)
  kOut d (compare64 (c.getK m.toNat) fun e => op (n a e) (n b e))

/-- A comparison of integer lanes. -/
def vcmpI (c : Core) (d : KReg) (a b : VReg) (m : KReg) (op : Lane → Lane → Bool) : VOut × Flags :=
  kOut d (compare32 (c.getK m.toNat) fun j =>
    { holds := op (laneAt (c.getV a.toNat) j) (laneAt (c.getV b.toNat) j), flags := 0 })

/-- A mask operation over 128 bits (R245). -/
def maskOp (c : Core) (d a b : KReg) (op : BitVec 128 → BitVec 128 → BitVec 128) : VOut × Flags :=
  (.k d (op (c.getK a.toNat) (c.getK b.toNat)), 0)

/-- The signed lesser of two lanes. -/
def minS32 (x y : Lane) : Lane := if x.slt y then x else y
/-- The signed greater. -/
def maxS32 (x y : Lane) : Lane := if x.slt y then y else x
/-- The unsigned lesser. -/
def minU32 (x y : Lane) : Lane := if x.ult y then x else y
/-- The unsigned greater. -/
def maxU32 (x y : Lane) : Lane := if x.ult y then y else x

/-! ### Reductions and scans (R250, R251) -/

/-- One node of the tree: an absent operand is passed over. -/
def node {α : Type} (op : α → α → α × Flags) : Option α → Option α → Option α × Flags
  | some p, some q => let r := op p q; (some r.1, r.2)
  | some p, none => (some p, 0)
  | none, q => (q, 0)

/-- One level of the tree: x[2i] ⊕ x[2i + 1]. -/
def reduceLevel {α : Type} (op : α → α → α × Flags) : List (Option α) → List (Option α) × Flags
  | p :: q :: rest =>
    let r := node op p q
    let t := reduceLevel op rest
    (r.1 :: t.1, r.2 ||| t.2)
  | l => (l, 0)

/-- The levels of the tree. -/
def reduceTree {α : Type} (op : α → α → α × Flags) : Nat → List (Option α) → Option α × Flags
  | 0, l => (l.headD none, 0)
  | n + 1, l =>
    let t := reduceLevel op l
    let u := reduceTree op n t.1
    (u.1, t.2 ||| u.2)

/-- The active lanes of a register, absent elsewhere. -/
def lanesIn (c : Core) (a : VReg) (m : KReg) : List (Option Lane) :=
  (upTo 128).map fun j => if (c.getK m.toNat).getLsbD j then some (laneAt (c.getV a.toNat) j) else none
/-- The active elements of a register, absent elsewhere. -/
def elemsIn (c : Core) (a : VReg) (m : KReg) : List (Option Nat) :=
  (upTo 64).map fun e => if (c.getK m.toNat).getLsbD (2 * e) then some (elemAt (c.getV a.toNat) e) else none

/-- What a lane or an element of an FP register reads as, under DAZ (R169, R240). -/
def Fmt.flushed (f : Fmt) (t : FCtl) (x : Nat) : Nat :=
  match f.num t.daz x with
  | .zero neg => f.pack neg 0
  | _ => x

/-- What a tree's or a scan's result is written as: FZ and the canonical NaN hold too for a lane that no node combined
(R167, R240, log entry 23). -/
def Fmt.written (f : Fmt) (t : FCtl) (x : Nat) : Nat × Flags := (f.put t (f.num false x)).pair

/-- A reduction of FP32 lanes. -/
def reduce32 (c : Core) (q : QEntry) (d : SReg) (a : VReg) (m : KReg) (op : FCtl → Num → Num → FRes) (empty : Nat) :
    VOut × Flags :=
  let t := fctl q.fmode
  let r := reduceTree (fun x y => (op t (fp32.num t.daz x) (fp32.num t.daz y)).pair) 7
    ((lanesIn c a m).map fun o => o.map fun x => fp32.flushed t x.toNat)
  let w := fp32.written t (r.1.getD empty)
  (.s d (BitVec.ofNat 64 w.1), r.2 ||| w.2)

/-- A reduction of integer lanes by an exact operation. -/
def reduceI (c : Core) (d : SReg) (a : VReg) (m : KReg) (op : Int → Int → Int) (empty : Int) : VOut × Flags :=
  let r := reduceTree (fun x y => (op x y, 0)) 7 ((lanesIn c a m).map fun o => o.map fun x => x.toInt)
  (.s d (BitVec.ofInt 64 (r.1.getD empty)), r.2)

/-- vredsum.f64. -/
def reduceSum64 (c : Core) (q : QEntry) (d : SReg) (a : VReg) (m : KReg) : VOut × Flags :=
  let t := fctl q.fmode
  let r := reduceTree (fun x y => (fp64.add t (fp64.num t.daz x) (fp64.num t.daz y)).pair) 6
    ((elemsIn c a m).map fun o => o.map (fp64.flushed t))
  let w := fp64.written t (r.1.getD 0)
  (.s d (BitVec.ofNat 64 w.1), r.2 ||| w.2)

/-- vredsum.i64. -/
def reduceSumI64 (c : Core) (d : SReg) (a : VReg) (m : KReg) : VOut × Flags :=
  let r := reduceTree (fun x y => ((x + y) % 2 ^ 64, 0)) 6 (elemsIn c a m)
  (.s d (BitVec.ofNat 64 (r.1.getD 0)), r.2)

/-- vredor. -/
def reduceOr (c : Core) (d : SReg) (a : VReg) (m : KReg) : VOut × Flags :=
  let r := reduceTree (fun (x y : Lane) => (x ||| y, 0)) 7 (lanesIn c a m)
  (.s d ((r.1.getD 0).setWidth 64), r.2)

/-- One level of a scan at distance `t`: y[j] ← y[j − t] ⊕ y[j]. A sum formed at the position of an inactive lane raises
no flag (R239, log entry 22). -/
def scanLevel {α : Type} (op : α → α → α × Flags) (act : Nat → Bool) (t : Nat) (l : List (Option α)) :
    List (Option α) × Flags :=
  let rs := (List.replicate t none ++ l).zipWith (node op) l
  (rs.map fun r => r.1, rs.zipIdx.foldl (fun acc r => if act r.2 then acc ||| r.1.2 else acc) 0)

/-- The levels of a scan. -/
def scan {α : Type} (op : α → α → α × Flags) (act : Nat → Bool) : List Nat → List (Option α) → List (Option α) × Flags
  | [], l => (l, 0)
  | t :: ts, l =>
    let u := scanLevel op act t l
    let w := scan op act ts u.1
    (w.1, u.2 ||| w.2)

/-- A scan of the lanes of a register (R251): the active lanes are written. `rd` and `wr` are how an operand is read and
a result is written. -/
def vscan (c : Core) (d a : VReg) (m : KReg) (op : Nat → Nat → Nat × Flags) (rd : Nat → Nat) (wr : Nat → Nat × Flags) :
    VOut × Flags :=
  let act (j : Nat) : Bool := (c.getK m.toNat).getLsbD j
  let r := scan op act [1, 2, 4, 8, 16, 32, 64] ((lanesIn c a m).map fun o => o.map fun x => rd x.toNat)
  let ws := r.1.map fun o => wr (o.getD 0)
  (.v d (Vector.ofFn fun j =>
    if act j.val then BitVec.ofNat 32 (ws.getD j.val (0, 0)).1 else laneAt (c.getV d.toNat) j.val),
   ws.zipIdx.foldl (fun f w => if act w.2 then f ||| w.1.2 else f) r.2)

/-! ### Sorting (R252) -/

/-- Lane i stands before lane j: active lanes first, numbers by descending value, NaNs after them, ties by index. -/
def sortsBefore (act : Nat → Bool) (x : Nat → Num) (i j : Nat) : Bool :=
  if act i != act j then act i
  else if !act i then decide (i < j)
  else if (x i).isNan != (x j).isNan then !(x i).isNan
  else if (x i).isNan then decide (i < j)
  else if (x j).lt (x i) then true
  else if (x i).lt (x j) then false
  else decide (i < j)

/-- Inserts a lane index into a sorted list. -/
def insertLane (before : Nat → Nat → Bool) (i : Nat) : List Nat → List Nat
  | [] => [i]
  | j :: rest => if before i j then i :: j :: rest else j :: insertLane before i rest

/-- vsortx.f32 (R252). -/
def vsortx (c : Core) (q : QEntry) (d a : VReg) (m : KReg) : VOut × Flags :=
  let act (j : Nat) : Bool := (c.getK m.toNat).getLsbD j
  let x (j : Nat) : Num := fp32.num (fctl q.fmode).daz (laneAt (c.getV a.toNat) j).toNat
  let order := (upTo 128).foldl (fun l i => insertLane (sortsBefore act x) i l) []
  (.v d (Vector.ofFn fun i => BitVec.ofNat 32 (order.getD i.val 0)),
   flagIf ((upTo 128).any fun j => act j && (x j).isSnan) flagNV)

/-! ### Permutes, bit logic, the hash, conversion (R254 to R258) -/

/-- Every lane of d is written. -/
def allLanes (d : VReg) (f : Nat → Lane) : VOut × Flags := (.v d (Vector.ofFn fun j => f j.val), 0)

/-- vlut3's bit i of a lane (R256). -/
def lut3 (tau x y z : Nat) : Nat :=
  (upTo 32).foldl (fun acc i =>
    acc + tau / 2 ^ (4 * bits x i i + 2 * bits y i i + bits z i i) % 2 * 2 ^ i) 0

/-- The multipliers and rotations of the hash (R257). -/
def hashRounds : List (Word × Nat) :=
  [(0xC3A56D2B81F40E97, 0), (0x8B51F6E32C9D7A4B, 13), (0xE4D83A175B62C9F1, 26), (0x9F2CB705D8E31465, 39),
   (0xB6E14D930A7F52CD, 52), (0xD07A91C6E35B28A3, 1)]

/-- Hash(key, ctr, j) (R257). -/
def hash (key ctr : Word) (j : Nat) : Lane :=
  let x := hashRounds.foldl (fun x r =>
    let x := (x * r.1) ^^^ (key.rotateLeft r.2)
    x ^^^ (x >>> 31)) (ctr ^^^ 0x6C8E9CF570932BD5 ^^^ BitVec.ofNat 64 (j * 2 ^ 57))
  x.extractLsb' 32 32

/-- A conversion per lane: all 128 lanes are written. -/
def cvtLanes (d : VReg) (f : Nat → Nat × Flags) : VOut × Flags := vOut d (lanes32 zeroLanes (BitVec.allOnes 128) f)

/-- Lanes of a as numbers of a format, from their low bits. -/
def laneNum (f : Fmt) (c : Core) (q : QEntry) (a : VReg) (j : Nat) : Num :=
  f.num (fctl q.fmode).daz ((laneAt (c.getV a.toNat) j).toNat % 2 ^ (1 + f.ebits + f.mbits))

/-! ### What each instruction writes -/

/-- The result of a vector instruction that neither accesses memory nor a ring, from its core's registers as they stand
when it executes; none for any other instruction. -/
def vecValue (c : Core) (q : QEntry) : Option (VOut × Flags) :=
  let t := fctl q.fmode
  match q.instr with
  | .vaddF32 d a b m => some (vec32 c q d a b m fp32.add)
  | .vsubF32 d a b m => some (vec32 c q d a b m fp32.sub)
  | .vmulF32 d a b m => some (vec32 c q d a b m fp32.mul)
  | .vminF32 d a b m => some (vec32 c q d a b m fp32.min)
  | .vmaxF32 d a b m => some (vec32 c q d a b m fp32.max)
  | .vdivF32 d a b m => some (vec32 c q d a b m fp32.div)
  | .vfmaF32 d a b m => some (vecFma32 c q d a b m)
  | .vaddF64 d a b m => some (vec64 c q d a b m fp64.add)
  | .vsubF64 d a b m => some (vec64 c q d a b m fp64.sub)
  | .vmulF64 d a b m => some (vec64 c q d a b m fp64.mul)
  | .vminF64 d a b m => some (vec64 c q d a b m fp64.min)
  | .vmaxF64 d a b m => some (vec64 c q d a b m fp64.max)
  | .vdivF64 d a b m => some (vec64 c q d a b m fp64.div)
  | .vfmaF64 d a b m => some (vecFma64 c q d a b m)
  | .vsqrtF32 d a m => some (vecOne c q d a m fp32.sqrt)
  | .vsqrtF64 d a m => some (vecSqrt64 c q d a m)
  | .vaddI32 d a b m => some (int32 c d a b m fun x y => x + y)
  | .vsubI32 d a b m => some (int32 c d a b m fun x y => x - y)
  | .vmulI32 d a b m => some (int32 c d a b m fun x y => x * y)
  | .vand d a b m => some (int32 c d a b m fun x y => x &&& y)
  | .vor d a b m => some (int32 c d a b m fun x y => x ||| y)
  | .vxor d a b m => some (int32 c d a b m fun x y => x ^^^ y)
  | .vsllI32 d a b m => some (int32 c d a b m fun x y => x <<< (y.toNat % 32))
  | .vsrlI32 d a b m => some (int32 c d a b m fun x y => x >>> (y.toNat % 32))
  | .vsraI32 d a b m => some (int32 c d a b m fun x y => x.sshiftRight (y.toNat % 32))
  | .vmulhI32 d a b m => some (int32 c d a b m fun x y => BitVec.ofInt 32 ((x.toInt * y.toInt).fdiv (2 ^ 32)))
  | .vminI32 d a b m => some (int32 c d a b m minS32)
  | .vmaxI32 d a b m => some (int32 c d a b m maxS32)
  | .vminuI32 d a b m => some (int32 c d a b m minU32)
  | .vmaxuI32 d a b m => some (int32 c d a b m maxU32)
  | .vaddsI32 d a b m => some (sat32 c d a b m fun x y => x + y)
  | .vsubsI32 d a b m => some (sat32 c d a b m fun x y => x - y)
  | .vaddI64 d a b m => some (int64 c d a b m fun x y => x + y)
  | .vsubI64 d a b m => some (int64 c d a b m fun x y => x - y)
  | .vmulI64 d a b m => some (int64 c d a b m fun x y => x * y)
  | .vsllI64 d a b m => some (int64 c d a b m fun x y => x <<< (y.toNat % 64))
  | .vsrlI64 d a b m => some (int64 c d a b m fun x y => x >>> (y.toNat % 64))
  | .vsraI64 d a b m => some (int64 c d a b m fun x y => x.sshiftRight (y.toNat % 64))
  | .vminI64 d a b m => some (int64 c d a b m fun x y => if x.slt y then x else y)
  | .vmaxI64 d a b m => some (int64 c d a b m fun x y => if x.slt y then y else x)
  | .vceqF32 d a b m => some (vcmp32 c q d a b m cmpEq)
  | .vcltF32 d a b m => some (vcmp32 c q d a b m cmpLt)
  | .vcleF32 d a b m => some (vcmp32 c q d a b m cmpLe)
  | .vceqI32 d a b m => some (vcmpI c d a b m fun x y => x == y)
  | .vcltI32 d a b m => some (vcmpI c d a b m fun x y => x.slt y)
  | .vcltuI32 d a b m => some (vcmpI c d a b m fun x y => x.ult y)
  | .vceqF64 d a b m => some (vcmp64 c q d a b m cmpEq)
  | .vcltF64 d a b m => some (vcmp64 c q d a b m cmpLt)
  | .kand d a b => some (maskOp c d a b fun x y => x &&& y)
  | .kor d a b => some (maskOp c d a b fun x y => x ||| y)
  | .kxor d a b => some (maskOp c d a b fun x y => x ^^^ y)
  | .kandn d a b => some (maskOp c d a b fun x y => x &&& ~~~y)
  | .vsel d a b m => some (allLanes d fun j => if (c.getK m.toNat).getLsbD j then laneAt (c.getV a.toNat) j else laneAt (c.getV b.toNat) j)
  | .vbcast d _ m => some (vOut d (lanes32 (c.getV d.toNat) (c.getK m.toNat) fun _ => (q.a.toNat % 2 ^ 32, 0)))
  | .vmovs d a _ m =>
    let n := q.b.toNat
    some (.s d (if n < 128 ∧ (c.getK m.toNat).getLsbD n then (laneAt (c.getV a.toNat) n).setWidth 64 else 0), 0)
  | .kpop d a m => some (.s d (BitVec.ofNat 64 ((upTo 128).filter fun j => (c.getK a.toNat).getLsbD j && (c.getK m.toNat).getLsbD j).length), 0)
  | .vredsumF32 d a m => some (reduce32 c q d a m fp32.add 0)
  | .vredmaxF32 d a m => some (reduce32 c q d a m fp32.max 0xFF800000)
  | .vredminF32 d a m => some (reduce32 c q d a m fp32.min 0x7F800000)
  | .vredsumF64 d a m => some (reduceSum64 c q d a m)
  | .vredsumI32 d a m => some (reduceI c d a m (fun x y => x + y) 0)
  | .vredmaxI32 d a m => some (reduceI c d a m (fun x y => if x < y then y else x) (-2147483648))
  | .vredsumI64 d a m => some (reduceSumI64 c d a m)
  | .vredor d a m => some (reduceOr c d a m)
  | .vperm d a b =>
    some (allLanes d fun j =>
      let i := (laneAt (c.getV b.toNat) j).toNat
      if i < 128 then laneAt (c.getV a.toNat) i else 0)
  | .vslide d a _ =>
    some (allLanes d fun j =>
      let i := (j : Int) + q.b.toInt
      if 0 ≤ i ∧ i ≤ 127 then laneAt (c.getV a.toNat) i.toNat else 0)
  | .vfsl d a b _ =>
    some (allLanes d fun j =>
      let x := (laneAt (c.getV a.toNat) j).toNat * 2 ^ 32 + (laneAt (c.getV b.toNat) j).toNat
      BitVec.ofNat 32 (x * 2 ^ (q.c.toNat % 32) / 2 ^ 32))
  | .vfsr d a b _ =>
    some (allLanes d fun j =>
      let x := (laneAt (c.getV a.toNat) j).toNat * 2 ^ 32 + (laneAt (c.getV b.toNat) j).toNat
      BitVec.ofNat 32 (x / 2 ^ (q.c.toNat % 32)))
  | .vlut3 d a b _ =>
    some (allLanes d fun j =>
      let r (v : VReg) : Nat := (laneAt (c.getV v.toNat) j).toNat
      BitVec.ofNat 32 (lut3 (q.c.toNat % 256) (r d) (r a) (r b)))
  | .vrng d _ _ => some (allLanes d fun j => hash q.a q.b j)
  | .vcvtF32I32 d a => some (cvtLanes d fun j => (fp32.ofInt t (laneAt (c.getV a.toNat) j).toInt).pair)
  | .vcvtI32F32 d a =>
    some (cvtLanes d fun j =>
      let r := toInt t.rm (loS 32) (hiS 32) (laneNum fp32 c q a j)
      ((BitVec.ofInt 32 r.1).toNat, r.2))
  | .vcvtF64F32 d a => some (vOut d (lanes64 zeroLanes (BitVec.allOnes 128) fun e => (fp64.put t (laneNum fp32 c q a e)).pair))
  | .vcvtF32F64 d a =>
    some (cvtLanes d fun e =>
      if e < 64 then (fp32.put t (fp64.num t.daz (elemAt (c.getV a.toNat) e))).pair else (0, 0))
  | .vcvtF16F32 d a => some (cvtLanes d fun j => (fp16.put t (laneNum fp32 c q a j)).pair)
  | .vcvtF32F16 d a => some (cvtLanes d fun j => (fp32.put t (laneNum fp16 c q a j)).pair)
  | .vcvtBf16F32 d a => some (cvtLanes d fun j => (bf16.put t (laneNum fp32 c q a j)).pair)
  | .vcvtF32Bf16 d a => some (cvtLanes d fun j => (fp32.put t (laneNum bf16 c q a j)).pair)
  | .vscanF32 d a m => some (vscan c d a m (fun x y => (fp32.add t (fp32.num t.daz x) (fp32.num t.daz y)).pair)
      (fp32.flushed t) (fp32.written t))
  | .vscanI32 d a m => some (vscan c d a m (fun x y => ((x + y) % 2 ^ 32, 0)) id fun x => (x, 0))
  | .vsortxF32 d a m => some (vsortx c q d a m)
  | .vexp2F32 d a m => some (vecOne c q d a m exp2)
  | _ => none

/-! ### Dispatch of each -/

/-- vaddF32: its dispatch (R242, R237). -/
def execVaddF32 (d a b : VReg) (m : KReg) (s : State) : Result := s.dispatch .vector (.vaddF32 d a b m) 0 0 0

/-- vsubF32: its dispatch (R242, R237). -/
def execVsubF32 (d a b : VReg) (m : KReg) (s : State) : Result := s.dispatch .vector (.vsubF32 d a b m) 0 0 0

/-- vmulF32: its dispatch (R242, R237). -/
def execVmulF32 (d a b : VReg) (m : KReg) (s : State) : Result := s.dispatch .vector (.vmulF32 d a b m) 0 0 0

/-- vminF32: its dispatch (R242, R237). -/
def execVminF32 (d a b : VReg) (m : KReg) (s : State) : Result := s.dispatch .vector (.vminF32 d a b m) 0 0 0

/-- vmaxF32: its dispatch (R242, R237). -/
def execVmaxF32 (d a b : VReg) (m : KReg) (s : State) : Result := s.dispatch .vector (.vmaxF32 d a b m) 0 0 0

/-- vdivF32: its dispatch (R242, R237). -/
def execVdivF32 (d a b : VReg) (m : KReg) (s : State) : Result := s.dispatch .vector (.vdivF32 d a b m) 0 0 0

/-- vfmaF32: its dispatch (R242, R237). -/
def execVfmaF32 (d a b : VReg) (m : KReg) (s : State) : Result := s.dispatch .vector (.vfmaF32 d a b m) 0 0 0

/-- vaddF64: its dispatch (R242, R237). -/
def execVaddF64 (d a b : VReg) (m : KReg) (s : State) : Result := s.dispatch .vector (.vaddF64 d a b m) 0 0 0

/-- vsubF64: its dispatch (R242, R237). -/
def execVsubF64 (d a b : VReg) (m : KReg) (s : State) : Result := s.dispatch .vector (.vsubF64 d a b m) 0 0 0

/-- vmulF64: its dispatch (R242, R237). -/
def execVmulF64 (d a b : VReg) (m : KReg) (s : State) : Result := s.dispatch .vector (.vmulF64 d a b m) 0 0 0

/-- vminF64: its dispatch (R242, R237). -/
def execVminF64 (d a b : VReg) (m : KReg) (s : State) : Result := s.dispatch .vector (.vminF64 d a b m) 0 0 0

/-- vmaxF64: its dispatch (R242, R237). -/
def execVmaxF64 (d a b : VReg) (m : KReg) (s : State) : Result := s.dispatch .vector (.vmaxF64 d a b m) 0 0 0

/-- vdivF64: its dispatch (R242, R237). -/
def execVdivF64 (d a b : VReg) (m : KReg) (s : State) : Result := s.dispatch .vector (.vdivF64 d a b m) 0 0 0

/-- vfmaF64: its dispatch (R242, R237). -/
def execVfmaF64 (d a b : VReg) (m : KReg) (s : State) : Result := s.dispatch .vector (.vfmaF64 d a b m) 0 0 0

/-- vsqrtF32: its dispatch (R242, R237). -/
def execVsqrtF32 (d a : VReg) (m : KReg) (s : State) : Result := s.dispatch .vector (.vsqrtF32 d a m) 0 0 0

/-- vsqrtF64: its dispatch (R242, R237). -/
def execVsqrtF64 (d a : VReg) (m : KReg) (s : State) : Result := s.dispatch .vector (.vsqrtF64 d a m) 0 0 0

/-- vaddI32: its dispatch (R243, R237). -/
def execVaddI32 (d a b : VReg) (m : KReg) (s : State) : Result := s.dispatch .vector (.vaddI32 d a b m) 0 0 0

/-- vsubI32: its dispatch (R243, R237). -/
def execVsubI32 (d a b : VReg) (m : KReg) (s : State) : Result := s.dispatch .vector (.vsubI32 d a b m) 0 0 0

/-- vmulI32: its dispatch (R243, R237). -/
def execVmulI32 (d a b : VReg) (m : KReg) (s : State) : Result := s.dispatch .vector (.vmulI32 d a b m) 0 0 0

/-- vand: its dispatch (R243, R237). -/
def execVand (d a b : VReg) (m : KReg) (s : State) : Result := s.dispatch .vector (.vand d a b m) 0 0 0

/-- vor: its dispatch (R243, R237). -/
def execVor (d a b : VReg) (m : KReg) (s : State) : Result := s.dispatch .vector (.vor d a b m) 0 0 0

/-- vxor: its dispatch (R243, R237). -/
def execVxor (d a b : VReg) (m : KReg) (s : State) : Result := s.dispatch .vector (.vxor d a b m) 0 0 0

/-- vsllI32: its dispatch (R243, R237). -/
def execVsllI32 (d a b : VReg) (m : KReg) (s : State) : Result := s.dispatch .vector (.vsllI32 d a b m) 0 0 0

/-- vsrlI32: its dispatch (R243, R237). -/
def execVsrlI32 (d a b : VReg) (m : KReg) (s : State) : Result := s.dispatch .vector (.vsrlI32 d a b m) 0 0 0

/-- vsraI32: its dispatch (R243, R237). -/
def execVsraI32 (d a b : VReg) (m : KReg) (s : State) : Result := s.dispatch .vector (.vsraI32 d a b m) 0 0 0

/-- vmulhI32: its dispatch (R243, R237). -/
def execVmulhI32 (d a b : VReg) (m : KReg) (s : State) : Result := s.dispatch .vector (.vmulhI32 d a b m) 0 0 0

/-- vminI32: its dispatch (R243, R237). -/
def execVminI32 (d a b : VReg) (m : KReg) (s : State) : Result := s.dispatch .vector (.vminI32 d a b m) 0 0 0

/-- vmaxI32: its dispatch (R243, R237). -/
def execVmaxI32 (d a b : VReg) (m : KReg) (s : State) : Result := s.dispatch .vector (.vmaxI32 d a b m) 0 0 0

/-- vminuI32: its dispatch (R243, R237). -/
def execVminuI32 (d a b : VReg) (m : KReg) (s : State) : Result := s.dispatch .vector (.vminuI32 d a b m) 0 0 0

/-- vmaxuI32: its dispatch (R243, R237). -/
def execVmaxuI32 (d a b : VReg) (m : KReg) (s : State) : Result := s.dispatch .vector (.vmaxuI32 d a b m) 0 0 0

/-- vaddsI32: its dispatch (R243, R237). -/
def execVaddsI32 (d a b : VReg) (m : KReg) (s : State) : Result := s.dispatch .vector (.vaddsI32 d a b m) 0 0 0

/-- vsubsI32: its dispatch (R243, R237). -/
def execVsubsI32 (d a b : VReg) (m : KReg) (s : State) : Result := s.dispatch .vector (.vsubsI32 d a b m) 0 0 0

/-- vaddI64: its dispatch (R243, R237). -/
def execVaddI64 (d a b : VReg) (m : KReg) (s : State) : Result := s.dispatch .vector (.vaddI64 d a b m) 0 0 0

/-- vsubI64: its dispatch (R243, R237). -/
def execVsubI64 (d a b : VReg) (m : KReg) (s : State) : Result := s.dispatch .vector (.vsubI64 d a b m) 0 0 0

/-- vmulI64: its dispatch (R243, R237). -/
def execVmulI64 (d a b : VReg) (m : KReg) (s : State) : Result := s.dispatch .vector (.vmulI64 d a b m) 0 0 0

/-- vsllI64: its dispatch (R243, R237). -/
def execVsllI64 (d a b : VReg) (m : KReg) (s : State) : Result := s.dispatch .vector (.vsllI64 d a b m) 0 0 0

/-- vsrlI64: its dispatch (R243, R237). -/
def execVsrlI64 (d a b : VReg) (m : KReg) (s : State) : Result := s.dispatch .vector (.vsrlI64 d a b m) 0 0 0

/-- vsraI64: its dispatch (R243, R237). -/
def execVsraI64 (d a b : VReg) (m : KReg) (s : State) : Result := s.dispatch .vector (.vsraI64 d a b m) 0 0 0

/-- vminI64: its dispatch (R243, R237). -/
def execVminI64 (d a b : VReg) (m : KReg) (s : State) : Result := s.dispatch .vector (.vminI64 d a b m) 0 0 0

/-- vmaxI64: its dispatch (R243, R237). -/
def execVmaxI64 (d a b : VReg) (m : KReg) (s : State) : Result := s.dispatch .vector (.vmaxI64 d a b m) 0 0 0

/-- vceqF32: its dispatch (R244, R237). -/
def execVceqF32 (d : KReg) (a b : VReg) (m : KReg) (s : State) : Result := s.dispatch .vector (.vceqF32 d a b m) 0 0 0

/-- vcltF32: its dispatch (R244, R237). -/
def execVcltF32 (d : KReg) (a b : VReg) (m : KReg) (s : State) : Result := s.dispatch .vector (.vcltF32 d a b m) 0 0 0

/-- vcleF32: its dispatch (R244, R237). -/
def execVcleF32 (d : KReg) (a b : VReg) (m : KReg) (s : State) : Result := s.dispatch .vector (.vcleF32 d a b m) 0 0 0

/-- vceqI32: its dispatch (R244, R237). -/
def execVceqI32 (d : KReg) (a b : VReg) (m : KReg) (s : State) : Result := s.dispatch .vector (.vceqI32 d a b m) 0 0 0

/-- vcltI32: its dispatch (R244, R237). -/
def execVcltI32 (d : KReg) (a b : VReg) (m : KReg) (s : State) : Result := s.dispatch .vector (.vcltI32 d a b m) 0 0 0

/-- vcltuI32: its dispatch (R244, R237). -/
def execVcltuI32 (d : KReg) (a b : VReg) (m : KReg) (s : State) : Result := s.dispatch .vector (.vcltuI32 d a b m) 0 0 0

/-- vceqF64: its dispatch (R244, R237). -/
def execVceqF64 (d : KReg) (a b : VReg) (m : KReg) (s : State) : Result := s.dispatch .vector (.vceqF64 d a b m) 0 0 0

/-- vcltF64: its dispatch (R244, R237). -/
def execVcltF64 (d : KReg) (a b : VReg) (m : KReg) (s : State) : Result := s.dispatch .vector (.vcltF64 d a b m) 0 0 0

/-- kand: its dispatch (R245, R237). -/
def execKand (d a b : KReg) (s : State) : Result := s.dispatch .vector (.kand d a b) 0 0 0

/-- kor: its dispatch (R245, R237). -/
def execKor (d a b : KReg) (s : State) : Result := s.dispatch .vector (.kor d a b) 0 0 0

/-- kxor: its dispatch (R245, R237). -/
def execKxor (d a b : KReg) (s : State) : Result := s.dispatch .vector (.kxor d a b) 0 0 0

/-- kandn: its dispatch (R245, R237). -/
def execKandn (d a b : KReg) (s : State) : Result := s.dispatch .vector (.kandn d a b) 0 0 0

/-- vsel: its dispatch (R245, R237). -/
def execVsel (d a b : VReg) (m : KReg) (s : State) : Result := s.dispatch .vector (.vsel d a b m) 0 0 0

/-- vbcast: its dispatch (R245, R237). -/
def execVbcast (d : VReg) (a : SReg) (m : KReg) (s : State) : Result := s.dispatch .vector (.vbcast d a m) a 0 0

/-- vmovs: its dispatch (R245, R237). -/
def execVmovs (d : SReg) (a : VReg) (b : SReg) (m : KReg) (s : State) : Result :=
  s.dispatch .vector (.vmovs d a b m) 0 b 0

/-- kpop: its dispatch (R245, R237). -/
def execKpop (d : SReg) (a m : KReg) (s : State) : Result := s.dispatch .vector (.kpop d a m) 0 0 0

/-- vredsumF32: its dispatch (R250, R237). -/
def execVredsumF32 (d : SReg) (a : VReg) (m : KReg) (s : State) : Result := s.dispatch .vector (.vredsumF32 d a m) 0 0 0

/-- vredmaxF32: its dispatch (R250, R237). -/
def execVredmaxF32 (d : SReg) (a : VReg) (m : KReg) (s : State) : Result := s.dispatch .vector (.vredmaxF32 d a m) 0 0 0

/-- vredminF32: its dispatch (R250, R237). -/
def execVredminF32 (d : SReg) (a : VReg) (m : KReg) (s : State) : Result := s.dispatch .vector (.vredminF32 d a m) 0 0 0

/-- vredsumF64: its dispatch (R250, R237). -/
def execVredsumF64 (d : SReg) (a : VReg) (m : KReg) (s : State) : Result := s.dispatch .vector (.vredsumF64 d a m) 0 0 0

/-- vredsumI32: its dispatch (R250, R237). -/
def execVredsumI32 (d : SReg) (a : VReg) (m : KReg) (s : State) : Result := s.dispatch .vector (.vredsumI32 d a m) 0 0 0

/-- vredmaxI32: its dispatch (R250, R237). -/
def execVredmaxI32 (d : SReg) (a : VReg) (m : KReg) (s : State) : Result := s.dispatch .vector (.vredmaxI32 d a m) 0 0 0

/-- vredsumI64: its dispatch (R250, R237). -/
def execVredsumI64 (d : SReg) (a : VReg) (m : KReg) (s : State) : Result := s.dispatch .vector (.vredsumI64 d a m) 0 0 0

/-- vredor: its dispatch (R250, R237). -/
def execVredor (d : SReg) (a : VReg) (m : KReg) (s : State) : Result := s.dispatch .vector (.vredor d a m) 0 0 0

/-- vperm: its dispatch (R254, R237). -/
def execVperm (d a b : VReg) (s : State) : Result := s.dispatch .vector (.vperm d a b) 0 0 0

/-- vslide: its dispatch (R254, R237). -/
def execVslide (d a : VReg) (b : SReg) (s : State) : Result := s.dispatch .vector (.vslide d a b) 0 b 0

/-- vfsl: its dispatch (R255, R237). -/
def execVfsl (d a b : VReg) (c : CReg) (s : State) : Result := s.dispatch .vector (.vfsl d a b c) 0 0 c

/-- vfsr: its dispatch (R255, R237). -/
def execVfsr (d a b : VReg) (c : CReg) (s : State) : Result := s.dispatch .vector (.vfsr d a b c) 0 0 c

/-- vlut3: its dispatch (R256, R237). -/
def execVlut3 (d a b : VReg) (c : CReg) (s : State) : Result := s.dispatch .vector (.vlut3 d a b c) 0 0 c

/-- vrng: its dispatch (R257, R237). -/
def execVrng (d : VReg) (a b : SReg) (s : State) : Result := s.dispatch .vector (.vrng d a b) a b 0

/-- vcvtF32I32: its dispatch (R258, R237). -/
def execVcvtF32I32 (d a : VReg) (s : State) : Result := s.dispatch .vector (.vcvtF32I32 d a) 0 0 0

/-- vcvtI32F32: its dispatch (R258, R237). -/
def execVcvtI32F32 (d a : VReg) (s : State) : Result := s.dispatch .vector (.vcvtI32F32 d a) 0 0 0

/-- vcvtF64F32: its dispatch (R258, R237). -/
def execVcvtF64F32 (d a : VReg) (s : State) : Result := s.dispatch .vector (.vcvtF64F32 d a) 0 0 0

/-- vcvtF32F64: its dispatch (R258, R237). -/
def execVcvtF32F64 (d a : VReg) (s : State) : Result := s.dispatch .vector (.vcvtF32F64 d a) 0 0 0

/-- vcvtF16F32: its dispatch (R258, R237). -/
def execVcvtF16F32 (d a : VReg) (s : State) : Result := s.dispatch .vector (.vcvtF16F32 d a) 0 0 0

/-- vcvtF32F16: its dispatch (R258, R237). -/
def execVcvtF32F16 (d a : VReg) (s : State) : Result := s.dispatch .vector (.vcvtF32F16 d a) 0 0 0

/-- vcvtBf16F32: its dispatch (R258, R237). -/
def execVcvtBf16F32 (d a : VReg) (s : State) : Result := s.dispatch .vector (.vcvtBf16F32 d a) 0 0 0

/-- vcvtF32Bf16: its dispatch (R258, R237). -/
def execVcvtF32Bf16 (d a : VReg) (s : State) : Result := s.dispatch .vector (.vcvtF32Bf16 d a) 0 0 0

/-- vscanF32: its dispatch (R251, R237). -/
def execVscanF32 (d a : VReg) (m : KReg) (s : State) : Result := s.dispatch .vector (.vscanF32 d a m) 0 0 0

/-- vscanI32: its dispatch (R251, R237). -/
def execVscanI32 (d a : VReg) (m : KReg) (s : State) : Result := s.dispatch .vector (.vscanI32 d a m) 0 0 0

/-- vsortxF32: its dispatch (R252, R237). -/
def execVsortxF32 (d a : VReg) (m : KReg) (s : State) : Result := s.dispatch .vector (.vsortxF32 d a m) 0 0 0

/-- vexp2F32: its dispatch (R253, R237). -/
def execVexp2F32 (d a : VReg) (m : KReg) (s : State) : Result := s.dispatch .vector (.vexp2F32 d a m) 0 0 0

end Sys2Proof.Machine
end

