-- ==== Sys2Proof/Machine/Formats.lean ====
section
/-! DEFINITION. The operand formats of venc, vdec and the matrix array (R173 to R192, R259, R261): decoding, encoding,
the layout of a group in a slot, and the two matrix sums. -/

namespace Sys2Proof.Machine

/-! ### Decoding (R173 to R181) -/

/-- The shape of e8m10 (R173); a zero exponent field reads as zero, as under DAZ. -/
def e8m10 : Fmt := { ebits := 8, mbits := 10 }

/-- A quiet reading of a number: a decoded NaN raises no flag (R174, R191). -/
def Num.quiet : Num → Num
  | .nan _ => .nan false
  | x => x

/-- A minifloat's exponent bits, fraction bits, and IEEE specials (R175, R176). -/
def miniShape (id : Nat) : Option (Nat × Nat × Bool) :=
  match id with
  | 2 => some (5, 2, true) | 3 => some (4, 3, true) | 4 => some (3, 4, false) | 5 => some (2, 5, false)
  | 6 => some (4, 3, false) | 8 => some (3, 2, false) | 9 => some (2, 3, false) | 10 => some (2, 1, false)
  | 11 => some (3, 0, false) | 23 => some (4, 2, false) | 24 => some (3, 3, false) | 25 => some (5, 1, false)
  | 26 => some (2, 2, false) | 27 => some (1, 3, false)
  | _ => none

/-- The kinds of R175. -/
inductive FKind where
  | ieee | table | int | user
  deriving DecidableEq, Repr

/-- The kind of a format ID. -/
def kindOf (id : Nat) : FKind :=
  if id < 2 then .ieee else if 15 ≤ id ∧ id ≤ 22 then .int else if 28 ≤ id then .user else .table

/-- A user table of a grove. -/
def Grove.tab (g : Grove) (i : Nat) : Table := Sparse.get Table.reset g.tabs i

/-- The code width of a format (R175). -/
def Grove.width (g : Grove) (id : Nat) : Nat :=
  match kindOf id with
  | .ieee => 16
  | .int => 23 - id
  | .user => (g.tab (id - 28)).width
  | .table =>
    match miniShape id with
    | some (x, y, _) => 1 + x + y
    | none => if id = 7 then 8 else if id = 14 then 2 else 4

/-- A finite value ± m × 2^e, with 0 as a signed zero. -/
def mkNum (neg : Bool) (m : Nat) (e : Int) : Num := if m = 0 then .zero neg else .fin neg m e

/-- A minifloat's value (R176). -/
def miniValue (x y : Nat) (ieee : Bool) (code : Nat) : Num :=
  let neg := decide (code / 2 ^ (x + y) % 2 = 1)
  let e := code / 2 ^ y % 2 ^ x
  let m := code % 2 ^ y
  let bias : Int := 2 ^ (x - 1) - 1
  if ieee && decide (e = 2 ^ x - 1) then (if m = 0 then .inf neg else .nan false)
  else if e = 0 then mkNum neg m (1 - bias - y)
  else .fin neg (2 ^ y + m) (e - bias - y)

/-- F of R177. -/
def logFrac (f : Int) : Nat := if f = 0 then 0 else if f = 1 then 194 else if f = 2 then 424 else 698

/-- A logarithmic value: index n, with per-octave steps 4 or 2 (R177). -/
def logValue (w steps : Nat) (code : Nat) : Num :=
  let neg := decide (code / 2 ^ (w - 1) % 2 = 1)
  let n := code % 2 ^ (w - 1)
  if n = 0 then .zero neg
  else
    let q : Int := (n : Int) - (2 ^ (w - 2) : Nat)
    let e := q.fdiv steps
    .fin neg (1024 + logFrac ((q - steps * e) * (4 / steps : Nat))) (e - 10)

/-- Q of R178. -/
def q4n (i : Nat) : Nat := [5, 16, 28, 40, 53, 69, 91, 128].getD i 128

/-- An INT code's value (R180). -/
def intValue (n : Nat) (sgn : Bool) (code : Nat) : Int :=
  let c := code % 2 ^ n
  if !sgn then c else if n = 1 then (if c = 1 then 1 else -1)
  else if c < 2 ^ (n - 1) then c else (c : Int) - 2 ^ n

/-- An integer as a number. -/
def intNum (v : Int) : Num := mkNum (decide (v < 0)) v.natAbs 0

/-- What a code of a format decodes to (R174 to R181). -/
def Grove.decodeCode (g : Grove) (id : Nat) (sgn : Bool) (code : Nat) : Num :=
  match kindOf id with
  | .ieee => if id = 0 then (bf16.num true code).quiet else (fp16.num false code).quiet
  | .int => intNum (intValue (23 - id) sgn code)
  | .user => (e8m10.num true (Sparse.get (0 : BitVec 32) (g.tab (id - 28)).entries code).toNat).quiet
  | .table =>
    match miniShape id with
    | some (x, y, ieee) => miniValue x y ieee code
    | none =>
      if id = 7 then logValue 8 4 code
      else if id = 13 then logValue 4 2 code
      else if id = 12 then .fin (decide (code / 8 % 2 = 1)) (q4n (code % 8)) (-7)
      else mkNum (decide (code / 2 % 2 = 1)) (code % 2) 0

/-! ### Encoding (R184 to R188) -/

/-- Magnitudes are compared as multiples of 2^-300, of which every one here is a multiple. -/
def magUnit : Nat := 300

/-- |x| in units of 2^-300; 0 for what is not finite. -/
def Num.mag : Num → Nat
  | .fin _ m e => m * 2 ^ (e + magUnit).toNat
  | _ => 0

/-- |x| × 2^-k in units of 2^-300. -/
def Num.scaled (x : Num) (k : Int) : Nat :=
  match x with
  | .fin _ m e => m * 2 ^ (e - k + magUnit).toNat
  | _ => 0

/-- The number is finite. -/
def Num.finite : Num → Bool
  | .zero _ | .fin _ _ _ => true
  | _ => false
/-- The number is infinite. -/
def Num.isInf : Num → Bool
  | .inf _ => true
  | _ => false

/-- The finite non-negative magnitudes of a table format, in index order (R184). -/
def Grove.mags (g : Grove) (id : Nat) : List Nat :=
  (((upTo (2 ^ (g.width id - 1))).map fun c => g.decodeCode id false c).filter Num.finite).map Num.mag

/-- The largest finite magnitude of a format (R185). -/
def Grove.maxMag (g : Grove) (id : Nat) : Nat :=
  if id = 0 then (bf16.num false 0x7F7F).mag
  else if id = 1 then (fp16.num false 0x7BFF).mag
  else (g.mags id).getLastD 0

/-- The code of ∞ without its sign, where the format has one (R185). -/
def Grove.infCode (g : Grove) (id : Nat) : Option Nat :=
  if id = 0 then some 0x7F80 else if id = 1 then some 0x7C00
  else (upTo (2 ^ (g.width id - 1))).find? fun c => (g.decodeCode id false c).isInf

/-- The distance of two magnitudes. -/
def dist (x y : Nat) : Nat := (x - y) + (y - x)

/-- The index of the nearest magnitude: even on a tie, the lowest of several (R184 step 3). -/
def nearest (ms : List Nat) (y : Nat) : Nat :=
  let d := ms.foldl (fun acc m => Nat.min acc (dist m y)) (dist (ms.headD 0) y)
  let c := (upTo ms.length).filter fun i => dist (ms.getD i 0) y == d
  (c.find? fun i => i % 2 == 0).getD (c.headD 0)

/-- The index of a magnitude under stochastic rounding with the draw `u` (R186): of several entries of a user table that equal
it, the lowest (log entry 142). -/
def stochastic (ms : List Nat) (y u : Nat) : Nat :=
  if y < ms.headD 0 then 0
  else
    match (upTo ms.length).find? fun i => ms.getD i 0 == y with
    | some i => i
    | none =>
      let i := ((upTo ms.length).filter fun i => decide (ms.getD i 0 < y)).length - 1
      let lo := ms.getD i 0
      if u * (ms.getD (i + 1) 0 - lo) < (y - lo) * 2 ^ 24 then i + 1 else i

/-- The index that a magnitude encodes to (R184 steps 2 and 3, R186); `draw` under SR. -/
def codeIndex (ms : List Nat) (y : Nat) (draw : Option Nat) : Nat :=
  if ms.getLastD 0 ≤ y then ms.length - 1
  else
    match draw with
    | some u => stochastic ms y u
    | none => nearest ms y

/-- An INT code and its flag (R184). -/
def intCode (n : Nat) (sgn : Bool) (x : Num) : Nat × Flags :=
  let one := sgn && decide (n = 1)
  let lo : Int := if one then -1 else if sgn then loS n else 0
  let hi : Int := if one then 1 else if sgn then hiS n else hiU n
  match x with
  | .nan _ => (if one then 1 else 0, flagSat)
  | .inf s =>
    let v := if s then lo else hi
    (if one then (if s then 0 else 1) else (v % 2 ^ n).toNat, flagSat)
  | .zero _ => (if one then 1 else 0, 0)
  | .fin s m e =>
    let v := signed s (roundAt 0 s m e 0).1
    let c := if v < lo then lo else if hi < v then hi else v
    (if one then (if s then 0 else 1) else (c % 2 ^ n).toNat, flagIf (c ≠ v) flagSat)

/-- A side entry's VALUE: Round(x × 2^-k, e8m10, RNE) with an unbounded exponent, then clamped or zeroed (R187). -/
def sideValue (x : Num) (k : Int) : Nat × Flags :=
  match x with
  | .fin s m e =>
    let r := roundAt 0 s m (e - k) (e - k + m.log2 - 10)
    let top : Int := if r.1 = 2 ^ 11 then e - k + m.log2 + 1 else e - k + m.log2
    let n := if r.1 = 2 ^ 11 then 2 ^ 10 else r.1
    if 127 < top then (e8m10.pack s 0x3FBFF, flagSat)
    else if top < -126 then (e8m10.pack s 0, 0)
    else (e8m10.pack s ((top + 127).toNat * 1024 + (n - 1024)), 0)
  | .zero s => (e8m10.pack s 0, 0)
  | _ => (0, 0)

/-- What one block encodes to: its scale byte, its codes, its scale exponent, its flags. -/
structure BlockCode where
  scale : Nat
  codes : List Nat
  k     : Int
  flags : Flags
  deriving DecidableEq, Repr

/-- The block's scale exponent and flag (R185 steps 1 to 4). -/
def scaleExp (maxmag amax : Nat) : Int × Flags :=
  if amax = 0 then (-127, 0)
  else
    match (upTo 255).find? fun i => decide (amax * 2 ^ 127 ≤ maxmag * 2 ^ i) with
    | some i => ((i : Int) - 127, 0)
    | none => (127, flagSat)

/-- Encodes a block whole in a format (R184, R185). An element that overflows BF16 or FP16 is infinite there and makes the
scale 0xFF, as R185's last point says; an infinity has its own code (log entry 24). `listed` marks its listed outliers, `draw` gives the draw of an
element under SR. -/
def Grove.encodeBlock (g : Grove) (id : Nat) (sgn : Bool) (xs : List Num) (listed : Nat → Bool)
    (draw : Nat → Option Nat) : BlockCode :=
  let n := xs.length
  let at_ (i : Nat) : Num := xs.getD i (.zero false)
  if kindOf id = .int then
    let cs := xs.map (intCode (23 - id) sgn)
    { scale := 0x7F, codes := cs.map fun c => c.1, k := 0, flags := cs.foldl (fun f c => f ||| c.2) 0 }
  else
    let amax := (upTo n).foldl (fun a i => if listed i then a else Nat.max a (at_ i).mag) 0
    let (k, fl) := scaleExp (g.maxMag id) amax
    let inf := g.infCode id
    let overflows (x : Num) : Bool := match x with
      | .fin s m e => kindOf id == .ieee && (((if id = 0 then bf16 else fp16).round plainCtl s m (e - k)).flags &&& flagOF) != 0
      | _ => false
    if xs.any Num.isNan || (inf.isNone && xs.any Num.isInf) || xs.any overflows then
      { scale := 0xFF, codes := xs.map fun _ => 0, k := k, flags := fl }
    else
      let w := g.width id
      let ms := if kindOf id = .ieee then [] else g.mags id
      let code (i : Nat) : Nat :=
        let x := at_ i
        if listed i then 0
        else if x.isInf then (if x.neg then 2 ^ (w - 1) else 0) + inf.getD 0
        else if kindOf id = .ieee then
          let f := if id = 0 then bf16 else fp16
          match x with
          | .fin s m e => (f.round plainCtl s m (e - k)).val
          | x => (f.put plainCtl x).val
        else (if x.neg then 2 ^ (w - 1) else 0) + codeIndex ms (x.scaled k) (draw i)
      { scale := (k + 127).toNat, codes := (upTo n).map code, k := k, flags := fl }

/-! ### Descriptors (R259) -/

/-- An operand's fields (R259, R277). -/
structure Opnd where
  fmt   : Nat
  sgn   : Bool
  blk   : Nat
  spill : Nat
  fbf   : Nat
  deriving DecidableEq, Repr

/-- The block size. -/
def Opnd.size (o : Opnd) : Nat := 16 * 2 ^ o.blk
/-- Blocks of a group. -/
def Opnd.blocks (o : Opnd) : Nat := 128 / o.size

/-- The operand in bits [31:0] of a descriptor. -/
def opndA (d : Word) : Opnd :=
  let n := d.toNat
  { fmt := bits n 4 0, sgn := decide (bits n 5 5 = 1), blk := bits n 7 6, spill := bits n 16 13, fbf := bits n 12 8 }

/-- The weight operand in bits [63:32] of a command descriptor (R277). -/
def opndB (d : Word) : Opnd :=
  let n := d.toNat
  { fmt := bits n 43 39, sgn := decide (bits n 44 44 = 1), blk := bits n 46 45, spill := bits n 55 52,
    fbf := bits n 51 47 }

/-- A fall-back format that R188 allows: BF16, FP16, or a table format wider than the primary. -/
def Grove.fallbackOk (g : Grove) (fmt fbf : Nat) : Bool :=
  match kindOf fbf with
  | .ieee => true
  | .int => false
  | _ => decide (g.width fmt < g.width fbf)

/-! ### A group in a slot (R261) -/

/-- The bits `p` of codes as bytes, element 8m + i in bit i of byte m. -/
def plane (p : Nat) : List Nat → List Byte
  | a :: b :: c :: d :: e :: f :: g :: h :: rest =>
    let t (x i : Nat) : Nat := x / 2 ^ p % 2 * 2 ^ i
    BitVec.ofNat 8 (t a 0 + t b 1 + t c 2 + t d 3 + t e 4 + t f 5 + t g 6 + t h 7) :: plane p rest
  | _ => []

/-- Pads or cuts a list of bytes to a length with zeros. -/
def padTo (n : Nat) (bs : List Byte) : List Byte := (bs ++ List.replicate (n - bs.length) 0).take n

/-- What venc chose for a group. -/
structure GroupCode where
  blocks  : List BlockCode          -- as written in the main planes
  width   : Nat
  side    : List Nat                -- side entries, ascending element index
  spilled : List (Nat × BlockCode)  -- block and its fall-back coding, in order
  wf      : Nat
  flags   : Flags
  deriving DecidableEq, Repr

/-- The 0x300 bytes of a group (R261). -/
def GroupCode.bytes (g : GroupCode) : List Byte :=
  let codes := g.blocks.flatMap fun b => b.codes
  let b8 (n : Nat) : Byte := BitVec.ofNat 8 n
  padTo 0x100 ((upTo g.width).flatMap fun p => plane p codes) ++
  padTo 8 (g.blocks.map fun b => b8 b.scale) ++
  padTo 128 (g.side.flatMap fun e => bytesOf 4 e) ++
  ((g.spilled.map fun s => b8 s.1) ++ List.replicate (8 - g.spilled.length) 0xFF) ++
  padTo 8 (g.spilled.map fun s => b8 s.2.scale) ++
  List.replicate 104 0 ++
  padTo 256 (g.spilled.flatMap fun s => (upTo g.wf).flatMap fun p => plane p s.2.codes)

/-- How the blocks of a group end (R188): listed, fallen back, saturated. -/
inductive BlockFate where
  | listed | spilled | saturated
  deriving DecidableEq, Repr

/-- Places the outliers of a group block by block (R188): room in the side list, spilled so far, counts per block. -/
def placeBlocks (cap : Nat) : Nat → Nat → List Nat → List BlockFate
  | _, _, [] => []
  | room, spilled, n :: rest =>
    if n ≤ room then .listed :: placeBlocks cap (room - n) spilled rest
    else if spilled < cap then .spilled :: placeBlocks cap room (spilled + 1) rest
    else .saturated :: placeBlocks cap room spilled rest

/-- venc's choices for a group of 128 numbers (R184 to R188). -/
def Grove.encodeGroup (g : Grove) (o : Opnd) (oth cap : Nat) (xs : List Num) (draw : Nat → Option Nat) : GroupCode :=
  let size := o.size
  let at_ (j : Nat) : Num := xs.getD j (.zero false)
  let outlier (j : Nat) : Bool :=
    oth != 0xFF && (at_ j).finite && decide (2 ^ (oth + (magUnit - 127)) ≤ (at_ j).mag)
  let counts := (upTo o.blocks).map fun b => ((upTo size).filter fun i => outlier (b * size + i)).length
  let fates :=
    if counts.foldl (fun a n => a + n) 0 ≤ cap then counts.map fun _ => BlockFate.listed
    else placeBlocks o.spill cap 0 counts
  let fate (b : Nat) : BlockFate := fates.getD b .listed
  let block (b : Nat) : List Num := (upTo size).map fun i => at_ (b * size + i)
  let listed (b i : Nat) : Bool := fate b == .listed && outlier (b * size + i)
  let main := (upTo o.blocks).map fun b =>
    if fate b = .spilled then { scale := 0, codes := List.replicate size 0, k := 0, flags := 0 }
    else g.encodeBlock o.fmt o.sgn (block b) (listed b) fun i => draw (b * size + i)
  let sp := ((upTo o.blocks).filter fun b => fate b == .spilled).map fun b =>
    (b, g.encodeBlock o.fbf false (block b) (fun _ => false) fun i => draw (b * size + i))
  let side := ((upTo 128).filter fun j => listed (j / size) (j % size)).map fun j =>
    let v := sideValue (at_ j) ((main.map fun b => b.k).getD (j / size) 0)
    (2 ^ 31 + j * 2 ^ 19 + v.1, v.2)
  { blocks := main, width := g.width o.fmt, side := side.map fun e => e.1, spilled := sp, wf := g.width o.fbf,
    flags := main.foldl (fun f b => f ||| b.flags) 0 ||| sp.foldl (fun f b => f ||| b.2.flags) 0 |||
      side.foldl (fun f e => f ||| e.2) 0 ||| flagIf (fates.any fun f => f == .saturated) flagOutlier }

/-! ### Reading a group (R263, R281) -/

/-- The code of element i in planes of `bytes` bytes each that begin at `base`. -/
def codeAt (data : Array Byte) (base bytes w i : Nat) : Nat :=
  (upTo w).foldl (fun acc p => acc + (data.getD (base + p * bytes + i / 8) 0).toNat / 2 ^ (i % 8) % 2 * 2 ^ p) 0

/-- Side entry n of a slot. -/
def sideAt (data : Array Byte) (n : Nat) : Nat := natOf ((upTo 4).map fun i => data.getD (0x108 + 4 * n + i) 0)

/-- Element j of a group: its value and its scale exponent, none for the scale byte 0xFF (R263, R281). The integer path
(`ints`) has no side lists (R192). -/
def Grove.element (g : Grove) (o : Opnd) (ints : Bool) (data : Array Byte) (j : Nat) : Num × Option Int :=
  let scale (n : Nat) : Option Int := if n = 0xFF then none else some ((n : Int) - 127)
  let int := decide (kindOf o.fmt = .int)
  let b := j / o.size
  match if int then none else (upTo o.spill).find? fun s => (data.getD (0x188 + s) 0).toNat == b with
  | some s =>
    let wf := g.width o.fbf
    (g.decodeCode o.fbf false (codeAt data (0x200 + s * o.size * wf / 8) (o.size / 8) wf (j % o.size)),
     scale (data.getD (0x190 + s) 0).toNat)
  | none =>
    let k := if int then some 0 else scale (data.getD (0x100 + b) 0).toNat
    match if ints then none else (upTo 32).find? fun n =>
      bits (sideAt data n) 31 31 == 1 && bits (sideAt data n) 30 26 == 0 && bits (sideAt data n) 25 19 == j with
    | some n => ((e8m10.num true (bits (sideAt data n) 18 0)).quiet, k)
    | none => (g.decodeCode o.fmt o.sgn (codeAt data 0 16 (g.width o.fmt) j), k)

/-- val × 2^k. -/
def Num.scale (x : Num) (k : Int) : Num :=
  match x with
  | .fin s m e => .fin s m (e + k)
  | x => x

/-- What vdec writes in a lane (R263). -/
def decoded (x : Num × Option Int) : Nat × Flags :=
  match x.2 with
  | none => (fp32.nan, 0)
  | some k => (fp32.put plainCtl (x.1.scale k)).pair

/-! ### The matrix sums (R189 to R192) -/

/-- One run's sum S before its scale, and whether the run sets NV (R190, R191). -/
def runSum (ps : List (Num × Num)) : Num × Bool :=
  let prods := ps.map fun p => mulNum p.1 p.2
  let pos := prods.any fun p => p == some (.inf false)
  let neg := prods.any fun p => p == some (.inf true)
  let bad := prods.any Option.isNone || (pos && neg)
  if bad || prods.any (fun p => (p.map Num.isNan).getD false) then (.nan false, bad)
  else if pos then (.inf false, false)
  else if neg then (.inf true, false)
  else
    let fins := prods.filterMap fun p => match p with
      | some (.fin s m e) => some (s, m, e)
      | _ => none
    match fins with
    | [] => (.zero false, false)
    | (_, m0, e0) :: _ =>
      let top : Int := fins.foldl (fun a t => max a (t.2.2 + t.2.1.log2)) (e0 + m0.log2)
      let low := top - 38
      let sum : Int := fins.foldl (fun a t =>
        let m := if low ≤ t.2.2 then t.2.1 * 2 ^ (t.2.2 - low).toNat else t.2.1 / 2 ^ (low - t.2.2).toNat
        a + signed t.1 m) 0
      (numOf 0 sum low, false)

/-- Adds one run to the accumulator: one rounding (R190, R191). A signalling NaN there is none of R191's causes of NV. -/
def addRun (acc : Nat) (ps : List ((Num × Option Int) × (Num × Option Int))) : Nat × Flags :=
  let r := runSum (ps.map fun p => (p.1.1, p.2.1))
  let s :=
    match ps with
    | ((_, some ka), (_, some kb)) :: _ => r.1.scale (ka + kb)
    | _ => .nan false
  let o := fp32.add plainCtl (fp32.num false acc).quiet s
  (o.val, (o.flags &&& (flagNV ||| flagOF)) ||| flagIf r.2 flagNV)

/-- The runs of an output element, in ascending k. -/
def addRuns (len : Nat) : Nat → Nat → List ((Num × Option Int) × (Num × Option Int)) → Nat × Flags
  | 0, acc, _ => (acc, 0)
  | n + 1, acc, ps =>
    let r := addRun acc (ps.take len)
    let t := addRuns len n r.1 (ps.drop len)
    (t.1, r.2 ||| t.2)

/-- A row or column: 128 elements with their scales. -/
abbrev Vec128 := List (Num × Option Int)

/-- A group as an operand reads it. -/
def Grove.readGroup (g : Grove) (o : Opnd) (ints : Bool) (bytes : List Byte) : Vec128 :=
  let data := bytes.toArray
  (upTo 128).map fun j => g.element o ints data j

/-- An INT operand counts as a block of 128 for the run length (R183). -/
def Opnd.runBlock (o : Opnd) : Nat := if kindOf o.fmt = .int then 128 else o.size

/-- The exact integer of an INT element. -/
def Num.toExact : Num → Int
  | .fin s m e => signed s (m * 2 ^ e.toNat)
  | _ => 0

/-- A command takes the integer path: both operands are INT formats (R189). -/
def intPath (oa ob : Opnd) : Bool := kindOf oa.fmt == .int && kindOf ob.fmt == .int

/-- One output element: the tile's old bits, a row of A and a column of B (R189). -/
def outElement (oa ob : Opnd) (old : Lane) (a b : Vec128) : Lane × Flags :=
  if intPath oa ob then
    let sum := (a.zip b).foldl (fun (s : Int) p => s + p.1.1.toExact * p.2.1.toExact) old.toInt
    let r := satInt (loS 32) (hiS 32) sum
    (BitVec.ofInt 32 r.1, r.2)
  else
    let len := Nat.min oa.runBlock ob.runBlock
    let r := addRuns len (128 / len) old.toNat (a.zip b)
    (BitVec.ofNat 32 r.1, r.2)

/-! ### User tables (R181) -/

/-- ORDERED of a table's entries and width. -/
def ordered (entries : Nat → Nat) (w : Nat) : Bool :=
  let h := 2 ^ (w - 1)
  let v (i : Nat) : Num := e8m10.num true (entries i)
  ((upTo h).all fun i => !(v i).isNan && decide (entries i / 2 ^ 18 % 2 = 0)) &&
  ((upTo (h - 1)).all fun i => decide (entries i ≤ entries (i + 1))) &&
  (v 0).finite &&
  (decide (w < 2) || (upTo h).all fun i => decide (entries (h + i) = entries i + 2 ^ 18))

end Sys2Proof.Machine
end

