-- ==== Sys2Proof/Machine/VectorMem.lean ====
section
/-! DEFINITION. Vector memory (R246 to R249), encode and decode (R259 to R263), and the execution of the head of a
core's vector queue (R18, R53, R237 to R241). -/

namespace Sys2Proof.Machine

/-! ### The end of a vector instruction -/

/-- The head leaves the vector queue. -/
def State.popVq (s : State) (core : Nat) : State := s.modCore core fun c => { c with vq := c.vq.drop 1, vload := none }

/-- The head completes with its flags (R171, R240, R335). -/
def State.vecDone (s : State) (core : Nat) (q : QEntry) (fl : Flags) : State := (s.popVq core).completeFlags core q.seq fl

/-- The head ends in a late fault, with no other effect (R240, R336). -/
def State.vecFault (s : State) (core : Nat) (q : QEntry) (f : AFault) : State :=
  (s.popVq core).lateFault core q.seq f.code f.info f.addr

/-- A late fault without detail. -/
def plainFault (code : BitVec 16) : AFault := { code := code, info := 0, addr := 0 }

/-- The head's result is written and it completes. -/
def State.vecWrite (s : State) (core : Nat) (q : QEntry) (r : VOut × Flags) : State :=
  let s :=
    match r.1 with
    | .v d x => s.modCore core fun c => c.setV d.toNat x
    | .k d x => s.modCore core fun c => c.setK d.toNat x
    | .s d x => s.lateWr core q.ctx d x
  s.vecDone core q r.2

/-! ### Accesses by lane (R246, R247) -/

/-- The checks of R92 on the bytes of one vector access, given each lane's address and place: the lowest byte in a hole,
a write to a region that refuses one, bytes that are not one region at consecutive offsets, the port-control block. -/
def laneCheck (as : List (Word × Nat)) (size : Nat) (wr : Bool) : Option AFault :=
  match as with
  | [] => none
  | (a0, p0) :: _ =>
    if !(as.any fun x => inWindow x.2) then none
    else
      match as.findSome? fun x => (holeIn x.2 size).map fun h => x.1 + BitVec.ofNat 64 (h - x.2) with
      | some a => some { code := 0x0006, info := 0, addr := a }
      | none =>
        let region (p : Nat) : Option (Nat × Nat × Bool) := if inWindow p then winRegion (winOff p) else none
        if wr && as.any fun x => match region x.2 with | some (_, _, ro) => ro | none => false then
          some { code := 0x0007, info := 0, addr := a0 }
        else if !(as.all fun x => region x.2 == region p0 && winCore x.2 == winCore p0 &&
            decide (BitVec.ofNat 64 x.2 - x.1 = BitVec.ofNat 64 p0 - a0)) then
          some { code := 0x0008, info := 0, addr := a0 }
        else if region p0 = some (0x49000, 0x49200, false) then some { code := 0x0009, info := 0, addr := a0 }
        else none

/-- Translates the bytes of each lane, in order, the first failure deciding. -/
def State.laneXlate (s : State) (core : Nat) (acc : Access) (size : Nat) :
    List Word → Except AFault (List (Word × Nat) × State)
  | [] => .ok ([], s)
  | a :: as =>
    match s.xlateRange core acc 2 a size with
    | .error f => .error f
    | .ok (rs, s) =>
      match State.laneXlate s core acc size as with
      | .error f => .error f
      | .ok (l, s) => .ok ((a, (rs.headD (0, 0)).1) :: l, s)

/-- The checks of vld and vst: every page, then R92 on the active bytes as one access (R246). -/
def State.laneAccess (s : State) (core : Nat) (acc : Access) (size : Nat) (as : List Word) :
    Except AFault (List Nat × State) :=
  match s.laneXlate core acc size as with
  | .error f => .error f
  | .ok (l, s) =>
    match laneCheck l size (acc == .write) with
    | some f => .error f
    | none => .ok (l.map fun x => x.2, s)

/-- The faults of the lanes of vldx and vstx, each lane's 4 bytes checked for itself, in lane order. -/
def State.laneFaults (s : State) (core : Nat) (acc : Access) (as : List Word) : List AFault :=
  as.filterMap fun a => match s.laneAccess core acc 4 [a] with | .error f => some f | .ok _ => none

/-- The lowest address among faults of one code (R330, R341). -/
def lowestFault (f : AFault) (fs : List AFault) : AFault :=
  (fs.filter fun g => g.code == f.code).foldl (fun a b => if b.addr.toNat < a.addr.toNat then b else a) f

/-- The checks of vldx and vstx: each lane's 4 bytes in turn; the first lane that fails decides the code, and the lowest
address of that code is reported (R247, R341). -/
def State.lanesEach (s : State) (core : Nat) (acc : Access) : List Word → Except AFault (List Nat × State)
  | [] => .ok ([], s)
  | a :: as =>
    match s.laneAccess core acc 4 [a] with
    | .error f => .error (if f.code = 0x0005 then lowestFault f (s.laneFaults core acc as) else f)
    | .ok (ps, s) =>
      match State.lanesEach s core acc as with
      | .error f => .error f
      | .ok (qs, s) => .ok (ps ++ qs, s)

/-- The bytes of a lane in a window can be read now: the core's own pieces to that port have arrived and the registers
or tiles are at rest; a core's own registers are at rest between two instructions of its queue (R94, R95). -/
def State.laneReady (s : State) (core p size : Nat) : Bool :=
  !inWindow p ||
  (s.noPieces core (fun q => q.dst == winCore p) &&
   ((winCore p == core && decide (winOff p < 0x44200)) || s.winReady (winCore p) (winOff p) size))

/-- A vector access of the core can be performed: no line of it is engine-owned (R108, R249), and what it reads in a
window is ready. -/
def State.lanesReady (s : State) (core size : Nat) (ps : List Nat) (rd : Bool) : Bool :=
  !s.ownedIn (dieOf core) (ps.map fun p => (p, size)) && (!rd || ps.all fun p => s.laneReady core p size)

/-- The bytes of a lane, the die's copy of its line filled. -/
def State.laneLoad (s : State) (core p size : Nat) : State × Nat :=
  if inWindow p then (s, natOf ((upTo size).map fun i => s.winSeen (p + i)))
  else
    let s := s.hold core (lineOf p)
    (s, natOf ((upTo size).map fun i => s.seen (dieOf core) (p + i)))

/-- Loads of several lanes in order. -/
def State.laneLoads (s : State) (core size : Nat) : List Nat → State × List Nat
  | [] => (s, [])
  | p :: ps =>
    let (s, v) := s.laneLoad core p size
    let (s, vs) := State.laneLoads s core size ps
    (s, v :: vs)

/-- The piece of one 64-byte part of a vector access: its bytes from the first active one to the last, those between
that no active lane has left alone (R112, R246). -/
def segPiece (core ctx : Nat) (l : LaunchId) (seg : List (Nat × List Byte)) : Option Piece :=
  match seg, seg.getLast? with
  | (p, _) :: _, some (q, bs) =>
    let byte (i : Nat) : Option Byte := seg.findSome? fun w =>
      if w.1 ≤ p + i ∧ p + i < w.1 + w.2.length then some (w.2.getD (p + i - w.1) 0) else none
    let n := q + bs.length - p
    some { src := core, agent := 17, ctx := ctx, dst := winCore p, off := winOff p,
           bytes := (upTo n).map fun i => (byte i).getD 0, skip := (upTo n).filter fun i => (byte i).isNone,
           engine := true, launch := l }
  | _, _ => none

/-- The pieces of a vector access to a window, up to eight: one for each 64 bytes from its first address `p0` on that hold
an active lane (R112). -/
def segPieces (core ctx : Nat) (l : LaunchId) (p0 : Nat) (win : List (Nat × List Byte)) : List Piece :=
  (upTo 8).filterMap fun k => segPiece core ctx l (win.filter fun w => (w.1 - p0) / 64 == k)

/-- Pieces of an engine of a core go on their way to their ports (R109, R112). -/
def State.sendPieces (s : State) (ps : List Piece) : State := { s with pieces := s.pieces ++ ps }

/-- A vector store's lanes in ascending order: memory as stores of the core that enter memory order (R109), a window as
pieces of agent 17; a core's own registers change at once (R94). `first` is the physical address of the access's first
byte; none where each lane is an access of its own (R247). -/
def State.laneStores (s : State) (core : Nat) (q : QEntry) (ws : List (Nat × List Byte)) (first : Option Nat) : State :=
  let s := (ws.filter fun w => !inWindow w.1).foldl (fun s w => s.coreStore core w.1 w.2) s
  let win := ws.filter fun w => inWindow w.1
  let l := ((s.getCore core).entry q.seq).launch
  let ps := match first with
    | some p0 => segPieces core q.ctx l p0 win
    | none => win.filterMap fun w => segPiece core q.ctx l [w]
  ps.foldl (fun s p => if p.dst = core ∧ p.off < 0x44200 then s.perform p else s.sendPieces [p]) s

/-- The lanes of a vector load that are read in one step, of those at places `ps` that are left: all of them up to the next
that lies in another core's window, or the lanes of one piece there (R112). `first` is as for `laneStores`. -/
def pieceOf (core : Nat) (ps : List Nat) (first : Option Nat) : List Nat :=
  let far (p : Nat) : Bool := inWindow p && winCore p != core
  match ps with
  | [] => []
  | p :: rest =>
    if far p then
      match first with
      | some p0 => ps.takeWhile fun x => far x && (x - p0) / 64 == (p - p0) / 64
      | none => [p]
    else p :: rest.takeWhile fun x => !far x

/-- The arrival numbers of the pieces by which lanes are read (R112, R113). -/
def State.laneReads (s : State) (core : Nat) (ps : List Nat) (first : Option Nat) : State :=
  let win := ps.filter inWindow
  let starts := match first with
    | some p0 => (upTo 8).filterMap fun k => win.find? fun x => (x - p0) / 64 == k
    | none => win
  starts.foldl (fun s p => (s.reach core (winCore p)).bumpSeq (winCore p) 1) s

/-- What becomes of the head when it is tried: nothing, a part of it is done, or it is over. -/
inductive Tried where
  | wait
  | more (s : State)
  | did (s : State)
  deriving DecidableEq, Repr

/-- The active lanes or elements. -/
def activeOf (m : BitVec 128) (n stride : Nat) : List Nat := (upTo n).filter fun i => m.getLsbD (stride * i)

/-- Writes loaded values over lanes (size 4) or elements (size 8) of a register. -/
def putLanes (x : Lanes) (size : Nat) (vs : List (Nat × Nat)) : Lanes :=
  vs.foldl (fun x v =>
    if size = 4 then x.set (v.1 % 128) (BitVec.ofNat 32 v.2) (Nat.mod_lt _ (by decide))
    else (x.set (2 * v.1 % 128) (BitVec.ofNat 32 v.2) (Nat.mod_lt _ (by decide))).set ((2 * v.1 + 1) % 128)
      (BitVec.ofNat 32 (v.2 / 2 ^ 32)) (Nat.mod_lt _ (by decide))) x

/-- The bytes of lane or element i of a register. -/
def laneBytes (x : Lanes) (size i : Nat) : List Byte :=
  if size = 4 then bytesOf 4 (laneAt x i).toNat else bytesOf 8 (elemAt x i)

/-- The next step of a vector load of lanes `ids`, of which `l` says what is read: pieces from other cores' windows one by
one, as others' pieces may come between them (R112). -/
def State.loadMore (s : State) (core : Nat) (q : QEntry) (v : VReg) (size : Nat) (ids : List Nat) (first : Option Nat)
    (l : VLoad) : Tried :=
  let ps := pieceOf core (l.places.drop l.vals.length) first
  if !s.lanesReady core size ps true then .wait
  else
    let (t, vals) := (s.laneReads core ps first).laneLoads core size ps
    let l := { l with vals := l.vals ++ vals }
    if l.vals.length < l.places.length then .more (t.modCore core fun c => { c with vload := some l })
    else .did (t.vecWrite core q (.v v (putLanes ((t.getCore core).getV v.toNat) size (ids.zip l.vals)), 0))

/-- A vector access by addresses: `each` checks lane by lane (R247). A load under way goes on with the translation that it
keeps (R342). -/
def State.vecAccess (s : State) (core : Nat) (q : QEntry) (v : VReg) (size : Nat) (lanes : List (Nat × Word))
    (wr each : Bool) : Tried :=
  let ids := lanes.map fun l => l.1
  let start (ps : List Nat) : Option Nat := if each then none else some (ps.headD 0 - size * ids.headD 0)
  match (s.getCore core).vload with
  | some l => s.loadMore core q v size ids (start l.places) l
  | none =>
  let acc : Access := if wr then .write else .read
  let as := lanes.map fun l => l.2
  match (if each then s.lanesEach core acc as else s.laneAccess core acc size as) with
  | .error f => .did (s.vecFault core q f)
  | .ok (ps, t) =>
    match t.settleInv core q.ctx q.seq (ps.map fun p => (p, size)) with
    | none => .wait
    | some t =>
    if !wr then t.loadMore core q v size ids (start ps) { places := ps, vals := [] }
    else if !t.lanesReady core size ps false then .wait
    else
      let x := (t.getCore core).getV v.toNat
      let ws := (ids.zip ps).map fun l => (l.2, laneBytes x size l.1)
      .did ((t.laneStores core q ws (start ps)).vecDone core q 0)

/-- vld and vst (R246). -/
def State.vecLinear (s : State) (core : Nat) (q : QEntry) (v : VReg) (m : KReg) (imm : Word) (size : Nat) (wr : Bool) :
    Tried :=
  let va := q.a + imm * BitVec.ofNat 64 size
  if va.toNat % size ≠ 0 then .did (s.vecFault core q { code := 0x0004, info := 0, addr := va })
  else
    let k := (s.getCore core).getK m.toNat
    s.vecAccess core q v size
      ((activeOf k (512 / size) (size / 4)).map fun i => (i, va + BitVec.ofNat 64 (size * i))) wr false

/-- vldx and vstx (R247). -/
def State.vecIndexed (s : State) (core : Nat) (q : QEntry) (v b : VReg) (m : KReg) (wr : Bool) : Tried :=
  let c := s.getCore core
  let lanes := (activeOf (c.getK m.toNat) 128 1).map fun j => (j, q.a + (laneAt (c.getV b.toNat) j).signExtend 64)
  match (lanes.filter fun l => l.2.toNat % 4 != 0).map fun l => ({ code := 0x0004, info := 0, addr := l.2 } : AFault) with
  | f :: fs => .did (s.vecFault core q (lowestFault f fs))
  | [] => s.vecAccess core q v 4 lanes wr true

/-- kld and kst (R248). -/
def State.vecMask (s : State) (core : Nat) (q : QEntry) (k : KReg) (wr : Bool) : Tried :=
  let va := q.a
  if va.toNat % 16 ≠ 0 then .did (s.vecFault core q { code := 0x0004, info := 0, addr := va })
  else
    match s.laneAccess core (if wr then .write else .read) 16 [va] with
    | .error f => .did (s.vecFault core q f)
    | .ok (ps, t) =>
      match t.settleInv core q.ctx q.seq (ps.map fun p => (p, 16)) with
      | none => .wait
      | some t =>
      if !t.lanesReady core 16 ps (!wr) then .wait
      else
        let p := ps.headD 0
        if wr then
          .did ((t.laneStores core q [(p, bytesOf 16 ((t.getCore core).getK k.toNat).toNat)] (some p)).vecDone core q 0)
        else
          let (t, v) := (t.laneReads core ps (some p)).laneLoad core p 16
          .did (t.vecWrite core q (.k k (BitVec.ofNat 128 v), 0))

/-! ### Rings as engines use them (R268, R269) -/

/-- Slot size. -/
def Ring.size (r : Ring) : Nat := 2 ^ r.logSize.toNat
/-- Slot count. -/
def Ring.slots (r : Ring) : Nat := 2 ^ r.logSlots.toNat
/-- Filled count (R269). -/
def Ring.filled (r : Ring) : Nat := (r.fill - r.drain).toNat
/-- Free count (R269). -/
def Ring.free (r : Ring) : Nat := r.slots - r.filled
/-- Where byte `i` of a range lies, given its runs. -/
def locate : List (Nat × Nat) → Nat → Nat
  | [], _ => 0
  | (p, n) :: rs, i => if i < n then p + i else locate rs (i - n)
/-- Scratchpad offset of the slot that a pointer names; a slot lies in one page. -/
def Ring.slot (r : Ring) (ptr : Nat) : Nat := locate r.runs (r.size * (ptr % r.slots))
/-- Scratchpad offset of the n-th slot to drain. -/
def Ring.drainSlot (r : Ring) (n : Nat) : Nat := r.slot (r.drain.toNat + n)
/-- Scratchpad offset of the n-th slot to fill. -/
def Ring.fillSlot (r : Ring) (n : Nat) : Nat := r.slot (r.fill.toNat + n)

/-- Bytes of a core's scratchpad. -/
def State.scratchRead (s : State) (core off n : Nat) : List Byte := Memory.getAll (s.getCore core).scratch off n

/-- An engine's write of a core's own scratchpad, in pieces that take arrival numbers (R109, R113). -/
def State.scratchWrite (s : State) (core : Nat) (agent : BitVec 5) (off : Nat) (bs : List Byte) : State :=
  s.performAll (piecesOf core agent 0 true (winBase + 0x100000 * core + off) bs)

/-- The drain pointer moves by n (R269). -/
def State.drained (s : State) (core : Nat) (h : HReg) (n : Nat) : State :=
  s.modRing core h fun r => { r with drain := r.drain + BitVec.ofNat 32 n }
/-- The fill pointer moves by n (R269). -/
def State.filledBy (s : State) (core : Nat) (h : HReg) (n : Nat) : State :=
  s.modRing core h fun r => { r with fill := r.fill + BitVec.ofNat 32 n }

/-! ### Encode and decode (R260, R262, R263) -/

/-- The checks of R260 after the handle's own. -/
def encFault (g : Grove) (d : Word) (r : Ring) (enc : Bool) : Bool :=
  let o := opndA d
  let n := d.toNat
  let cap := bits n 22 17
  let user (id : Nat) : Bool := kindOf id == .user && !(g.tab (id - 28)).ordered
  decide (bits n 23 23 = 1) || decide (32 < cap) || decide (o.blocks < o.spill) ||
  ((kindOf o.fmt == .ieee || kindOf o.fmt == .int) && (cap != 0 || o.spill != 0 || decide (bits n 31 24 ≠ 0xFF))) ||
  (o.spill != 0 && !g.fallbackOk o.fmt o.fbf) || (enc && (user o.fmt || (o.spill != 0 && user o.fbf))) ||
  decide (r.size < 1024)

/-- The draw of an element under FMODE.SR (R186). -/
def drawOf (q : QEntry) (j : Nat) : Option Nat :=
  if bitAt q.fmode 5 then some ((hash (q.fmode >>> 32) (q.seq.setWidth 64) j).toNat / 256) else none

/-- venc (R262). -/
def State.vecEncode (s : State) (core : Nat) (q : QEntry) (h : HReg) (v : VReg) : Tried :=
  let c := s.getCore core
  let r := c.getRing h
  let g := s.getGrove (groveOf core)
  if !r.valid then .did (s.vecFault core q (plainFault 0x0026))
  else if encFault g q.b r true then .did (s.vecFault core q (plainFault 0x0025))
  else if r.free = 0 then .wait
  else
    let xs := (upTo 128).map fun j => fp32.num (fctl q.fmode).daz (laneAt (c.getV v.toNat) j).toNat
    let gc := g.encodeGroup (opndA q.b) (bits q.b.toNat 31 24) (bits q.b.toNat 22 17) xs (drawOf q)
    .did (((s.scratchWrite core 17 (r.fillSlot 0) gc.bytes).filledBy core h 1).vecDone core q gc.flags)

/-- vdec (R263). -/
def State.vecDecode (s : State) (core : Nat) (q : QEntry) (v : VReg) (h : HReg) : Tried :=
  let r := (s.getCore core).getRing h
  let g := s.getGrove (groveOf core)
  if !r.valid then .did (s.vecFault core q (plainFault 0x0026))
  else if encFault g q.b r false then .did (s.vecFault core q (plainFault 0x0025))
  else if r.filled = 0 then .wait
  else
    let es := (g.readGroup (opndA q.b) false (s.scratchRead core (r.drainSlot 0) 0x300)).map decoded
    let x : Lanes := Vector.ofFn fun j => BitVec.ofNat 32 (es.getD j.val (0, 0)).1
    .did ((s.drained core h 1).vecWrite core q (.v v x, es.foldl (fun f e => f ||| e.2) 0))

/-! ### The head of the vector queue (R237, R53) -/

/-- Tries the head of a core's vector queue as a vector instruction. -/
def State.vecTry (s : State) (core : Nat) : Tried :=
  match (s.getCore core).vq with
  | [] => .wait
  | q :: _ =>
    match vecValue (s.getCore core) q with
    | some r => .did (s.vecWrite core q r)
    | none =>
      match q.instr with
      | .vldW d _ m imm => s.vecLinear core q d m imm 4 false
      | .vldD d _ m imm => s.vecLinear core q d m imm 8 false
      | .vstW d _ m imm => s.vecLinear core q d m imm 4 true
      | .vstD d _ m imm => s.vecLinear core q d m imm 8 true
      | .vldxW d _ b m => s.vecIndexed core q d b m false
      | .vstxW d _ b m => s.vecIndexed core q d b m true
      | .kld d _ => s.vecMask core q d false
      | .kst d _ => s.vecMask core q d true
      | .venc h a _ => s.vecEncode core q h a
      | .vdec d h _ => s.vecDecode core q d h
      | _ => .wait

/-- The head of a core's vector queue is a vector instruction that is ready to issue (R53): it has not begun, and no replay
queue holds a piece that the vector unit of the core has sent (R422). -/
def State.eligible (s : State) (core : Nat) : Bool :=
  (s.getCore core).vload.isNone && !s.heldBack core Piece.byVector &&
  match s.vecTry core with
  | .wait => false
  | _ => true

/-- A lane group is bound to the core: its pass rises by its stride, and the passes are reduced by their least when all
exceed 2^31 (R53). A pass that passes 2^32 before that, while an idle core's stays below, wraps (log entry 141). -/
def State.bindLane (s : State) (core : Nat) : State :=
  let s := s.modCore core fun c => { c with pass := c.pass + BitVec.ofNat 32 (840 / Nat.max 1 c.share.toNat) }
  let g := groveCores core
  let ps := g.map fun c => (s.getCore c).pass.toNat
  if ps.all fun p => decide (2 ^ 31 < p) then
    let m := ps.foldl Nat.min (ps.headD 0)
    g.foldl (fun s c => s.modCore c fun x => { x with pass := x.pass - BitVec.ofNat 32 m }) s
  else s

/-- The core has the lowest pass of the eligible ones, ties to the lowest index (R53). -/
def State.bound (s : State) (core : Nat) : Bool :=
  (groveCores core).all fun c =>
    c == core || !s.eligible c || decide ((s.getCore core).pass.toNat < (s.getCore c).pass.toNat) ||
    (decide ((s.getCore core).pass = (s.getCore c).pass) && decide (core < c))

/-- mlease and mlease.rel at the head of the queue (R276). -/
def State.leaseHead (s : State) (core : Nat) (q : QEntry) : Option State :=
  match q.instr with
  | .mlease => some (if q.sys then s.popVq core else (s.popVq core).complete core q.seq)
  | .mleaseRel => some ((if q.sys then s.popVq core else (s.popVq core).complete core q.seq).endLease core)
  | _ => none

/-- The head of a core's vector queue executes: a vector instruction when the arbiter binds it, mlease and mlease.rel
at once; a load that has begun goes on. Otherwise nothing moves. -/
def execVectorInstructionExecute (core : Nat) (s : State) : Result :=
  .next (match (s.getCore core).vq with
    | [] => s
    | q :: _ =>
      match s.leaseHead core q with
      | some t => t
      | none =>
        let begun := (s.getCore core).vload.isSome
        if begun || (s.eligible core && s.bound core) then
          match (if begun then s else s.bindLane core).vecTry core with
          | .did t | .more t => t
          | .wait => s
        else s)

/-! ### Dispatch of each (R246 to R248, R262, R263) -/

/-- vld.w: its dispatch. -/
def execVldW (d : VReg) (a : SReg) (m : KReg) (imm : Word) (s : State) : Result :=
  s.dispatch .vector (.vldW d a m imm) a 0 0
/-- vld.d: its dispatch. -/
def execVldD (d : VReg) (a : SReg) (m : KReg) (imm : Word) (s : State) : Result :=
  s.dispatch .vector (.vldD d a m imm) a 0 0
/-- vst.w: its dispatch. -/
def execVstW (d : VReg) (a : SReg) (m : KReg) (imm : Word) (s : State) : Result :=
  s.dispatch .vector (.vstW d a m imm) a 0 0
/-- vst.d: its dispatch. -/
def execVstD (d : VReg) (a : SReg) (m : KReg) (imm : Word) (s : State) : Result :=
  s.dispatch .vector (.vstD d a m imm) a 0 0
/-- vldx.w: its dispatch. -/
def execVldxW (d : VReg) (a : SReg) (b : VReg) (m : KReg) (s : State) : Result :=
  s.dispatch .vector (.vldxW d a b m) a 0 0
/-- vstx.w: its dispatch. -/
def execVstxW (d : VReg) (a : SReg) (b : VReg) (m : KReg) (s : State) : Result :=
  s.dispatch .vector (.vstxW d a b m) a 0 0
/-- kld: its dispatch. -/
def execKld (d : KReg) (a : SReg) (s : State) : Result := s.dispatch .vector (.kld d a) a 0 0
/-- kst: its dispatch. -/
def execKst (d : KReg) (a : SReg) (s : State) : Result := s.dispatch .vector (.kst d a) a 0 0
/-- venc: its dispatch. -/
def execVenc (d : HReg) (a : VReg) (b : SReg) (s : State) : Result := s.dispatch .vector (.venc d a b) 0 b 0
/-- vdec: its dispatch. -/
def execVdec (d : VReg) (a : HReg) (b : SReg) (s : State) : Result := s.dispatch .vector (.vdec d a b) 0 b 0

end Sys2Proof.Machine
end

