-- ==== Sys2Proof/Machine/Matrix.lean ====
section
/-! DEFINITION. The matrix array and its lease, major 0xB (R20, R55, R56, R274 to R285). -/

namespace Sys2Proof.Machine

/-! ### The lease (R20, R55) -/

/-- A core's index in its grove. -/
def inGrove (core : Nat) : Fin 4 := ⟨core % 4, Nat.mod_lt _ (by decide)⟩

/-- The core has a standing request. -/
def Grove.requested (g : Grove) (core : Nat) : Bool := g.requests.getLsbD (core % 4)

/-- The lease is granted when the array is free (R20). -/
def execLeaseGrant (grove : Nat) (s : State) : Result := .next (s.modGrove grove Grove.grant)

/-- 8,192 core cycles of a lease have elapsed (R20). -/
def execLeaseExpiry (grove : Nat) (s : State) : Result := .next (s.modGrove grove Grove.passOn)

/-- mlease (R276): the request is placed at dispatch, and the context waits until its core holds the lease. -/
def execMlease (s : State) : Result :=
  s.dispatchWith .vector .mlease 0 0 0 fun s seq flushed =>
    if flushed then s.retire
    else
      let s := s.modGrove (groveOf s.core) fun g => { g with requests := g.requests ||| (1#4 <<< (s.core % 4)) }
      if (s.getGrove (groveOf s.core)).holder = some (inGrove s.core) then s.retire else s.waitOn .lease (some seq)

/-- mlease.rel: its dispatch (R276). -/
def execMleaseRel (s : State) : Result := s.dispatch .vector .mleaseRel 0 0 0

/-! ### What a command needs (R278 to R285) -/

/-- Rows of an mmac (R277, R281). -/
def mmacRows (d : Word) : Nat := bits d.toNat 62 56 + 1

/-- The descriptor breaks a rule of R277 and R278. -/
def descFault (g : Grove) (d : Word) (grouped : Bool) : Bool :=
  let n := d.toNat
  let bad (o : Opnd) : Bool :=
    decide (o.blocks < o.spill) ||
    (o.spill != 0 && (kindOf o.fmt == .int || !g.fallbackOk o.fmt o.fbf))
  decide (bits n 63 63 = 1) || decide (bits n 23 23 = 1) || decide (bits n 38 32 ≠ 0) ||
  (grouped && decide (bits n 62 56 ≠ 0)) || bad (opndA d) || bad (opndB d)

/-- The 16 entries of a group slot (R282). -/
def groupEntries (bs : List Byte) : List Nat := (upTo 16).map fun g => natOf ((bs.drop (4 * g)).take 4)
/-- ROWS of an entry. -/
def entryRows (e : Nat) : Nat := e % 256
/-- Rows of a group slot in all. -/
def groupTotal (es : List Nat) : Nat := es.foldl (fun a e => a + entryRows e) 0
/-- The group slot breaks a bound (R282). -/
def groupFault (es : List Nat) : Bool :=
  es.any (fun e => decide (128 < entryRows e) || decide (bits e 31 9 ≠ 0)) || decide (128 < groupTotal es)

/-- Rows per slot of mst's ring (R283). -/
def Ring.rowsPerSlot (r : Ring) : Nat := r.size / 512

/-- Slots that an accepted command is still to drain from a ring. -/
def Accepted.takes (h : HReg) (a : Accepted) : Nat :=
  match a.entry.instr with
  | .mloadW _ r => if r = h then 128 else 0
  | .mmac _ r _ => if r = h then mmacRows a.entry.b else 0
  | .mgrp _ r _ g => (if r = h then groupTotal a.group else 0) + (if g = h then 1 else 0)
  | .mloadT _ r _ => if r = h then 1 else 0
  | _ => 0

/-- Filled slots of a ring that no accepted command of the core is to drain (R275 item 2). -/
def State.filledFor (s : State) (core : Nat) (h : HReg) : Nat :=
  let as := (s.getGrove (groveOf core)).accepted.filter fun a => a.core == core
  ((s.getCore core).getRing h).filled - as.foldl (fun n a => n + a.takes h) 0

/-- Free slots of a ring that no accepted mst of the core is to fill. -/
def State.freeFor (s : State) (core : Nat) (h : HReg) : Nat :=
  let r := (s.getCore core).getRing h
  let as := (s.getGrove (groveOf core)).accepted.filter fun a =>
    a.core == core && match a.entry.instr with | .mst x _ => x == h | _ => false
  r.free - as.length * (128 / Nat.max 1 r.rowsPerSlot)

/-- The first check of R278 that fails, of those before NO_LEASE: unset handles, descriptor, ring sizes. -/
def State.matrixFault (s : State) (core : Nat) (q : QEntry) : Option (BitVec 16) :=
  let c := s.getCore core
  let g := s.getGrove (groveOf core)
  let group (r : Ring) : Bool := decide (1024 ≤ r.size)
  let check (valid desc ring : Bool) : Option (BitVec 16) :=
    if !valid then some 0x0026 else if desc then some 0x0021 else if !ring then some 0x0022 else none
  match q.instr with
  | .mloadW _ h =>
    let r := c.getRing h
    check r.valid false (group r && decide (128 ≤ r.slots))
  | .mmac _ h _ =>
    let r := c.getRing h
    check r.valid (descFault g q.b false) (group r && decide (mmacRows q.b ≤ r.slots))
  | .mgrp _ h _ gr =>
    let r := c.getRing h
    let t := c.getRing gr
    check (r.valid && t.valid) (descFault g q.b true) (group r && decide (64 ≤ t.size))
  | .mst h _ =>
    let r := c.getRing h
    check r.valid false (decide (512 ≤ r.size) && decide (r.size ≤ 65536) && decide (128 ≤ r.slots * r.rowsPerSlot))
  | .mloadT _ h _ =>
    let r := c.getRing h
    check r.valid false (group r)
  | _ => none

/-- The instruction is a matrix command (R275). -/
def isMatrix : Instr → Bool
  | .mloadW _ _ | .mswap | .mmac _ _ _ | .mgrp _ _ _ _ | .mst _ _ | .mzero _ | .mloadT _ _ _ => true
  | _ => false

/-- What a command that passed its checks does at the head: waits, faults, or is accepted with the entries of its group
slot, which are read there once (R282). -/
inductive Ready where
  | wait
  | fault (code : BitVec 16)
  | accept (group : List Nat)
  deriving DecidableEq, Repr

/-- The slots of a command are present (R275 item 2, R279 to R285). -/
def State.slotsReady (s : State) (core : Nat) (q : QEntry) : Ready :=
  let c := s.getCore core
  let when (b : Bool) (group : List Nat) : Ready := if b then .accept group else .wait
  match q.instr with
  | .mloadW _ h => when (decide (128 ≤ s.filledFor core h)) []
  | .mmac _ h _ => when (decide (mmacRows q.b ≤ s.filledFor core h)) []
  | .mgrp _ h _ gr =>
    if s.filledFor core gr = 0 then .wait
    else
      let t := c.getRing gr
      let ahead := t.filled - s.filledFor core gr
      let es := groupEntries (s.scratchRead core (t.drainSlot ahead) 64)
      if groupFault es then .fault 0x0023
      else if (c.getRing h).slots < groupTotal es then .fault 0x0022
      else when (decide (groupTotal es ≤ s.filledFor core h)) es
  | .mst h _ => when (decide (128 / (c.getRing h).rowsPerSlot ≤ s.freeFor core h)) []
  | .mloadT _ h _ => when (decide (1 ≤ s.filledFor core h)) []
  | _ => .accept []

/-- The array accepts a command: it counts against the lease and leaves the queue; mswap flips ACTIVE; the 32nd ends
the lease (R20, R275, R280). -/
def State.accept (s : State) (core : Nat) (q : QEntry) (group : List Nat) : State :=
  (s.popVq core).modGrove (groveOf core) fun g =>
    let a : Accepted := { core := core, entry := q, bank := g.active, group := group }
    let g := { g with accepted := g.accepted ++ [a], used := g.used + 1,
                      active := if q.instr = .mswap then ~~~g.active else g.active }
    if 32 ≤ g.used then g.passOn else g

/-- A matrix command at the head of a core's queue is checked, and accepted when the lease and its slots allow. -/
def execMatrixCommandAccept (core : Nat) (s : State) : Result :=
  .next (match (s.getCore core).vq with
    | [] => s
    | q :: _ =>
      if !isMatrix q.instr then s
      else
        let g := s.getGrove (groveOf core)
        match s.matrixFault core q with
        | some f => s.vecFault core q (plainFault f)
        | none =>
          if !g.requested core then s.vecFault core q (plainFault 0x0020)
          else
            match s.slotsReady core q with
            | .wait => s
            | .fault f =>
              let s := if f = 0x0023 then s.modCore core fun c => { c with fstat := c.fstat ||| flagGroup } else s
              s.vecFault core q (plainFault f)
            | .accept group => if g.holder = some (inGrove core) then s.accept core q group else s)

/-! ### What a command does (R279 to R285) -/

/-- A column image of a bank as bytes. -/
def Grove.image (g : Grove) (bank : Nat) (j : Nat) : List Byte :=
  Memory.getAll (Sparse.get [] g.banks bank) (0x300 * j) 0x300

/-- Bytes of a column image. -/
def Grove.setImage (g : Grove) (bank j : Nat) (bs : List Byte) : Grove :=
  { g with banks := g.banks.set bank (Memory.putAll (Sparse.get [] g.banks bank) (0x300 * j) bs) }

/-- Rows of a tile from rows of A, each against a bank's columns: the new tile and the flags (R281, R282). -/
def Grove.products (g : Grove) (d : Word) (t : Nat) (rows : List (List Byte × Nat)) : Sparse Lane × Flags :=
  let oa := opndA d
  let ob := opndB d
  let cols (b : Nat) : List Vec128 := (upTo 128).map fun j => g.readGroup ob (intPath oa ob) (g.image b j)
  let c0 := if rows.any fun r => r.2 == 0 then cols 0 else []
  let c1 := if rows.any fun r => r.2 == 1 then cols 1 else []
  let outs := rows.mapIdx fun i r =>
    let a := g.readGroup oa (intPath oa ob) r.1
    (if r.2 = 0 then c0 else c1).mapIdx fun j b => (128 * i + j, outElement oa ob (g.tileAt t (128 * i + j)) a b)
  let flat := outs.flatten
  (flat.map (fun x => (x.1, x.2.1)) ++ (Sparse.get [] g.tiles t).filter fun x => decide (128 * rows.length ≤ x.1),
   flat.foldl (fun f x => f ||| x.2.2) 0)

/-- The n slots of a ring from its drain pointer on. -/
def State.slots (s : State) (core : Nat) (h : HReg) (n bytes : Nat) : List (List Byte) :=
  let r := (s.getCore core).getRing h
  (upTo n).map fun i => s.scratchRead core (r.drainSlot i) bytes

/-- The command takes its whole effect (R279 to R285). -/
def State.matrixRun (s : State) (a : Accepted) : State :=
  let core := a.core
  let gi := groveOf core
  let g := s.getGrove gi
  let q := a.entry
  match q.instr with
  | .mloadW bank h =>
    let imgs := s.slots core h 128 0x300
    let s := s.modGrove gi fun g => (imgs.foldl (fun (x : Grove × Nat) b => (x.1.setImage bank.toNat x.2 b, x.2 + 1)) (g, 0)).1
    (s.drained core h 128).complete core q.seq
  | .mmac t h _ =>
    let m := mmacRows q.b
    let (tile, fl) := g.products q.b t.toNat ((s.slots core h m 0x300).map fun b => (b, a.bank.toNat))
    let s := s.modGrove gi fun g => { g with tiles := g.tiles.set t.toNat tile }
    (s.drained core h m).completeFlags core q.seq fl
  | .mgrp t h _ gr =>
    let es := a.group
    let n := groupTotal es
    let banks := es.flatMap fun e => List.replicate (entryRows e) (bits e 8 8)
    let (tile, fl) := g.products q.b t.toNat ((s.slots core h n 0x300).zip banks)
    let s := s.modGrove gi fun g => { g with tiles := g.tiles.set t.toNat tile }
    ((s.drained core h n).drained core gr 1).completeFlags core q.seq fl
  | .mst h t =>
    let r := (s.getCore core).getRing h
    let p := r.rowsPerSlot
    let s := (upTo 128).foldl (fun s row =>
      s.scratchWrite core 18 (r.fillSlot (row / p) + 0x200 * (row % p))
        ((upTo 128).flatMap fun c => bytesOf 4 (g.tileAt t.toNat (128 * row + c)).toNat)) s
    (s.filledBy core h (128 / p)).complete core q.seq
  | .mzero t => (s.modGrove gi fun g => { g with tiles := g.tiles.set t.toNat [] }).complete core q.seq
  | .mloadT tab h _ =>
    let bs := ((s.slots core h 1 1024).headD []).toArray
    let e (c : Nat) : Nat := natOf ((upTo 4).map fun i => bs.getD (4 * c + i) 0)
    let w := q.b.toNat
    let s := s.drained core h 1
    if w < 1 ∨ 8 < w ∨ (upTo 256).any fun c =>
        decide (bits (e c) 31 19 ≠ 0) || (decide (bits (e c) 17 10 = 0) && decide (bits (e c) 9 0 ≠ 0)) then
      s.lateFault core q.seq 0x0024 0 0
    else
      (s.modGrove gi fun g =>
        { g with tabs := g.tabs.set tab.toNat
                  { entries := (upTo 256).map fun c => (c, BitVec.ofNat 32 (e c)), width := w, ordered := ordered e w } })
        |>.complete core q.seq
  | _ => s.complete core q.seq

/-- The array performs its oldest accepted command, which then leaves it. -/
def execMatrixCommandComplete (grove : Nat) (s : State) : Result :=
  .next (match (s.getGrove grove).accepted with
    | [] => s
    | a :: _ => (s.matrixRun a).modGrove grove fun g => { g with accepted := g.accepted.drop 1 })

/-! ### Dispatch of each -/

/-- mload.w: its dispatch (R279). -/
def execMloadW (bank : BitVec 1) (h : HReg) (s : State) : Result := s.dispatch .vector (.mloadW bank h) 0 0 0
/-- mswap: its dispatch (R280). -/
def execMswap (s : State) : Result := s.dispatch .vector .mswap 0 0 0
/-- mmac: its dispatch (R281). -/
def execMmac (tile : Tile) (h : HReg) (b : SReg) (s : State) : Result := s.dispatch .vector (.mmac tile h b) 0 b 0
/-- mgrp: its dispatch (R282). -/
def execMgrp (tile : Tile) (h : HReg) (b : SReg) (g : HReg) (s : State) : Result :=
  s.dispatch .vector (.mgrp tile h b g) 0 b 0
/-- mst: its dispatch (R283). -/
def execMst (h : HReg) (tile : Tile) (s : State) : Result := s.dispatch .vector (.mst h tile) 0 0 0
/-- mzero: its dispatch (R284). -/
def execMzero (tile : Tile) (s : State) : Result := s.dispatch .vector (.mzero tile) 0 0 0
/-- mload.t: its dispatch (R285). -/
def execMloadT (table : BitVec 2) (h : HReg) (b : SReg) (s : State) : Result :=
  s.dispatch .vector (.mloadT table h b) 0 b 0

end Sys2Proof.Machine
end

