-- ==== Sys2Proof/Machine/Copy.lean ====
section
/-! DEFINITION. The ring unit, the copy engine and the event queue, major 0xC (R268 to R273, R286 to R291). -/

namespace Sys2Proof.Machine

/-! ### The ring unit (R267, R270 to R273, R289, R291) -/

/-- The oldest instruction of a context in the core's ring unit. -/
def State.ringFirst (s : State) (core ctx : Nat) : Option QEntry := (s.getCore core).ru.find? fun q => q.ctx == ctx

/-- Instruction `e` was dispatched before `q`. -/
def QEntry.before (e q : QEntry) : Bool := e.seq != q.seq && decide ((q.seq - e.seq).toNat < 0x8000)

/-- An instruction of the vector queue, dispatched before this one of the control context, has not completed (R270,
R273). -/
def State.vecAhead (s : State) (core : Nat) (q : QEntry) : Bool :=
  q.ctx == 0 &&
  ((s.getCore core).vq.any (fun e => e.before q) ||
   (s.getGrove (groveOf core)).accepted.any fun a => a.core == core && a.entry.before q)

/-- The instruction leaves the ring unit. -/
def State.popRu (s : State) (core : Nat) (q : QEntry) : State :=
  s.modCore core fun c => { c with ru := c.ru.filter fun e => !(e.seq == q.seq) }

/-- The instruction ends in a late fault. -/
def State.ringFault (s : State) (core : Nat) (q : QEntry) (f : AFault) : Tried :=
  .did ((s.popRu core q).lateFault core q.seq f.code f.info f.addr)

/-- The instruction completes. -/
def State.ringEnd (s : State) (core : Nat) (q : QEntry) : Tried := .did ((s.popRu core q).complete core q.seq)

/-- Where a run of a ring lies in the issuing core's scratchpad, if it lies there wholly (R270). -/
def scratchRun (core : Nat) (r : Nat × Nat) : Option (Nat × Nat) :=
  if inWindow r.1 ∧ winCore r.1 = core ∧ winOff r.1 + r.2 ≤ 0x40000 then some (winOff r.1, r.2) else none

/-- hset (R270). -/
def State.ringSet (s : State) (core : Nat) (q : QEntry) (h : HReg) : Tried :=
  let g := q.b.toNat
  let ls := bits g 15 8
  let ln := bits g 7 0
  let n := 2 ^ (ls + ln)
  if bits g 63 16 ≠ 0 ∨ ls < 5 ∨ 16 < ls ∨ 8 < ln ∨ q.a.toNat % 2 ^ ls ≠ 0 then s.ringFault core q (plainFault 0x0027)
  else
    match s.xlateRange core .atomic (n / 65536 + 2) q.a n with
    | .error f => s.ringFault core q f
    | .ok (rs, t) =>
      if rs.any fun r => (scratchRun core r).isNone then s.ringFault core q (plainFault 0x0027)
      else if s.vecAhead core q then .wait
      else
        (t.modRing core h fun _ =>
          { base := q.a, runs := rs.filterMap (scratchRun core), fill := 0, drain := 0, valid := true,
            logSize := BitVec.ofNat 8 ls, logSlots := BitVec.ofNat 8 ln }).ringEnd core q

/-- The field of a handle that hget reads; 0 of an unset one (R271). -/
def Ring.field (r : Ring) (f : HField) : Word :=
  if !r.valid then 0
  else
    match f with
    | .base => r.base
    | .fill => r.fill.setWidth 64
    | .drain => r.drain.setWidth 64
    | .count => BitVec.ofNat 64 r.filled
    | .geometry => BitVec.ofNat 64 (Ring.bits r % 2 ^ 17)

/-- hwait: its count is present (R272). -/
def State.ringWait (s : State) (core : Nat) (q : QEntry) (h : HReg) (c : Word) (full : Bool) : Tried :=
  let r := (s.getCore core).getRing h
  if !r.valid then s.ringFault core q (plainFault 0x0026)
  else if r.slots < c.toNat then s.ringFault core q (plainFault 0x0028)
  else if c.toNat ≤ (if full then r.filled else r.free) then s.ringEnd core q
  else .wait

/-- hadv moves a pointer (R273). -/
def State.ringMove (s : State) (core : Nat) (q : QEntry) (h : HReg) (c : Word) (fill : Bool) : Tried :=
  let r := (s.getCore core).getRing h
  if s.vecAhead core q then .wait
  else if !r.valid then s.ringFault core q (plainFault 0x0026)
  else if fill then
    if r.free < c.toNat then s.ringFault core q (plainFault 0x0029)
    else (s.filledBy core h c.toNat).ringEnd core q
  else if r.filled < c.toNat then s.ringFault core q (plainFault 0x002A)
  else (s.drained core h c.toNat).ringEnd core q

/-- The two registers of an event-queue instruction (R291). -/
def State.eventWrite (s : State) (core ctx : Nat) (d a : SReg) (bits : BitVec 128) : State :=
  (s.lateWr core ctx d (bits.setWidth 64)).lateWr core ctx a ((bits >>> 64).setWidth 64)

/-- evwait and evtry: the oldest record leaves the queue (R291). -/
def State.eventTake (s : State) (core : Nat) (q : QEntry) (d a : SReg) (waits : Bool) : Tried :=
  match (s.getCore core).events with
  | e :: rest =>
    ((s.modCore core fun c => { c with events := rest }).eventWrite core q.ctx d a e.bits).ringEnd core q
  | [] => if waits then .wait else (s.eventWrite core q.ctx d a 0).ringEnd core q

/-- What an instruction of the ring unit does when it is its context's oldest there. cpwait compares with ISSUED as it
was at dispatch (R289). -/
def State.ringDo (s : State) (core : Nat) (q : QEntry) : Tried :=
  match q.instr with
  | .hset h _ _ => s.ringSet core q h
  | .hget d h f => (s.lateWr core q.ctx d (((s.getCore core).getRing h).field f)).ringEnd core q
  | .hwaitF h _ imm => s.ringWait core q h (q.a + imm) true
  | .hwaitE h _ imm => s.ringWait core q h (q.a + imm) false
  | .hadvP h _ imm => s.ringMove core q h (q.a + imm) true
  | .hadvC h _ imm => s.ringMove core q h (q.a + imm) false
  | .evwait d a => s.eventTake core q d a true
  | .evtry d a => s.eventTake core q d a false
  | .cpwait ch _ =>
    if q.b.toNat < q.a.toNat then s.ringFault core q (plainFault 0x002B)
    else if q.a.toNat ≤ Sparse.get 0 (s.getCore core).completed ch.toNat then s.ringEnd core q
    else .wait
  | _ => .wait

/-- The context is WAITING on the instruction (R433). -/
def Ctx.waitsFor (x : Ctx) (seq : BitVec 16) : Bool :=
  match x.wait with
  | some { seq := some q, .. } => q == seq
  | _ => false

/-- The oldest instruction of a context in the ring unit takes effect, if it can. A context that waits on it completes
the instruction in the same step, unless it is halted or a trap comes first (R331); a wake that was kept while it was halted
completes it now (R41, R43). -/
def State.ringStep (s : State) (core ctx : Nat) : State :=
  match s.ringFirst core ctx with
  | none => s
  | some q =>
    let x := s.getCtx core ctx
    if x.waitsFor q.seq && (x.mode != .waiting || s.trapDue core ctx) then s
    else
      let s' := if x.waitsFor q.seq then (s.on core ctx).retire else s
      match if x.waitsFor q.seq && x.woken then s'.ringEnd core q else s'.ringDo core q with
      | .wait => s
      | .did t | .more t => t

/-- A held instruction of the ring unit takes effect once its condition holds. -/
def execRingUnitPerform (core ctx : Nat) (s : State) : Result := .next (s.ringStep core ctx)

/-- Dispatch to the ring unit of an instruction that retires and takes effect at once unless it is held. -/
def State.ringHeld (s : State) (i : Instr) (a b : SReg) : Result :=
  s.dispatchWith .ring i a b 0 fun s _ _ => s.retire.ringStep s.core s.ctx

/-- Dispatch to the ring unit of an instruction that the context waits for (R41). -/
def State.ringWaits (s : State) (i : Instr) (a : SReg) (obj : Word → WaitObj) : Result :=
  s.dispatchWith .ring i a 0 0 fun s seq _ => (s.waitOn (obj (s.rd a)) (some seq)).ringStep s.core s.ctx

/-- hset (R270). -/
def execHset (d : HReg) (a b : SReg) (s : State) : Result := s.ringHeld (.hset d a b) a b
/-- hget (R271). -/
def execHget (d : SReg) (a : HReg) (field : HField) (s : State) : Result := s.ringHeld (.hget d a field) 0 0
/-- hwait.f (R272). -/
def execHwaitF (d : HReg) (a : SReg) (imm : Word) (s : State) : Result :=
  s.ringWaits (.hwaitF d a imm) a fun x => .ringFull d (x + imm).toNat
/-- hwait.e (R272). -/
def execHwaitE (d : HReg) (a : SReg) (imm : Word) (s : State) : Result :=
  s.ringWaits (.hwaitE d a imm) a fun x => .ringFree d (x + imm).toNat
/-- hadv.p (R273). -/
def execHadvP (d : HReg) (a : SReg) (imm : Word) (s : State) : Result := s.ringHeld (.hadvP d a imm) a 0
/-- hadv.c (R273). -/
def execHadvC (d : HReg) (a : SReg) (imm : Word) (s : State) : Result := s.ringHeld (.hadvC d a imm) a 0
/-- evwait (R291). -/
def execEvwait (d a : SReg) (s : State) : Result := s.ringWaits (.evwait d a) 0 fun _ => .events d a
/-- evtry (R291). -/
def execEvtry (d a : SReg) (s : State) : Result := s.ringHeld (.evtry d a) 0 0

/-- cpwait (R289): it captures ISSUED with its operand. -/
def execCpwait (ch : BitVec 2) (a : SReg) (s : State) : Result :=
  .next (s.begin [a] [] fun s =>
    let n := s.rd a
    s.enqueue .ring (.cpwait ch a) n (BitVec.ofNat 64 (Sparse.get 0 s.me.issued ch.toNat)) 0 fun s seq _ =>
      (s.waitOn (.copy ch n.toNat) (some seq)).ringStep s.core s.ctx)

/-! ### The copy engine (R286 to R288) -/

/-- LENGTH of the length word (R287). -/
def CopyReq.len (r : CopyReq) : Nat := bits r.lw.toNat 47 0
/-- EVENT. -/
def CopyReq.event (r : CopyReq) : Bool := bitAt r.lw 63
/-- ADV. -/
def CopyReq.adv (r : CopyReq) : Bool := bitAt r.lw 62
/-- HANDLE. -/
def CopyReq.handle (r : CopyReq) : HReg := BitVec.ofNat 4 (bits r.lw.toNat 51 48)
/-- The length word breaks R287. -/
def badLength (lw : Word) : Bool := decide (bits lw.toNat 61 52 ≠ 0) || (!bitAt lw 62 && decide (bits lw.toNat 51 48 ≠ 0))

/-- The first request of a channel. -/
def Core.copyHead (c : Core) (ch : BitVec 2) : Option CopyReq := c.copies.find? fun r => r.ch == ch

/-- Changes a request, named by its sequence number. -/
def State.modCopy (s : State) (core : Nat) (seq : BitVec 16) (f : CopyReq → CopyReq) : State :=
  s.modCore core fun c => { c with copies := c.copies.map fun r => if r.seq = seq then f r else r }

/-- The destination lines become the engine's at dispatch, where they translate (R108). -/
def State.ownDest (s : State) (seq : BitVec 16) (dst lw : Word) : State :=
  let n := bits lw.toNat 47 0
  if badLength lw then s
  else
    match s.xlateRange s.core .write (n / 65536 + 2) dst n with
    | .error _ => s
    | .ok (rs, t) => t.takeLines s.core seq rs

/-- The window checks of R92 that a copy makes at dispatch, where its ranges translate: the first that fails. -/
def State.copyEarly (s : State) (core : Nat) (dst src lw : Word) : Option (BitVec 16 × Word) :=
  let n := bits lw.toNat 47 0
  match s.xlateRange core .read (n / 65536 + 2) src n, s.xlateRange core .write (n / 65536 + 2) dst n with
  | .ok (rs, _), .ok (ws, _) =>
    ((winCheck rs src n false).or (winCheck ws dst n true)).map fun f => (f.code, f.addr)
  | _, _ => none

/-- cpq (R288): the request enters the FIFO and its identifier is written. -/
def execCpq (ch : BitVec 2) (d a b : SReg) (c : CReg) (s : State) : Result :=
  .next (if s.isBound d then s.illegal
    else s.begin [a, b, c.setWidth 5] [d] fun s =>
      let me := s.me
      if 8 ≤ me.copies.length ∨ me.dringBusy ∨ !s.drainable s.core s.ctx then s
      else
        let id := (Sparse.get 0 me.issued ch.toNat + 1) % 2 ^ 64
        let r : CopyReq :=
          { id := id, ch := ch, dst := s.rd a, src := s.rd b, lw := s.rdC c, seq := me.seq, ctx := s.ctx,
            unit := me.units, stage := .queued, down := false, done := 0, srcRuns := [], dstRuns := [], fault := 0,
            early := s.copyEarly s.core (s.rd a) (s.rd b) (s.rdC c), buf := [], whole := false }
        let s := (s.drainCtx s.core s.ctx).numbered (.cpq ch d a b c)
        let s := s.modMe fun c => { c with issued := c.issued.set ch.toNat id, copies := c.copies ++ [r] }
        (s.ownDest r.seq r.dst r.lw).result d (BitVec.ofNat 64 id))

/-- The copy ends in a fault before a byte moves: a late fault (R288). -/
def State.copyFault (s : State) (core : Nat) (r : CopyReq) (f : AFault) : State :=
  (s.modCopy core r.seq fun r => { r with stage := .ended, fault := f.code }).lateFault core r.seq f.code f.info f.addr

/-- Some byte of the destination lies, in memory, at a byte of the source that `later` says is read after it is written:
one further on when the engine ascends, one further back when it descends. -/
def writesInto (later : Nat → Nat → Bool) (dst src : Runs) : Bool :=
  let place (rs : Runs) : List (Nat × Nat × Nat) :=
    (rs.foldl (fun (acc : List (Nat × Nat × Nat) × Nat) r => (acc.1 ++ [(acc.2, r.1, r.2)], acc.2 + r.2)) ([], 0)).1
  (place dst).any fun d => (place src).any fun x =>
    decide (d.2.1 < x.2.1 + x.2.2) && decide (x.2.1 < d.2.1 + d.2.2) && later (d.1 + x.2.1) (x.1 + d.2.1)

/-- Ascending chunks would write a byte before it is read. -/
def ascendsInto (dst src : Runs) : Bool := writesInto (fun d x => decide (d < x)) dst src
/-- Descending chunks would. -/
def descendsInto (dst src : Runs) : Bool := writesInto (fun d x => decide (x < d)) dst src

/-- The checks of a copy at its turn (R288): source pages, destination pages, windows of each. A window check that failed
at dispatch decides as then (R92, log entry 130). -/
def State.copyChecks (s : State) (core : Nat) (r : CopyReq) : Except AFault (Runs × Runs × State) :=
  let n := r.len
  if badLength r.lw then .error (plainFault 0x002B)
  else
    match s.xlateRange core .read (n / 65536 + 2) r.src n with
    | .error f => .error f
    | .ok (src, s) =>
      match s.xlateRange core .write (n / 65536 + 2) r.dst n with
      | .error f => .error f
      | .ok (dst, s) =>
        match r.early, (winCheck src r.src n false).or (winCheck dst r.dst n true) with
        | some (code, a), _ => .error { code := code, info := 0, addr := a }
        | none, some f => .error f
        | none, none => .ok (src, dst, s)

/-- The runs of the n bytes from byte `off` of a range on. -/
def sliceRuns : Runs → Nat → Nat → Runs
  | [], _, _ => []
  | (p, k) :: rs, off, n =>
    if n = 0 then []
    else if k ≤ off then sliceRuns rs (off - k) n
    else
      let m := min n (k - off)
      (p + off, m) :: sliceRuns rs 0 (n - m)

/-- The windows that a chunk reads are at rest, and the core's earlier pieces have arrived there (R94, R95, R112). -/
def State.copyReady (s : State) (core : Nat) (src : Runs) : Bool :=
  src.all fun r =>
    !inWindow r.1 ||
    (s.noPieces core (fun q => q.dst == winCore r.1) && s.winReady (winCore r.1) (winOff r.1) r.2)

/-- Writes of the copy engine: memory at the LLC (R109), windows as pieces of agent 16, marked with their channel and
their launch. -/
def State.copyWrite (s : State) (core : Nat) (r : CopyReq) (dst : Runs) (bs : List Byte) : State :=
  let l := ((s.getCore core).entry r.seq).launch
  (cutRuns dst bs).foldl (fun s x =>
    if inWindow x.1 then
      s.sendPieces ((piecesOf core 16 (11 + r.ch.toNat) true x.1 x.2).map fun p => { p with launch := l })
    else (s.onLines [(x.1, x.2.length)] fun s l => s.flushLine (dieOf core) l).writeLlc x.1 x.2) s

/-- Bytes of the chunk that is next, at most 4 KiB. -/
def CopyReq.chunk (r : CopyReq) : Nat := min 4096 (r.len - r.done)
/-- Where the chunk that is next begins in the ranges. -/
def CopyReq.chunkAt (r : CopyReq) : Nat := if r.down then r.len - r.done - r.chunk else r.done
/-- Bytes that the engine reads before it writes: the chunk, or the whole source. -/
def CopyReq.want (r : CopyReq) : Nat := if r.whole then r.len else r.chunk

/-- The engine reads the next 64-byte piece of the source (R107, R111), or none while it is not ready. -/
def State.copyRead (s : State) (core : Nat) (r : CopyReq) : Option (State × CopyReq) :=
  let src := sliceRuns r.srcRuns ((if r.whole then 0 else r.chunkAt) + r.buf.length) (min 64 (r.want - r.buf.length))
  if !s.copyReady core src then none
  else
    let r := { r with buf := r.buf ++ s.seenRuns (dieOf core) s.winSeen src }
    some ((s.readRuns core src).modCopy core r.seq fun _ => r, r)

/-- The chunk that is next is written, and the lines that are written whole are the die's again (R108). -/
def State.copyPut (s : State) (core : Nat) (r : CopyReq) : State :=
  let n := r.chunk
  let at_ := r.chunkAt
  let dst := sliceRuns r.dstRuns at_ n
  let left := if r.down then sliceRuns r.dstRuns 0 at_ else sliceRuns r.dstRuns (at_ + n) (r.len - at_ - n)
  let bs := (if r.whole then r.buf.drop r.done else r.buf).take n
  ((s.copyWrite core r dst bs).releaseRange core r.seq dst left).modCopy core r.seq fun r =>
    { r with done := r.done + n, buf := if r.whole then r.buf else [],
             stage := if r.len ≤ r.done + n then .ended else .moving }

/-- One step of a checked copy: a piece is read, and the chunk is written once the engine holds what it is to read before
(R288). None while its source is not ready. -/
def State.copyGo (s : State) (core : Nat) (r : CopyReq) : Option State :=
  if r.buf.length < r.want then
    match s.copyRead core r with
    | none => none
    | some (s, r) => some (if r.buf.length < r.want then s else s.copyPut core r)
  else some (s.copyPut core r)

/-- A step of a checked copy; none while pieces that the copy engine has sent are on their way: it stalls behind one that a
replay queue holds (R422). -/
def State.copyMove (s : State) (core : Nat) (r : CopyReq) : Option State :=
  if s.noPieces core Piece.byCopy then s.copyGo core r else none

/-- The copy stands within a chunk that it is reading. -/
def CopyReq.inChunk (r : CopyReq) : Bool :=
  r.stage == .moving && decide (r.buf.length < r.want) && r.buf.length % 4096 != 0

/-- A step of a channel's copy, and the turn: it passes on after each chunk, and when the copy has to wait (R286). -/
def State.copyStep (s : State) (core : Nat) (ch : BitVec 2) (r : CopyReq) : State :=
  let (s, moved) := match s.copyMove core r with
    | some t => (t, true)
    | none => (s, false)
  s.modCore core fun c =>
    { c with copyTurn := if moved && ((c.copyHead ch).map CopyReq.inChunk).getD false then ch else ch + 1 }

/-- The channel whose first request has a chunk to move, in round-robin order from the turn on (R286). -/
def Core.copyNext (c : Core) : Option (BitVec 2) :=
  [c.copyTurn, c.copyTurn + 1, c.copyTurn + 2, c.copyTurn + 3].find? fun ch =>
    match c.copyHead ch with
    | some r => r.stage == .queued || r.stage == .moving
    | none => false

/-- The copy engine moves on with the first copy of a channel when its turn has come; the first turn makes the checks and
picks the direction (R288). -/
def execCopyChunk (core : Nat) (ch : BitVec 2) (s : State) : Result :=
  .next (
    let c := s.getCore core
    if c.copyNext ≠ some ch then s
    else
      match c.copyHead ch with
      | none => s
      | some r =>
        if r.stage = .moving then s.copyStep core ch r
        else
          match s.copyChecks core r with
          | .error f => (s.copyFault core r f).modCore core fun c => { c with copyTurn := ch + 1 }
          | .ok (src, dst, s) =>
            let up := ascendsInto dst src
            let cross := up && descendsInto dst src
            let r :=
              { r with srcRuns := src, dstRuns := dst, down := if r.done = 0 then up && !cross else r.down,
                       whole := r.done == 0 && cross, stage := .moving }
            (s.modCopy core r.seq fun _ => r).copyStep core ch r)

/-! ### The end of a copy and the event queue (R288, R290) -/

/-- The event record of a copy (R290). -/
def CopyReq.record (r : CopyReq) : BitVec 128 :=
  BitVec.ofNat 128 (r.id * 2 ^ 64 + (if r.fault = 0 then 1 else 2) * 2 ^ 56 + r.ch.toNat * 2 ^ 54 +
    r.seq.toNat * 2 ^ 32 + r.ctx * 2 ^ 28 + r.fault.toNat)

/-- COMPLETED passes the copy's identifier and the request leaves (R288). -/
def State.copyDone (s : State) (core : Nat) (r : CopyReq) : State :=
  let s := s.modCore core fun c =>
    { c with completed := c.completed.set r.ch.toNat r.id, copies := c.copies.filter fun x => !(x.seq == r.seq) }
  s.complete core r.seq

/-- The record enters the event queue if there is room, and the copy is done; else it waits in the engine (R290). -/
def State.copyPost (s : State) (core : Nat) (r : CopyReq) : State :=
  let c := s.getCore core
  if 256 ≤ c.events.length then s.modCopy core r.seq fun r => { r with stage := .posting }
  else
    (s.modCore core fun c =>
      { c with events := c.events ++ [{ n := c.eventCount, bits := r.record }], eventCount := c.eventCount + 1 })
      |>.copyDone core r

/-- The ring advance of ADV, or its late fault (R288). -/
def State.copyAdvance (s : State) (core : Nat) (r : CopyReq) : State × CopyReq :=
  let ring := (s.getCore core).getRing r.handle
  if r.fault ≠ 0 ∨ !r.adv then (s, r)
  else if ring.valid && decide (0 < ring.free) then (s.filledBy core r.handle 1, r)
  else
    let f := plainFault (if ring.valid then 0x0029 else 0x0026)
    (s.copyFault core r f, { r with fault := f.code })

/-- The first copy of a channel ends, once its pieces have arrived: ring advance, event record, COMPLETED. One that a
cancel stopped or removed leaves FLUSHED in its dispatch-ring entry (R32, R288). -/
def execCopyComplete (core : Nat) (ch : BitVec 2) (s : State) : Result :=
  .next (match (s.getCore core).copyHead ch with
    | none => s
    | some r =>
      if r.stage ≠ .ended ∨ !(s.noPieces core fun p => p.ctx == 11 + ch.toNat) then s
      else
        let s := if r.fault = 0x0041 then s.flushSeq core r.seq else s
        let (s, r) := s.copyAdvance core r
        if r.event then s.copyPost core r else s.copyDone core r)

/-- A record that waits in the engine enters the event queue once there is room (R290). -/
def execEventRecordPost (core : Nat) (ch : BitVec 2) (s : State) : Result :=
  .next (match (s.getCore core).copyHead ch with
    | none => s
    | some r => if r.stage = .posting then s.copyPost core r else s)

end Sys2Proof.Machine
end

