-- ==== Sys2Proof/Machine/Code.lean ====
section
/-! DEFINITION. The words that a step fetches (R35, R137, R139, R155, R371): the code image and its granule map, the
instruction cache, and the address after an instruction. -/

namespace Sys2Proof

/-- A helper may issue the instruction (R35): majors 0x0 to 0x7 and 0xC, and of major 0xF what R35 lists. What has no
encoding is no instruction of a program. -/
def Instr.helperMay (i : Instr) : Bool :=
  match i with
  | .pput _ _ _ | .ptake _ _ _ | .ptakeW _ _ _ | .pcancel _ _ _ | .trap _ | .eret | .cget _ _ | .cput _ _ | .hexit => true
  | _ => i.fields.isNone || (let m := i.word.toNat / 4096; decide (m ≤ 7) || decide (m = 12))

namespace Machine

/-- The word lies in a granule that the map marks as data (R155, R371), or why the map cannot be read. -/
def State.granuleData (s : State) (va : Word) : Except XFault Bool :=
  let d := s.mine.desc
  let off := (va - d.code).toNat
  if d.codeLen.toNat ≤ off then .ok false
  else
    let at_ := d.gmap + BitVec.ofNat 64 (off / 512)
    match s.xlate s.core at_ .read with
    | .error f => .error f
    | .ok e =>
      let pa := e.phys at_
      .ok ((if inWindow pa then s.winSeen pa else s.seen s.die pa).getLsbD (off / 64 % 8))

/-- The bytes of runs as a fetch sees them. -/
def State.fetchBytes (s : State) (runs : Runs) : List Byte :=
  runs.flatMap fun r => (upTo r.2).map fun i => if inWindow (r.1 + i) then s.winSeen (r.1 + i) else s.seen s.die (r.1 + i)

/-- The instruction cache holds the lines of some runs: 64 KiB in lines of 32 bytes, the oldest leaving a full one. What a
fetch sees is the die's coherent copy (R16, log entry 15). -/
def State.keepCode (s : State) (runs : Runs) : State :=
  s.onLines runs fun s l => s.modMe fun c => { c with icache := keepIn 2048 c.icache l }

/-- Fetches one halfword (R155). Where translation fails too, that fault comes before FETCH_DATA (log entry 133). -/
def State.fetchWord (s : State) (va : Word) : Except AFault (BitVec 16 × State) :=
  match s.access s.core .fetch va 2 with
  | .error f => .error f
  | .ok (rs, s) =>
    match s.granuleData va with
    | .error f => .error { code := 0x0005, info := f.info, addr := va }
    | .ok true => .error { code := 0x0002, info := 0, addr := va }
    | .ok false => .ok (BitVec.ofNat 16 (natOf (s.fetchBytes rs)), s.keepCode rs)

/-- Fetches the words of the instruction at an address: up to its base word, or five (R139). -/
def State.fetchWords (s : State) : Nat → Word → Except AFault (List (BitVec 16) × State)
  | 0, _ => .ok ([], s)
  | n + 1, va =>
    match s.fetchWord va with
    | .error f => .error f
    | .ok (w, s) =>
      if isPre w then
        match State.fetchWords s n (va + 2) with
        | .error f => .error f
        | .ok (ws, s) => .ok (w :: ws, s)
      else .ok ([w], s)

/-- The address after the instruction at an address, whose words are fetched (R137, R153). -/
def State.fetchNext (s : State) (va : Word) : Except AFault (Word × State) :=
  match s.fetchWords 5 va with
  | .error f => .error f
  | .ok (ws, s) => .ok (va + BitVec.ofNat 64 (2 * ws.length), s)

/-- The step holds the address after NNPC, for which it fetches that instruction's words. -/
def State.withNext (s : State) : Except AFault State :=
  match s.fetchNext s.cx.nnpc with
  | .error f => .error f
  | .ok (a, s) => .ok (s.modCx fun x => { x with nextAddr := a })

/-- A fetch fault before anything else happens (R155). A chain that this step has formed is saved as it was before, not
yet formed (R432). -/
def State.fetchFault (s : State) (fresh : Bool) (f : AFault) : State :=
  (if fresh then s.modCx fun x => x.sequential x.pc else s).takeFault f.code f.info f.addr

end Machine

end Sys2Proof
end

