-- ==== Sys2Proof/Machine/Fabric.lean ====
section
/-! DEFINITION. The analogue fabric, major 0xD (R119 to R135, R292 to R297): claims, configuration, runs, samples and
the journal. -/

namespace Sys2Proof.Machine

/-! ### The gang (R119, R120, R123) -/

/-- The stands of a mask, ascending. -/
def standsOf (mask : BitVec 16) : List Nat := (upTo 16).filter fun i => mask.getLsbD i

/-- Gang integrators of the core's gang (R120). -/
def Core.gangSize (c : Core) : Nat := 64 * (standsOf c.fab.claim).length

/-- The stand of gang integrator `j`. -/
def Core.standOf (c : Core) (j : Nat) : Nat := (standsOf c.fab.claim).getD (j / 64) 0

/-- Gang integrator `j` of a core. -/
def State.integ (s : State) (core j : Nat) : Integ :=
  Sparse.get Integ.reset (Sparse.get [] (s.getDie (dieOf core)).stands ((s.getCore core).standOf j)) (j % 64)

/-- Changes gang integrator `j`. -/
def State.modInteg (s : State) (core j : Nat) (f : Integ → Integ) : State :=
  let st := (s.getCore core).standOf j
  s.modDie (dieOf core) fun d =>
    let m := Sparse.get [] d.stands st
    { d with stands := Sparse.set d.stands st (Sparse.set m (j % 64) (f (Sparse.get Integ.reset m (j % 64)))) }

/-- Every named stand is unclaimed (R119). -/
def State.standsFree (s : State) (core : Nat) (mask : BitVec 16) : Bool :=
  (standsOf mask).all fun st => !Sparse.has (s.getDie (dieOf core)).owner st

/-- The stands become the core's gang, with the reset parameters and no run (R119, R125). -/
def State.takeStands (s : State) (core : Nat) (mask : BitVec 16) : State :=
  let s := s.modDie (dieOf core) fun d =>
    { d with owner := (standsOf mask).foldl (fun (m : Sparse Nat) st => m.set st core) d.owner }
  s.modCore core fun c => { c with fab := { Fabric.reset with claim := mask } }

/-! ### Configuration (R123, R294) -/

/-- A configuration word passes the checks for a gang of `n` integrators. -/
def configOk (n w : Nat) : Bool :=
  decide (bits w 59 50 < n) &&
  match bits w 63 60 with
  | 1 => decide (bits w 27 12 = 0) && decide (bits w 37 28 < n)
  | 2 => decide (bits w 49 12 = 0)
  | 3 => decide (bits w 49 14 = 0)
  | 4 => decide (bits w 49 1 = 0)
  | _ => false

/-- The summer input that a word of KIND 1 gives. -/
def inputOf (w : Nat) : Input :=
  { enabled := decide (bits w 46 46 = 1), mult := BitVec.ofNat 8 (bits w 45 38),
    source := BitVec.ofNat 10 (bits w 37 28), coef := BitVec.ofNat 12 (bits w 11 0) }

/-- Applies a configuration word. -/
def State.configure (s : State) (core w : Nat) : State :=
  s.modInteg core (bits w 59 50) fun x =>
    match bits w 63 60 with
    | 1 => { x with inputs := Sparse.set x.inputs (bits w 49 47) (inputOf w) }
    | 2 => { x with bias := BitVec.ofNat 12 w }
    | 3 => { x with init := BitVec.ofNat 14 w }
    | _ => { x with active := decide (w % 2 = 1) }

/-- The enabled inputs of a gang integrator's summer. -/
def Integ.enabled (x : Integ) : List Input := (x.inputs.map fun i => i.2).filter fun i => i.enabled

/-- No value is listed twice. -/
def distinct : List Nat → Bool
  | [] => true
  | x :: xs => !xs.contains x && distinct xs

/-- afrun may start: an active integrator, sources inside the gang, one enabled input per multiplier (R126). -/
def State.runOk (s : State) (core : Nat) : Bool :=
  let n := (s.getCore core).gangSize
  let all := upTo n
  all.any (fun j => (s.integ core j).active) &&
  (all.all fun j => (s.integ core j).enabled.all fun i => decide (i.source.toNat < n)) &&
  ((upTo (n / 64)).all fun k =>
    distinct ((upTo 64).flatMap fun i => (s.integ core (64 * k + i)).enabled.map fun x => x.mult.toNat))

/-! ### The end of a run (R127, R128, R131) -/

/-- Nanoseconds of one τ (R125). -/
def Fabric.tauNs (f : Fabric) : Nat := 1000 * 4 ^ f.tau.toNat

/-- Nanoseconds since the run started. -/
def State.runTime (s : State) (f : Fabric) : Nat := (s.time - f.start).toNat

/-- The least k with x ≤ 2^k, for x ≥ 1. -/
def logCeil (x : Nat) : Nat := if x ≤ 1 then 0 else Nat.log2 (x - 1) + 1

/-- The residual of active integrator `j` in units of 2^-24 (R128). -/
def State.residual (s : State) (core : Nat) (codes : List (BitVec 14)) (j : Nat) : Int :=
  let x := s.integ core j
  x.enabled.foldl (fun acc i => acc + i.coef.toInt * (codes.getD i.source.toNat 0).toInt) (8192 * x.bias.toInt)

/-- g of the active integrators of a settled run (R128). -/
def State.digitsOf (s : State) (core : Nat) (codes : List (BitVec 14)) : Nat :=
  let c := s.getCore core
  let rho := ((upTo c.gangSize).filter fun j => (s.integ core j).active).foldl
    (fun m j => Nat.max m (s.residual core codes j).natAbs) 0
  if rho = 0 then 11 else min 11 (24 - (c.fab.normq.toNat + logCeil rho))

/-- A run ends (R127): the code and the g of each gang integrator are latched (R128). The codes of active integrators are
the converters'; an inactive one latches its initial condition and g 11. -/
def State.endRun (s : State) (core : Nat) (st : RunStatus) (ns : Nat) : State :=
  let codes := (upTo (s.getCore core).gangSize).map fun j =>
    let x := s.integ core j
    if x.active then Config.sampleCode s.draws j else x.init
  let g := if st = .settled then s.digitsOf core codes else 0
  let latch := (upTo codes.length).map fun j => (codes.getD j 0, if (s.integ core j).active then g else 11)
  let f := (s.getCore core).fab
  let s := s.drawn.modCore core fun c =>
    { c with fab := { f with status := st, duration := ns, latchAt := f.start + BitVec.ofNat 64 ns, codes := latch } }
  if st = .saturated then s.lateFault core f.runSeq 0x0033 0 0 else s.complete core f.runSeq

/-- The threshold has held for the window: the run settles. -/
def execRunSettled (core : Nat) (s : State) : Result :=
  let f := (s.getCore core).fab
  let ns := s.runTime f
  .next (if f.status = .running ∧ f.window.toNat * f.tauNs ≤ 16 * ns ∧ ns ≤ f.timeout.toNat * f.tauNs then
    s.endRun core .settled ns else s)

/-- TIMEOUT × τ has elapsed since the start. -/
def execRunTimeout (core : Nat) (s : State) : Result :=
  let f := (s.getCore core).fab
  .next (if f.status = .running ∧ f.timeout.toNat * f.tauNs ≤ s.runTime f then
    s.endRun core .timeout (f.timeout.toNat * f.tauNs) else s)

/-- An active integrator reaches a bound. -/
def execRunSaturated (core : Nat) (s : State) : Result :=
  let f := (s.getCore core).fab
  .next (if f.status = .running ∧ s.runTime f ≤ f.timeout.toNat * f.tauNs then
    s.endRun core .saturated (s.runTime f) else s)

/-! ### Status, samples and the journal (R127, R130, R132 to R134) -/

/-- The code of a status (R127). -/
def RunStatus.num : RunStatus → Nat
  | .running => 0 | .settled => 1 | .timeout => 2 | .saturated => 3 | .notStarted => 4 | .cut => 5

/-- The status word (R127). -/
def State.statusWord (s : State) (core : Nat) : Word :=
  let f := (s.getCore core).fab
  let ns := if f.status = .running then s.runTime f else if f.status = .notStarted then 0 else f.duration
  BitVec.ofNat 64 (min ns 0xFFFFFFFF * 2 ^ 32 + f.status.num)

/-- MODE of a JOURNAL value (R309). -/
def journalMode (j : Word) : Nat := j.toNat % 4
/-- The capacity in entries. -/
def journalCap (j : Word) : Nat := 2 ^ bits j.toNat 11 6
/-- The virtual address of entry `n` (R133). -/
def journalVa (j : Word) (n : Nat) : Word := (j &&& ~~~0xFFF) + BitVec.ofNat 64 (32 * n)

/-- The FP32 bits of a 14-bit code (R122). -/
def codeFp32 (c : BitVec 14) : Nat := (fp32.put plainCtl (numOf 0 c.toInt (-13))).val

/-- A live sample (R130): its FP32 bits and g. After a run that replay completed there is no latch, and the spec states
no value (log entry 3). -/
def State.sample (s : State) (core j : Nat) : Nat × Nat :=
  let f := (s.getCore core).fab
  match f.status with
  | .notStarted | .cut | .running => (0, 0)
  | _ =>
    if f.codes.isEmpty then
      (codeFp32 (Config.sampleCode s.draws j), (Config.freeWord s.draws).toNat % 12)
    else (codeFp32 (f.codes.getD j (0, 0)).1, (f.codes.getD j (0, 0)).2)

/-- STAND of a journal entry (R133). -/
def State.standNo (s : State) (core j : Nat) : Nat :=
  16 * (dieOf core - lowDie s.cut (s.partOf core)) + (s.getCore core).standOf j

/-- The 32 bytes of a journal entry (R133). With no latch its TIME is a free value. -/
def State.journalEntry (s : State) (core n j v g : Nat) : List Byte :=
  let f := (s.getCore core).fab
  let t := if f.codes.isEmpty then Config.freeWord s.draws else f.latchAt
  bytesOf 32 (t.toNat * 2 ^ 192 + s.indexOf core * 2 ^ 151 + f.status.num * 2 ^ 136 + g * 2 ^ 128 + v * 2 ^ 96 +
    j * 2 ^ 80 + s.standNo core j * 2 ^ 64 + n)

/-- The bytes of an engine access of the fabric, checked and translated (R107, R294). -/
def State.fabRuns (s : State) (core : Nat) (acc : Access) (va : Word) (n : Nat) : Except AFault (Runs × State) :=
  s.access core acc va n

/-- The next entry of a core's index from position `n` on: its position and its number (R134), or none while a window that
holds an entry is not at rest (R94, R95). Each read of a window takes its arrival number (R113). Fuel: entries left. -/
def State.journalFind (s : State) (core : Nat) (j : Word) : Nat → Nat → Except AFault (Option (Nat × Nat) × State)
  | 0, _ => .error (plainFault 0x0035)
  | fuel + 1, n =>
    match s.fabRuns core .read (journalVa j n) 32 with
    | .error f => .error f
    | .ok (rs, s) =>
      if !s.copyReady core rs then .ok (none, s)
      else
        let s := s.readRuns core rs
        let e := natOf (s.seenRuns (dieOf core) s.winSeen rs)
        if bits e 159 151 = s.indexOf core then .ok (some (n, e), s) else State.journalFind s core j fuel (n + 1)

/-! ### The fabric queue (R126, R292) -/

/-- The head leaves the fabric queue. -/
def State.popFq (s : State) (core : Nat) : State := s.modCore core fun c => { c with fq := c.fq.drop 1, fwork := none }

/-- The head has done a part of its work. -/
def State.fabMore (s : State) (core : Nat) (w : FabWork) : Tried := .more (s.modCore core fun c => { c with fwork := some w })

/-- The head ends in a late fault. -/
def State.fabFault (s : State) (core : Nat) (q : QEntry) (f : AFault) : Tried :=
  .did ((s.popFq core).lateFault core q.seq f.code f.info f.addr)

/-- The head completes. -/
def State.fabEnd (s : State) (core : Nat) (q : QEntry) : Tried := .did ((s.popFq core).complete core q.seq)

/-- The two registers of afsamp (R297). -/
def State.sampleWrite (s : State) (core ctx : Nat) (d a : SReg) (v g : Nat) : State :=
  (s.lateWr core ctx d (BitVec.ofNat 64 v)).lateWr core ctx a (BitVec.ofNat 64 g)

/-- afcfg.claim in its turn (R119). -/
def State.fabClaim (s : State) (core : Nat) (q : QEntry) (d : SReg) : Tried :=
  let mask : BitVec 16 := q.a.setWidth 16
  if s.standsFree core mask then ((s.takeStands core mask).lateWr core q.ctx d 0).fabEnd core q
  else (s.lateWr core q.ctx d 1).fabEnd core q

/-- The configuration image is read whole: every word of it is applied, or, when one fails its checks, none (R123). -/
def State.fabApply (s : State) (core : Nat) (q : QEntry) (bs : List Byte) : Tried :=
  let ws := (wordsOf (q.b.toNat / 8) bs).map fun w => w.toNat
  if ws.all (configOk (s.getCore core).gangSize) then (ws.foldl (fun s w => s.configure core w) s).fabEnd core q
  else s.fabFault core q (plainFault 0x0032)

/-- The next part of the image's runs that is read: what lies in a window in pieces of 64 bytes, so that pieces of others may
come between them (R112), else all of them. -/
def imagePart (left : Runs) : Runs × Runs :=
  match left with
  | [] => ([], [])
  | (p, n) :: rest => if left.any fun r => inWindow r.1 then (if n ≤ 64 then ([(p, n)], rest) else ([(p, 64)], (p + 64, n - 64) :: rest))
                      else (left, [])

/-- A part of a configuration image is read (R107, R294). -/
def State.fabImage (s : State) (core : Nat) (q : QEntry) (left : Runs) (got : List Byte) : Tried :=
  let (now, left) := imagePart left
  if !s.copyReady core now then .wait
  else
    let s := s.readRuns core now
    let got := got ++ s.seenRuns (dieOf core) s.winSeen now
    if left.isEmpty then s.fabApply core q got else s.fabMore core (.image left got)

/-- afcfg (R294): the checks, and the image. -/
def State.fabConfigure (s : State) (core : Nat) (q : QEntry) : Tried :=
  match (s.getCore core).fwork with
  | some (.image left got) => s.fabImage core q left got
  | _ =>
    let n := q.b.toNat
    if q.a.toNat % 8 ≠ 0 then s.fabFault core q { code := 0x0004, info := 0, addr := q.a }
    else if n % 8 ≠ 0 ∨ n < 8 ∨ 65536 < n then s.fabFault core q (plainFault 0x0032)
    else
      match s.fabRuns core .read q.a n with
      | .error f => s.fabFault core q f
      | .ok (rs, s) => s.fabImage core q rs []

/-- afscale (R125, R295). -/
def State.fabScale (s : State) (core : Nat) (q : QEntry) : Tried :=
  let w := q.a.toNat
  if bits w 63 38 ≠ 0 ∨ bits w 4 2 ≠ 0 ∨ bits w 33 18 = 0 ∨ bits w 17 10 = 0 ∨ bits w 9 5 < 8 ∨ 20 < bits w 9 5 ∨
      bits w 1 0 = 3 then s.fabFault core q (plainFault 0x0031)
  else
    (s.modCore core fun c =>
      { c with fab := { c.fab with
          normq := BitVec.ofNat 4 (bits w 37 34), timeout := BitVec.ofNat 16 (bits w 33 18),
          window := BitVec.ofNat 8 (bits w 17 10), thresh := BitVec.ofNat 5 (bits w 9 5),
          tau := BitVec.ofNat 2 (bits w 1 0) } }).fabEnd core q

/-- afrun (R126, R132, R296): it starts a run and stays in flight until the run ends, or completes at once in replay. -/
def State.fabStart (s : State) (core : Nat) (q : QEntry) : Tried :=
  if !s.runOk core then s.fabFault core q (plainFault 0x0032)
  else if journalMode q.journal = 2 then
    (s.modCore core fun c =>
      { c with fab := { c.fab with status := .settled, duration := 0, codes := [] } }).fabEnd core q
  else
    .did ((s.popFq core).modCore core fun c =>
      { c with fab := { c.fab with status := .running, start := s.time, duration := 0, runSeq := q.seq, codes := [] } })

/-- afsamp that takes its value from the journal (R134). -/
def State.fabReplay (s : State) (core : Nat) (q : QEntry) (d a : SReg) (j : Nat) : Tried :=
  let c := s.getCore core
  match s.journalFind core q.journal (journalCap q.journal - c.jpos) c.jpos with
  | .error f => s.fabFault core q f
  | .ok (none, _) => .wait
  | .ok (some (n, e), s) =>
    let v := bits e 127 96
    let g := bits e 135 128
    if bits e 79 64 = s.standNo core j ∧ bits e 95 80 = j ∧ g ≤ 11 ∧ bits v 30 23 ≠ 255 then
      ((s.modCore core fun c => { c with jpos := n + 1 }).sampleWrite core q.ctx d a v g).fabEnd core q
    else s.fabFault core q (plainFault 0x0036)

/-- An entry's bytes go to the journal: memory at the LLC, a window as pieces of agent 16 (R109, R134). -/
def State.journalPut (s : State) (core : Nat) (q : QEntry) (rs : Runs) (bs : List Byte) : State :=
  (cutRuns rs bs).foldl (fun s x =>
    if inWindow x.1 then
      s.sendPieces ((piecesOf core 16 q.ctx true x.1 x.2).map fun p =>
        { p with launch := ((s.getCore core).entry q.seq).launch })
    else (s.onLines [(x.1, x.2.length)] fun s l => s.flushLine (dieOf core) l).writeLlc x.1 x.2) s

/-- afsamp that appends its entry to the journal: it is performed before the registers are written (R134). A page that fails
to translate leaves both registers as they are (R309, log entry 144). -/
def State.fabRecord (s : State) (core : Nat) (q : QEntry) (d a : SReg) (j v g : Nat) : Tried :=
  let p := s.partOf core
  let n := (s.getPart p).jcount
  match (s.getCore core).fwork with
  | some (.entry v g) =>
    if s.noPieces core Piece.byFabric then (s.sampleWrite core q.ctx d a v g).fabEnd core q else .wait
  | _ =>
    if journalCap q.journal ≤ n then (s.sampleWrite core q.ctx d a v g).fabFault core q (plainFault 0x0034)
    else
      match s.fabRuns core .write (journalVa q.journal n) 32 with
      | .error f => s.fabFault core q f
      | .ok (rs, s) =>
        let s := ((s.journalPut core q rs (s.journalEntry core n j v g)).modPart p fun x => { x with jcount := n + 1 }).drawn
        if rs.any fun r => inWindow r.1 then s.fabMore core (.entry v g)
        else (s.sampleWrite core q.ctx d a v g).fabEnd core q

/-- afsamp (R130, R297). -/
def State.fabSample (s : State) (core : Nat) (q : QEntry) (d a : SReg) (j : Nat) : Tried :=
  if (s.getCore core).gangSize ≤ j then s.fabFault core q (plainFault 0x0032)
  else if journalMode q.journal = 2 then s.fabReplay core q d a j
  else
    let (v, g) := s.sample core j
    if journalMode q.journal = 1 then s.fabRecord core q d a j v g
    else (s.drawn.sampleWrite core q.ctx d a v g).fabEnd core q

/-- What the head of a core's fabric queue does. Every instruction but a claim faults without a gang (R126); all but
afwait.try wait for the run to end (R127). -/
def State.fabDo (s : State) (core : Nat) (q : QEntry) : Tried :=
  let f := (s.getCore core).fab
  let rest (k : Tried) : Tried :=
    if f.claim = 0 then s.fabFault core q (plainFault 0x0030) else if f.status = .running then .wait else k
  match q.instr with
  | .afcfgClaim d _ => s.fabClaim core q d
  | .afcfgRel =>
    if q.sys then .did (if f.claim = 0 then s.popFq core else (s.popFq core).endClaim core)
    else if f.claim = 0 then s.fabFault core q (plainFault 0x0030)
    else (s.endClaim core).fabEnd core q
  | .afcfg _ _ => rest (s.fabConfigure core q)
  | .afscale _ => rest (s.fabScale core q)
  | .afrun => rest (s.fabStart core q)
  | .afwait d => rest ((s.lateWr core q.ctx d (s.statusWord core)).fabEnd core q)
  | .afwaitTry d =>
    if f.claim = 0 then s.fabFault core q (plainFault 0x0030)
    else (s.lateWr core q.ctx d (s.statusWord core)).fabEnd core q
  | .afsamp d a imm => rest (s.fabSample core q d a imm.toNat)
  | _ => .wait

/-- The head of the fabric queue is performed, if it can be; a context that waits on it completes it in the same step,
unless it is halted or a trap comes first (R41, R43, R331). -/
def State.fabStep (s : State) (core : Nat) : State :=
  match (s.getCore core).fq with
  | [] => s
  | q :: _ =>
    let x := s.getCtx core 0
    let waited := !q.sys && x.waitsFor q.seq
    if waited && (x.mode != .waiting || s.trapDue core 0) then s
    else
      match s.fabDo core q, (if waited then (s.on core 0).retire else s).fabDo core q with
      | .more t, _ | .did _, .did t => t
      | _, _ => s

/-- A queued fabric instruction is performed in issue order. -/
def execFabricInstructionPerform (core : Nat) (s : State) : Result := .next (s.fabStep core)

/-! ### Dispatch of each -/

/-- A run goes on, or a queued afrun is to start one; in replay there is none (R127, R132). -/
def Core.runAhead (c : Core) : Bool :=
  c.fab.status == .running || c.fq.any fun q => q.instr == .afrun && journalMode q.journal != 2

/-- Dispatch of an instruction for which the context waits until the run has ended (R296, R297, R433). With no run to
wait for it retires, and its registers are written in its turn (R266). -/
def State.fabWaits (s : State) (i : Instr) : Result :=
  s.dispatchWith .fabric i 0 0 0 fun s seq flushed =>
    if flushed then s.retire
    else (if s.me.runAhead then s.waitOn .fabric (some seq) else s.retire).fabStep s.core

/-- afcfg.claim (R293): the precise checks, then the claim is outstanding. -/
def execAfcfgClaim (d a : SReg) (s : State) : Result :=
  .next (if s.barred .fabric (.afcfgClaim d a) then s.illegal
    else s.begin [a] [d] fun s =>
      let m := s.rd a
      if m = 0 ∨ bits m.toNat 63 16 ≠ 0 ∨ s.me.claims then s.illegal
      else s.enqueue .fabric (.afcfgClaim d a) m 0 0 fun s _ _ => s.retire)

/-- afcfg.rel: its dispatch (R121). -/
def execAfcfgRel (s : State) : Result := s.dispatch .fabric .afcfgRel 0 0 0
/-- afcfg: its dispatch (R294). -/
def execAfcfg (a b : SReg) (s : State) : Result := s.dispatch .fabric (.afcfg a b) a b 0
/-- afscale: its dispatch (R295). -/
def execAfscale (a : SReg) (s : State) : Result := s.dispatch .fabric (.afscale a) a 0 0
/-- afrun: its dispatch (R296). -/
def execAfrun (s : State) : Result := s.dispatch .fabric .afrun 0 0 0
/-- afwait: its dispatch (R296). -/
def execAfwait (d : SReg) (s : State) : Result := s.fabWaits (.afwait d)
/-- afwait.try: its dispatch (R296). -/
def execAfwaitTry (d : SReg) (s : State) : Result := s.dispatch .fabric (.afwaitTry d) 0 0 0
/-- afsamp: its dispatch (R297). -/
def execAfsamp (d a : SReg) (imm : Word) (s : State) : Result := s.fabWaits (.afsamp d a imm)

end Sys2Proof.Machine
end

