-- ==== Sys2Proof/Machine/Pool.lean ====
section
/-! DEFINITION. Priority pools (R63, R74 to R82, R306, R321 to R323, R434): shards, summaries, takes, the arbiter. Shard
`i` of a pool lies on the partition's `i`-th compute die. -/

namespace Sys2Proof.Machine

/-! ### Elements and shards (R74, R75, R82) -/

/-- Insertion order: time, shard, order within the shard (R74). -/
def Elem.earlier (x y : Elem) : Bool :=
  decide (x.time < y.time) ||
  (decide (x.time = y.time) && (decide (x.shard < y.shard) || (decide (x.shard = y.shard) && decide (x.ord < y.ord))))

/-- `x` ranks before `y` (R74). -/
def Elem.lt (x y : Elem) : Bool := decide (x.key.toNat < y.key.toNat) || (decide (x.key = y.key) && x.earlier y)

/-- Inserts in rank order. -/
def insertElem (e : Elem) : List Elem → List Elem
  | [] => [e]
  | x :: xs => if e.lt x then e :: x :: xs else x :: insertElem e xs

/-- Elements in rank order. -/
def sortElems (l : List Elem) : List Elem := l.foldr insertElem []

/-- The best-ranked element. -/
def bestElem (l : List Elem) : Option Elem :=
  l.foldl (fun acc e =>
    match acc with
    | none => some e
    | some b => if e.lt b then some e else some b) none

/-- The elements present at a shard, those being moved out among them (R80). -/
def Shard.present (x : Shard) : List Elem := x.elems ++ x.moving.map fun m => m.2

/-- A shard of a pool. -/
def Pool.shard (p : Pool) (i : Nat) : Shard := Sparse.get Shard.reset p.shards i
/-- Changes a shard. -/
def Pool.modShard (p : Pool) (i : Nat) (f : Shard → Shard) : Pool := { p with shards := p.shards.set i (f (p.shard i)) }

/-- Every present element of the pool, shard by shard. -/
def Pool.present (p : Pool) : List Elem := p.shards.flatMap fun x => x.2.present

/-- The 4,096 best-ranked entries of a shard, which the pool engine holds; the others lie in the backing store alone (R28,
R75, R434). -/
def Shard.onEngine (x : Shard) : List Elem := (sortElems x.present).take 4096

/-- Places of the backing store in use: present elements and puts under way (R434). -/
def Pool.places (p : Pool) : Nat := (p.shards.map fun x => x.2.present.length + x.2.pend.length).foldl Nat.add 0

/-- The element is aged (R82). -/
def Pool.aged (p : Pool) (e : Elem) : Bool := decide (e.stamp + p.limit.toNat - 4 ≤ p.takes)

/-- The elements on their way to a shard. -/
def Pool.incoming (p : Pool) (i : Nat) : List Elem :=
  p.shards.flatMap fun x => (x.2.moving.filter fun m => m.1 == i).map fun m => m.2

/-! ### Summaries (R78, R80) -/

/-- A put as the element it is to become, in a bar: before every element of its key, since its own rank is not fixed yet. The
bar then counts it however it comes to rank (R79, R80). -/
def PendPut.elem (q : PendPut) : Elem :=
  { key := q.key, payload := q.payload, time := 0, shard := 0, ord := 0, stamp := 0 }

/-- The summary that shard `i` of `n` publishes now (R78). Its bar already counts the puts that wait for it and the
elements that move in. -/
def Pool.summary (p : Pool) (n i : Nat) : Summary :=
  let x := p.shard i
  let a := (p.bound.toNat - 1) / (n - 1)
  let all := sortElems (x.present ++ (x.pend.map PendPut.elem) ++ p.incoming i)
  { serial := x.serial + 1, count := x.present.length + (p.incoming i).length, min := bestElem x.present, bar := all[a]?,
    puts := x.puts, aged := x.present.any p.aged }

/-- Shard `i` of `n` sends a summary to every other shard. -/
def Pool.publish (p : Pool) (n i : Nat) : Pool :=
  if n ≤ 1 then p
  else
    let m := p.summary n i
    p.modShard i fun x =>
      { x with serial := m.serial, sent := some m,
               inFlight := x.inFlight ++ ((upTo n).filter fun j => j != i).map fun j => (j, m) }

/-- Is the shard number one of the partition's. -/
def State.hasShard (s : State) (i : Nat) : Bool := decide (i < s.k)

/-- A shard sends its summary (R78). -/
def execPoolSummary (part pool shard : Nat) (s : State) : Result :=
  .next (if s.hasShard shard then s.modPool part pool fun p => p.publish s.k shard else s)

/-- The oldest summary on its way from `src` to `dst` is acknowledged and held (R78). -/
def Pool.ack (p : Pool) (src dst : Nat) : Pool :=
  match (p.shard src).inFlight.find? fun m => m.1 == dst with
  | none => p
  | some m =>
    let p := p.modShard src fun x => { x with inFlight := x.inFlight.erase m }
    p.modShard dst fun x => { x with seen := x.seen.set src m.2 }

/-- A summary is acknowledged (R78). -/
def execPoolSummaryAck (part pool src dst : Nat) (s : State) : Result :=
  .next (s.modPool part pool fun p => p.ack src dst)

/-- Every other shard has acknowledged the summary of a serial (R80). -/
def Shard.acked (x : Shard) (serial : BitVec 32) : Bool :=
  x.inFlight.all fun m => m.2.serial != serial && decide ((serial - m.2.serial).toNat ≥ 2 ^ 31)

/-! ### Puts (R80, R321) -/

/-- The element that a put linearized now becomes. -/
def Pool.elem (p : Pool) (time i : Nat) (key payload : Word) : Elem :=
  { key := key, payload := payload, time := time, shard := i, ord := p.ord, stamp := p.takes }

/-- The element enters shard `i` at its linearization point. -/
def Pool.insert (p : Pool) (time i : Nat) (key payload : Word) : Pool :=
  { p.modShard i fun x => { x with elems := x.elems ++ [p.elem time i key payload], puts := x.puts + 1 } with ord := p.ord + 1 }

/-- An element ranks before a bar; none is all ones (R78, R79). -/
def beforeBar (e : Elem) (bar : Option Elem) : Bool :=
  match bar with
  | none => true
  | some b => e.lt b

/-- The summaries of shard `i` by which another shard admits, or is still to: the one last published, those on their way and
those acknowledged. -/
def Pool.bars (p : Pool) (i : Nat) : List Summary :=
  let x := p.shard i
  x.sent.toList ++ (x.inFlight.map fun m => m.2) ++
  p.shards.flatMap fun y => (y.2.seen.filter fun m => m.1 == i).map fun m => m.2

/-- An element ranks before a bar of the shard that it keeps true (R80). -/
def Pool.beatsBar (p : Pool) (i : Nat) (e : Elem) : Bool := (p.bars i).any fun m => beforeBar e m.bar

/-- Shard `i` of `n` accepts a put: present at once, or once a fresh summary is acknowledged (R80). -/
def Pool.put (p : Pool) (n time i : Nat) (key payload : Word) (core ctx : Nat) : Pool :=
  if n ≤ 1 ∨ !p.beatsBar i (p.elem time i key payload) then p.insert time i key payload
  else
    let q : PendPut := { key := key, payload := payload, core := core, ctx := ctx, serial := (p.shard i).serial + 1 }
    (p.modShard i fun x => { x with pend := x.pend ++ [q] }).publish n i

/-- The oldest put that waits at a shard becomes present, its summary acknowledged and a place free: one of a context has its
place from its issue, one of the graph engine has to wait for it (R63, R80, R434). -/
def Pool.linearize (p : Pool) (cap time i : Nat) : Pool :=
  let x := p.shard i
  match x.pend with
  | [] => p
  | q :: rest =>
    if x.acked q.serial && decide (p.present.length < cap) then
      (p.modShard i fun x => { x with pend := rest }).insert time i q.key q.payload
    else p

/-- A put is linearized (R80). -/
def execPputLinearize (part pool shard : Nat) (s : State) : Result :=
  .next (s.modPool part pool fun p => p.linearize (s.getPart part).desc.poolCap.toNat s.time.toNat shard)

/-- The best-ranked elements of a pool, as many as its rank bound counts (R80, log entry 75). -/
def Pool.best (p : Pool) : List Elem := (sortElems p.present).take p.bound.toNat

/-- Those of the best-ranked elements that a shard holds or is to hold. -/
def Pool.bestAt (p : Pool) (i : Nat) : List Elem := ((p.shard i).elems ++ p.incoming i).filter p.best.contains

/-- A move from shard `src` to shard `dst` would spread the best-ranked elements more evenly (R80). -/
def Pool.uneven (p : Pool) (src dst : Nat) : Bool := decide ((p.bestAt dst).length + 1 < (p.bestAt src).length)

/-- A move of an element from shard `src` to shard `dst` begins, or the one under way ends once `dst`'s summaries that
count it are acknowledged (R80). The element is the last-ranked of those that `src` holds too many of. -/
def Pool.rebalance (p : Pool) (n src dst : Nat) : Pool :=
  match (p.shard src).moving.find? fun m => m.1 == dst with
  | some m =>
    if (p.shard dst).inFlight.isEmpty then
      let p := p.modShard src fun x => { x with moving := x.moving.erase m }
      p.modShard dst fun x => { x with elems := x.elems ++ [m.2] }
    else p
  | none =>
    match (sortElems ((p.shard src).elems.filter p.best.contains)).getLast? with
    | none => p
    | some e =>
      if p.uneven src dst then
        (p.modShard src fun x => { x with elems := x.elems.erase e, moving := x.moving ++ [(dst, e)] }).publish n dst
      else p

/-- The rebalancing moves of a pool of `n` shards that are due: those under way that can end, else one that would spread
the best-ranked elements more evenly (R80). -/
def Pool.spreads (p : Pool) (n : Nat) : List (Nat × Nat) :=
  let pairs := (upTo n).flatMap fun i => ((upTo n).filter fun j => j != i).map fun j => (i, j)
  if p.shards.any fun x => !x.2.moving.isEmpty then
    pairs.filter fun x => ((p.shard x.1).moving.any fun m => m.1 == x.2) && (p.shard x.2).inFlight.isEmpty
  else (pairs.filter fun x => p.uneven x.1 x.2).take 1

/-- A rebalancing move between two shards makes a step (R80). -/
def execPoolRebalance (part pool src dst : Nat) (s : State) : Result :=
  .next (if s.hasShard src && s.hasShard dst && src != dst then s.modPool part pool fun p => p.rebalance s.k src dst
    else s)

/-! ### Takes (R79, R81, R322) -/

/-- The element leaves the pool. -/
def Pool.remove (p : Pool) (e : Elem) : Pool :=
  { p with shards := p.shards.map fun x =>
      (x.1, { x.2 with elems := x.2.elems.erase e, moving := x.2.moving.filter fun m => m.2 != e }) }

/-- A take that returned an element (R82). -/
def Pool.taken (p : Pool) (e : Elem) : Pool := { p.remove e with takes := p.takes + 1 }

/-- What shard `i` of `n` may return itself (R79): its best element, one that is being moved out among them, when it ranks
before the bar of every other shard's latest acknowledged summary, the pool is not strict and no element is aged. -/
def Pool.admitted (p : Pool) (n i : Nat) : Option Elem :=
  match bestElem (p.shard i).present with
  | none => none
  | some e =>
    if p.bound ≠ 1 ∧ !(p.present.any p.aged) ∧
        (((upTo n).filter fun j => j != i).all fun j =>
          Sparse.has (p.shard i).seen j &&
          match Sparse.get (none : Option Summary) ((p.shard i).seen.map fun m => (m.1, some m.2)) j with
          | some m => beforeBar e m.bar
          | none => false) then some e
    else none

/-- The aged elements of the oldest stamp, or all when none is aged (R82). -/
def Pool.eligible (p : Pool) : List Elem :=
  let old := p.present.filter p.aged
  if old.isEmpty then p.present
  else
    let m := old.foldl (fun m e => Nat.min m e.stamp) (old.headD { key := 0, payload := 0, time := 0, shard := 0, ord := 0, stamp := 0 }).stamp
    old.filter fun e => e.stamp == m

/-- What the arbiter returns (R81, R82). -/
def Pool.arbitrate (p : Pool) : Option Elem := bestElem p.eligible

/-- The result of a take is written, unless a hexit or a cancel has discarded it (R313, R322). -/
def State.takeWrite (s : State) (r : ArbReq) (key payload : Word) : State :=
  if r.live then
    s.modCtx r.core r.ctx fun x => (x.store r.d.toNat key).store r.a.toNat payload
  else s

/-- A waiting take of a context that is not to complete now: its core is halted (R43), or a trap comes first (R331). -/
def State.heldTake (s : State) (r : ArbReq) : Bool :=
  r.waits && r.live && ((s.getCtx r.core r.ctx).mode != .waiting || s.trapDue r.core r.ctx)

/-- The arbiter serves its oldest request that it can serve (R81). A take of the waiting form completes its instruction
with the take; one that finds the pool empty waits on. Any other that finds it empty starts a sweep. -/
def execPoolArbiterTake (part pool : Nat) (s : State) : Result :=
  .next (
    let p := s.getPool part pool
    if p.sweep.isSome then s
    else
      match p.arb.find? fun r => !s.heldTake r with
      | none => s
      | some r =>
        match p.arbitrate with
        | some e =>
          let s := s.modPool part pool fun p => { p.taken e with arb := p.arb.erase r }
          let s := s.takeWrite r e.key e.payload
          if r.waits && r.live then
            let back := (s.core, s.ctx)
            ((s.on r.core r.ctx).retire).on back.1 back.2
          else s
        | none =>
          if r.waits then s.modPool part pool fun p => { p with arb := p.arb.erase r }
          else s.modPool part pool fun p =>
            { p with arb := r :: p.arb.erase r, sweep := some ((upTo s.k).map fun i => (i, (p.shard i).puts)) })

/-- Phase 2 of a sweep (R81): the take returns EMPTY if every shard is still empty and no put came, else it starts
again. -/
def execPoolEmptinessSweep (part pool : Nat) (s : State) : Result :=
  .next (
    let p := s.getPool part pool
    match p.sweep, p.arb with
    | some puts, r :: rest =>
      let s := s.modPool part pool fun p => { p with sweep := none }
      if p.present.isEmpty && puts.all fun x => (p.shard x.1).puts == x.2 then
        (s.modPool part pool fun p => { p with arb := rest }).takeWrite r ones64 0
      else s
    | _, _ => s.modPool part pool fun p => { p with sweep := none })

/-! ### The instructions (R298, R321 to R323) -/

/-- The checks of a system instruction at issue: the contexts that may issue it (R35) and a bound destination (R298). -/
def State.sysBarred (s : State) (control : Bool) (dests : List SReg) : Bool :=
  (control && s.ctx != 0) || dests.any s.isBound

/-- A system instruction with its source and destination registers. -/
def State.system (s : State) (control : Bool) (srcs dests : List SReg) (k : State → State) : Result :=
  .next (if s.sysBarred control dests then s.illegal else s.begin srcs dests k)

/-- An earlier pool instruction of the context on the pool has not been performed (R321). -/
def State.poolBusy (s : State) (pool : Nat) : Bool :=
  let p := s.getPool s.part pool
  (p.arb.any fun r => r.live && r.core == s.core && r.ctx == s.ctx) ||
  p.shards.any fun x => x.2.pend.any fun q => q.core == s.core && q.ctx == s.ctx

/-- The shard of the acting core's die. -/
def State.myShard (s : State) : Nat := s.die - lowDie s.cut s.part

/-- pput (R321). -/
def execPput (d a : SReg) (imm : Word) (s : State) : Result :=
  s.system false [d, a] [] fun s =>
    let n := imm.toNat
    let key := s.rd d
    if s.poolsPer ≤ n then s.illegal
    else if n = 0 then s.fault 0x000E
    else if key = ones64 then s.fault 0x0010
    else if s.poolBusy n then s
    else if s.mine.desc.poolCap.toNat ≤ (s.getPool s.part n).places then s.fault 0x0011
    else
      (s.modPool s.part n fun p => p.put s.k s.time.toNat s.myShard key (s.rd a) s.core s.ctx).retire

/-- A take that the issuing die's shard admits, or a request to the arbiter (R79, R81). -/
def State.take (s : State) (d a : SReg) (n : Nat) (waits : Bool) : State :=
  let p := s.getPool s.part n
  let r : ArbReq := { core := s.core, ctx := s.ctx, d := d, a := a, waits := waits, live := true }
  match p.admitted s.k s.myShard with
  | some e =>
    ((s.modPool s.part n fun p => p.taken e).takeWrite r e.key e.payload).retire
  | none =>
    if waits && p.present.isEmpty then s.waitOn (.pool n) none
    else
      let s := s.modPool s.part n fun p => { p with arb := p.arb ++ [r] }
      if waits then s.waitOn (.pool n) none else s.retire

/-- ptake (R322). -/
def execPtake (d a : SReg) (imm : Word) (s : State) : Result :=
  s.system false [] [d, a] fun s =>
    let n := imm.toNat
    if s.poolsPer ≤ n then s.illegal else if s.poolBusy n then s else s.take d a n false

/-- ptake.w (R322). -/
def execPtakeW (d a : SReg) (imm : Word) (s : State) : Result :=
  s.system false [] [d, a] fun s =>
    let n := imm.toNat
    if s.poolsPer ≤ n then s.illegal else if s.poolBusy n then s else s.take d a n true

/-- Removes every present element of a payload: the pool and the number removed (R75). -/
def Pool.cancelTag (p : Pool) (tag : Word) : Pool × Nat :=
  let hits := p.present.filter fun e => e.payload == tag
  (hits.foldl Pool.remove p, hits.length)

/-- pcancel (R323). -/
def execPcancel (d a : SReg) (imm : Word) (s : State) : Result :=
  s.system false [a] [d] fun s =>
    let n := imm.toNat
    if s.poolsPer ≤ n then s.illegal
    else if n = 0 then s.fault 0x000E
    else if s.poolBusy n then s
    else
      let (p, c) := (s.getPool s.part n).cancelTag (s.rd a)
      (s.modPool s.part n fun _ => p).result d (BitVec.ofNat 64 c)

/-! ### The graph engine's side (R63, R67) -/

/-- The graph engine puts a node's tag into pool 0, at the partition's first shard; an all-ones key becomes one less
(R63, R321). A put that finds the store full waits. -/
def State.putNode (s : State) (part : Nat) (key tag : Word) : State :=
  let k := if key = ones64 then ones64 - 1 else key
  s.modPool part 0 fun p =>
    if (s.getPart part).desc.poolCap.toNat ≤ p.places then
      (p.modShard 0 fun x =>
        { x with pend := x.pend ++ [{ key := k, payload := tag, core := 512, ctx := 0, serial := x.serial + 1 }] }).publish
        s.k 0
    else p.put s.k s.time.toNat 0 k tag 512 0

/-- The graph engine's pcancel of a tag from pool 0 (R67); a put of it that still waits is withdrawn. -/
def State.cancelNode (s : State) (part : Nat) (tag : Word) : State :=
  s.modPool part 0 fun p =>
    let p := (p.cancelTag tag).1
    { p with shards := p.shards.map fun x => (x.1, { x.2 with pend := x.2.pend.filter fun q => q.payload != tag }) }

end Sys2Proof.Machine
end

