-- ==== Sys2Proof/Machine/Clear.lean ====
section
/-! DEFINITION. Clearing of on-chip state at a change of owner (R274, R391), what a partition runs, and accesses under
way (R389). -/

namespace Sys2Proof.Machine

/-- The cores of a partition that the state lists. -/
def State.coresOf (s : State) (part : Nat) : List Nat := s.coreKeys.filter fun c => s.partOf c == part

/-- The partition runs a unit; one that is switched out runs none (R418). -/
def State.runsUnit (s : State) (part : Nat) : Bool :=
  !(s.getPart part).out && (s.coresOf part).any fun c => (s.getCore c).unit.isSome

/-- The compute dies of a partition (R13). -/
def State.diesOf (s : State) (part : Nat) : List Nat := (upTo s.k).map fun i => lowDie s.cut part + i

/-- Every line of a die's L1s is written back and leaves them. -/
def State.flushDie (s : State) (die : Nat) : State :=
  ((s.getDie die).l1.map fun l => l.1).foldl (fun s l => s.flushLine die l) s

/-- The cores and groves of a die are cleared, its L1 data written back first and its TLBs and walk cache emptied
(R391). -/
def State.clearDie (s : State) (die : Nat) : State :=
  let s := s.flushDie die
  { s.modDie die fun d => { d with tlb := [], walks := [] } with
    cores := s.cores.map fun c => (c.1, if dieOf c.1 = die then c.2.clear else c.2)
    groves := s.groves.map fun g => (g.1, if g.1 / 32 = die then g.2.clear else g.2) }

/-- The TLB and walk-cache entries of a partition that the filters hold are dropped (R388). -/
def State.dropTlb (s : State) (part : Nat) (f : TlbEntry → Bool) (g : WalkEntry → Bool) : State :=
  let keep (es : List TlbEntry) : List TlbEntry := es.filter fun e => !(e.part == part && f e)
  let s := (s.diesOf part).foldl (fun s d => s.modDie d fun x =>
    { x with tlb := keep x.tlb, walks := x.walks.filter fun w => !(w.part == part && g w) }) s
  { s with cores := s.cores.map fun c => (c.1, { c.2 with itlb := keep c.2.itlb, dtlb := keep c.2.dtlb }) }

/-! ### Accesses that keep a translation (R342, R389) -/

/-- The buffered stores of a core leave the buffer as far as they may. -/
def State.drainFree (s : State) (core : Nat) : State :=
  (upTo (s.getCore core).sb.length).foldl (fun s _ => if s.mayDrain core then s.drainOne core else s) s

/-- A copy that is moving uses a translation of the virtual range. -/
def CopyReq.usesVa (r : CopyReq) (va n : Nat) : Bool :=
  let len := bits r.lw.toNat 47 0
  r.stage == .moving && (meets (r.src.toNat % 2 ^ 56) len va n || meets (r.dst.toNat % 2 ^ 56) len va n)

/-- A copy that is moving, a buffered store, a vector load or an afcfg under way reaches the physical range. -/
def Core.usesPa (c : Core) (pa n : Nat) : Bool :=
  (c.copies.any fun r => r.stage == .moving && (r.srcRuns ++ r.dstRuns).any fun x => meets x.1 x.2 pa n) ||
  (c.sb.any fun e => meets e.pa e.bytes.length pa n) ||
  (c.vload.any fun v => v.places.any fun p => meets p 8 pa n) ||
  (match c.fwork with | some (.image left _) => left.any fun x => meets x.1 x.2 pa n | _ => false)

/-- Every frame of the range has one of the owner bytes (R387). -/
def State.ownedBy (s : State) (os : List Byte) (pa n : Nat) : Bool := os.any fun o => s.owns o pa n

/-- Every frame of the range is the partition's job memory or the driver's (R387). -/
def State.reachable (s : State) (part pa n : Nat) : Bool :=
  decide (pa + n ≤ Config.memBytes) &&
  (upTo ((pa % 2 ^ 21 + n + 2 ^ 21 - 1) / 2 ^ 21)).all fun i =>
    s.owner (pa + i * 2 ^ 21) == partOwner part || s.owner (pa + i * 2 ^ 21) == 0xFE

end Sys2Proof.Machine
end

