-- ==== Sys2Proof/Machine/Launch.lean ====
section
/-! DEFINITION. The launch engine (R30, R31, R39, R98, R373 to R375): launch records, armings, deliveries and their
confirmation; the inbox (R320, R436) and the end of a unit (R315). -/

namespace Sys2Proof.Machine

/-! ### Launch records (R373) -/

/-- A launch record as the launch engine reads it. -/
structure LRec where
  entry    : Word
  flagMask : Word
  signal   : BitVec 16
  regmap   : BitVec 48
  graph    : Nat
  node     : Nat
  bound    : Bool
  trap     : Bool
  mask     : BitVec 512
  args     : List Word
  chans    : List (BitVec 64)
  deriving DecidableEq, Repr

/-- Fields of a channel declaration (R373). -/
def declSendCore (d : BitVec 64) : Nat := bits d.toNat 38 30
def declSendEp (d : BitVec 64) : Nat := bits d.toNat 29 24
def declRecvCore (d : BitVec 64) : Nat := bits d.toNat 23 15
def declRecvEp (d : BitVec 64) : Nat := bits d.toNat 14 9
def declWords (d : BitVec 64) : Nat := bits d.toNat 8 4 + 1
def declSlots (d : BitVec 64) : Nat := bits d.toNat 3 0 + 1

/-- The endpoints that declarations name, as core index and endpoint. -/
def declEnds (ds : List (BitVec 64)) : List (Nat × Nat) :=
  ds.flatMap fun d => [(declSendCore d, declSendEp d), (declRecvCore d, declRecvEp d)]

/-- No pair is listed twice. -/
def noTwice : List (Nat × Nat) → Bool
  | [] => true
  | x :: xs => !xs.contains x && noTwice xs

/-- The record counts as loaded in a partition of `n` cores (R373). -/
def recordOk (n hdr : Nat) (mask : BitVec 512) (ds : List (BitVec 64)) : Bool :=
  decide (bits hdr 143 128 = 1) && decide (bits hdr 153 144 = 0) && decide (bits hdr 63 0 = 0) &&
  mask != 0 && decide (mask.toNat < 2 ^ n) && decide (bits hdr 271 256 ≤ 16) &&
  (ds.all fun d => decide (bits d.toNat 63 39 = 0) && decide (declSendCore d < n) && decide (declRecvCore d < n)) &&
  noTwice (declEnds ds) &&
  (ds.all fun d =>
    decide (((ds.filter fun e => declRecvCore e == declRecvCore d).map fun e => 8 * declWords e * declSlots e).foldl
      Nat.add 0 ≤ 8192))

/-- 64-bit words of bytes. -/
def words64 : Nat → List Byte → List Word
  | 0, _ => []
  | n + 1, bs => BitVec.ofNat 64 (natOf (bs.take 8)) :: words64 n (bs.drop 8)

/-- The launch engine reads a record; none when it does not count as loaded (R373, R435). -/
def State.readLaunch (s : State) (part i : Nat) : Option LRec × State :=
  match s.engRead part .launch (s.launchVa part i) 512 with
  | (none, s) => (none, s)
  | (some bs, s) =>
    let hdr := natOf (bs.take 64)
    let mask := BitVec.ofNat 512 (natOf ((bs.drop 0x40).take 64))
    let ds := words64 (min 16 (bits hdr 271 256)) (bs.drop 0x180)
    if recordOk s.coresPer hdr mask ds then
      (some { entry := BitVec.ofNat 64 (bits hdr 511 448), flagMask := BitVec.ofNat 64 (bits hdr 447 384),
              signal := BitVec.ofNat 16 (bits hdr 287 272), regmap := BitVec.ofNat 48 (bits hdr 255 208),
              graph := bits hdr 187 176, node := bits hdr 175 156, bound := decide (bits hdr 155 155 = 1),
              trap := decide (bits hdr 154 154 = 1), mask := mask, args := words64 16 (bs.drop 0x80), chans := ds }, s)
    else (none, s)

/-! ### Arming (R374) -/

/-- Bits set. -/
def countBits {w : Nat} (x : BitVec w) : Nat := ((upTo w).filter fun i => x.getLsbD i).length

/-- The endpoints of an arming are free, and the deliveries of its dies fit (R345, R374). -/
def State.armReady (s : State) (part : Nat) (l : Launch) : Bool :=
  ((declEnds l.chans).all fun e => !(s.getEp (s.coreAt part e.1) e.2).declared) &&
  ((upTo s.k).all fun d =>
    let die := lowDie s.cut part + d
    decide (((s.getPart part).held.filter fun x => dieOf x.core == die).length +
      ((upTo 128).filter fun i => l.mask.getLsbD (128 * d + i)).length ≤ 4096))

/-- Declares the channels of an arming (R48, R374 step 3). -/
def State.declare (s : State) (part i : Nat) (d : BitVec 64) : State :=
  let sc := s.coreAt part (declSendCore d)
  let rc := s.coreAt part (declRecvCore d)
  let ep : Endpoint :=
    { Endpoint.reset with declared := true, words := declWords d, slots := declSlots d, live := true, launch := i }
  let s := s.modEp sc (declSendEp d) fun _ => { ep with send := true, peer := .core rc (declRecvEp d) }
  s.modEp rc (declRecvEp d) fun _ => { ep with peer := .core sc (declSendEp d) }

/-- The 64 bytes of the task record of an arming (R375). -/
def Launch.task (l : Launch) : List Byte :=
  bytesOf 8 l.entry.toNat ++ bytesOf 8 l.tag.toNat ++ bytesOf 8 (l.level.toNat + l.regmap.toNat * 256) ++
  l.args.flatMap fun w => bytesOf 8 w.toNat

/-- Steps 3 and 4 of an arming, when they can be taken now; else it is held (R374). -/
def State.armRelease (s : State) (part i : Nat) : State :=
  let l := s.getLaunch part i
  if s.armReady part l then
    let s := l.chans.foldl (fun s d => s.declare part i d) s
    let ds : List Delivery := ((upTo s.coresPer).filter fun j => l.mask.getLsbD j).map fun j =>
      { idx := i, core := s.coreAt part j, stage := 0, k := 0, bytes := l.task }
    (s.modLaunch part i fun l => { l with held := false }).modPart part fun p => { p with held := p.held ++ ds }
  else s.modLaunch part i fun l => { l with held := true }

/-- An arming that succeeds (R374). One of a record whose earlier arming has REMAIN 0 and is not confirmed takes the record over:
the confirmation that follows stands for both (log entry 145). -/
def State.arm (s : State) (part i : Nat) (r : LRec) (tag : Word) (gen : BitVec 20) (level : BitVec 2) : State :=
  let s := s.engWrite part .launch (s.launchVa part i + 0x100) (r.args.flatMap fun w => bytesOf 8 w.toNat)
  let s := s.modLaunch part i fun _ =>
    { remain := BitVec.ofNat 32 (countBits r.mask), cancelled := 0, faults := 0, first := 0, gen := gen, tag := tag,
      level := level, bound := r.bound, trap := r.trap, flagMask := r.flagMask, signal := r.signal, mask := r.mask,
      entry := r.entry, regmap := r.regmap, args := r.args.take 5, chans := r.chans, held := false, armed := true,
      provisional := false, stopped := false }
  (s.launchBack part i).armRelease part i

/-- A held arming proceeds once its endpoints are free (R374). -/
def execArmingRelease (part idx : Nat) (s : State) : Result :=
  .next (if (s.getLaunch part idx).held then s.armRelease part idx else s)

/-! ### Deliveries (R39, R98, R345) -/

/-- The launch engine's atomic add on RESV (R98), traced as of agent 20. -/
def State.reserve (s : State) (core : Nat) : State :=
  let s := s.modCore core fun c => { c with port := { c.port with resv := c.port.resv + 1 } }
  ((s.trace core 1 3 20 0 0x49010).replayPop core).bumpSeq core 1

/-- The delivery has reserved its slot and is not yet published. -/
def Delivery.placed (d : Delivery) : Bool := d.stage == 1 || d.stage == 2

/-- The oldest delivery to a core that holds its slot. -/
def State.nextDelivery (s : State) (core : Nat) : Option Delivery :=
  (s.getPart (s.partOf core)).held.find? fun d => d.core == core && d.placed

/-- The delivery to a core that is to reserve next: one arming reserves in ascending core index (R374 step 4). -/
def State.nextReserve (s : State) (core : Nat) : Option Delivery :=
  let held := (s.getPart (s.partOf core)).held
  match held.find? fun d => d.core == core && d.stage == 0 with
  | none => none
  | some d => if held.any fun x => x.idx == d.idx && x.stage == 0 && decide (x.core < core) then none else some d

/-- Changes the first delivery of a kind; none removes it. -/
def changeFirst (p : Delivery → Bool) (f : Delivery → Option Delivery) : List Delivery → List Delivery
  | [] => []
  | d :: ds =>
    if p d then
      match f d with
      | some d' => d' :: ds
      | none => ds
    else d :: changeFirst p f ds

/-- Changes the oldest delivery to a core, of those that hold a slot or of those that have still to reserve one. -/
def State.modDelivery (s : State) (core : Nat) (placed : Bool) (f : Delivery → Option Delivery) : State :=
  s.modPart (s.partOf core) fun p =>
    { p with held := changeFirst (fun d => d.core == core && (if placed then d.placed else d.stage == 0)) f p.held }

/-- A write piece of the launch engine. -/
def frontPiece (core off : Nat) (bs : List Byte) : Piece :=
  { src := 512, agent := 20, ctx := 0, dst := core, off := off, bytes := bs, skip := [], engine := false, launch := none }

/-- The step that the oldest delivery with a slot makes now, if it can: it writes its slot once HEAD has risen above
k − 64, and publishes when TAIL has reached k (R98). -/
def State.deliver (s : State) (core : Nat) : Option State :=
  match s.nextDelivery core with
  | none => none
  | some d =>
    let p := (s.getCore core).port
    if d.stage = 1 then
      let piece := frontPiece core (0x48000 + 64 * (d.k.toNat % 64)) d.bytes
      if d.k.toNat < p.head.toNat + 64 ∧ s.admits piece then
        some ((s.perform piece).modDelivery core true fun d => some { d with stage := 2 })
      else none
    else
      let piece := frontPiece core 0x49000 (bytesOf 8 (d.k + 1).toNat)
      if d.k.toNat < p.tail.toNat then some (s.modDelivery core true fun _ => none)
      else if p.tail = d.k ∧ s.admits piece then some ((s.perform piece).modDelivery core true fun _ => none)
      else none

/-- The next delivery to a core takes its slot, if it can. A core that holds another job's state is cleared before this
first access of the new one (R391, log entry 131). -/
def State.deliverReserve (s : State) (core : Nat) : Option State :=
  match s.nextReserve core with
  | none => none
  | some _ =>
    if s.replayAdmits core 1 3 20 0 0x49010 then
      let s := s.ownCore core (s.nextDelivery core).isNone
      let k := (s.getCore core).port.resv
      some ((s.reserve core).modDelivery core false fun d => some { d with stage := 1, k := k })
    else none

/-- A delivery to a core makes its next step (R98), or a mark that its port has held is made (R32, R422). -/
def execHeldInboxDelivery (core : Nat) (s : State) : Result :=
  .next ((s.markHeld core).getD ((s.deliver core).getD ((s.deliverReserve core).getD s)))

/-! ### Confirmation (R31) -/

/-- An engine-bound instruction of an arming is in flight, a copy of it has not left its engine, or a piece of an engine's
write for it is on its way to a port (R31, R378 step 1). -/
def State.windowOpen (s : State) (part i : Nat) (gen : BitVec 20) : Bool :=
  (s.pieces.any fun p => s.partOf p.src == part && p.engine && p.launch == some (i, gen)) ||
  s.coreKeys.any fun c =>
    s.partOf c == part &&
    ((s.getCore c).dring.any (fun e => e.2.st == .inFlight && e.2.launch == some (i, gen)) ||
     (s.getCore c).copies.any fun r => ((s.getCore c).entry r.seq).launch == some (i, gen))

/-- The arming has no unit left and its fault window has drained. -/
def State.drained? (s : State) (part i : Nat) (gen : BitVec 20) : Bool :=
  let l := s.getLaunch part i
  l.gen != gen || (l.remain == 0 && !s.windowOpen part i gen)

/-- A launch whose units are over has drained: it is confirmed, or, stopped by a fault, its signal reports the fault's
code (R31, R333, R378). -/
def execLaunchConfirm (part idx : Nat) (s : State) : Result :=
  .next (
    let l := s.getLaunch part idx
    if l.armed ∧ s.drained? part idx l.gen then
      let s := s.modLaunch part idx fun l => { l with armed := false }
      let s := if l.stopped ∧ l.first = 0 then s else s.signal part l.signal 1 idx l.stopped l.first 0 0
      if l.bound ∧ !l.stopped then s.report part (.confirm l.tag) else s
    else s)

/-! ### The inbox (R320, R436) -/

/-- A record is published. -/
def Port.hasRecord (p : Port) : Bool := decide (p.head.toNat < p.tail.toNat)

/-- itake (R320). -/
def execItake (d : SReg) (s : State) : Result :=
  s.system true [] [d] fun s =>
    let p := s.me.port
    s.result d (if p.hasRecord then p.head else ones64)

/-- The unit that a released record starts (R320, R436). A core that holds another job's state is cleared before it, but
for its inbox and port, which the new job has reached already (R391, log entry 131). A unit that runs still is the core's
no more (log entry 57). -/
def State.startUnit (s : State) (slot : Nat) : State :=
  let s := s.ownCore s.core false
  let c := s.me
  let tag := c.slotTag slot
  let i := bits tag.toNat 63 52
  let l := s.getLaunch s.part i
  let u : UnitRec :=
    if c.port.marks.getLsbD slot then
      { launch := some (i, BitVec.ofNat 20 (bits tag.toNat 51 32)), tag := tag, flagMask := l.flagMask, trap := l.trap,
        stopped := false }
    else { launch := none, tag := tag, flagMask := 0, trap := true, stopped := false }
  s.modMe fun c => { c with unit := some u, units := c.units + 1 }

/-- irel (R320): HEAD rises, the slot is free, and a record not marked cancelled starts a unit. -/
def execIrel (d : SReg) (s : State) : Result :=
  s.system true [] [d] fun s =>
    let p := s.me.port
    if !p.hasRecord then s.fault 0x0015
    else
      let slot := p.head.toNat % 64
      let dead := (Memory.get p.inbox (64 * slot + 0x10)).getLsbD 7
      let s := if dead then s else s.startUnit slot
      let s := s.modMe fun c =>
        { c with port := { c.port with head := c.port.head + 1, marks := c.port.marks &&& ~~~(1#64 <<< slot) } }
      s.result d (if dead then 1 else 0)

/-- iwait (R320). -/
def execIwait (d : SReg) (s : State) : Result :=
  s.system true [] [d] fun s =>
    let p := s.me.port
    if p.hasRecord then s.result d p.head else s.waitOn .inbox none

/-- iwait.p (R320). A wake for the pool that came while the context was halted was kept (R43). -/
def execIwaitP (d a : SReg) (s : State) : Result :=
  s.system true [a] [d] fun s =>
    let n := bits (s.rd a).toNat 5 0
    if s.poolsPer ≤ n then s.illegal
    else if s.me.port.hasRecord then s.result d 0
    else if !(s.getPool s.part n).present.isEmpty ∨ s.cx.woken then s.result d 1
    else s.waitOn (.inboxPool n) none

/-! ### The end of a unit (R315) -/

/-- Every helper of a mask is FREE (R314). -/
def Core.helpersFree (c : Core) (mask : BitVec 10) : Bool :=
  (upTo 10).all fun i => !mask.getLsbD i || (c.getCtx (i + 1)).mode == .free

/-- What gdone places behind the queued instructions (R315 step 4). -/
def State.placeSys (s : State) : State :=
  let c := s.me
  let q (i : Instr) : QEntry :=
    { instr := i, seq := c.seq, ctx := 0, a := 0, b := 0, c := 0, fmode := 0, journal := 0, unit := c.units,
      words := (Sys2Proof.encode i).getD [], sys := true }
  let s := if c.vq.isEmpty then s.passUp s.core else s
  s.modMe fun c => { c with vq := c.vq ++ [q .mleaseRel], fq := c.fq ++ [q .afcfgRel] }

/-- The unit leaves the core: no LATE and no flush of it is left (R336, R339). -/
def State.clearUnit (s : State) : State :=
  s.modMe fun c => { c with unit := none, late := [], flush := false, flushF := false }

/-- gdone (R315). -/
def execGdone (s : State) : Result :=
  s.system true [] [] fun s =>
    match s.me.unit with
    | none => s.fault 0x0012
    | some u =>
      if !s.me.helpersFree (BitVec.allOnes 10) then s.waitOn (.helpers (BitVec.allOnes 10)) none
      else
        let late := s.me.late
        let s := ((s.unbindAll s.core).placeSys).clearUnit
        let s := s.modCx fun x =>
          { (x.sequential s.mine.desc.done).settled with tl := false, barResult := none, handling := 0 }
        match u.launch with
        | none => late.foldl (fun s l => s.logLate s.core l.seq l.code) s
        | some (i, _) =>
          let s := s.unitOver s.part i s.core false
          late.foldl (fun s l => s.reportLaunch s.core u.launch l.seq l.code) s

end Sys2Proof.Machine
end

