-- ==== Sys2Proof/Machine/Graph.lean ====
section
/-! DEFINITION. The graph engine (R58 to R73, R316 to R319, R376, R377), phases and jobs (R380, R381), and the
instructions that arm, patch and cancel. -/

namespace Sys2Proof.Machine

/-! ### Node and graph records (R376, R377) -/

/-- The payload that names a node (R63). -/
def nodeTag (slot i : Nat) (n : Node) : Word :=
  BitVec.ofNat 64 (n.launch * 2 ^ 52 + n.gen.toNat * 2 ^ 32 + slot * 2 ^ 20 + i)

/-- STATE of a node record (R376). -/
def NodeState.num : NodeState → Nat
  | .idle => 0 | .armed => 1 | .ready => 2 | .running => 3 | .doneProvisional => 4 | .confirmed => 5 | .faulted => 6
  | .cancelling => 7 | .cancelled => 8

/-- A node of a graph. -/
def Graph.node (g : Graph) (i : Nat) : Node := Sparse.get Node.reset g.nodes i

/-- The node is CONFIRMED or CANCELLED. -/
def Node.final (n : Node) : Bool := n.state == .confirmed || n.state == .cancelled

/-- Nodes neither CONFIRMED nor CANCELLED (R30). -/
def Graph.left (g : Graph) : Nat := ((upTo g.n).filter fun i => !(g.node i).final).length

/-- The confirmation horizon (R62). -/
def Graph.horizon (g : Graph) : Nat := ((upTo g.n).find? fun i => !(g.node i).final).getD g.n

/-- CURPHASE (R377). -/
def WalkPhase.num : WalkPhase → Nat
  | .idle => 0 | .marking => 1 | .recount => 2

/-- The graph engine writes back a node's engine-held fields, bits [511:432] (R376). -/
def State.writeNode (s : State) (part slot i : Nat) : State :=
  let g := s.getGraph part slot
  let n := g.node i
  s.engPatch part .graph (g.nodesVa + BitVec.ofNat 64 (128 * i + 54)) 10 fun x =>
    setBits (setBits (setBits (setBits (setBits (setBits x 15 0 n.fault.toNat) 27 24 n.state.num) 29 28 n.level.toNat)
      39 32 n.budget.toNat) 59 40 n.gen.toNat) 79 60 n.pending

/-- The graph engine writes back a graph's engine-held fields, bits [959:768] and MERGE (R377). -/
def State.writeGraph (s : State) (part slot : Nat) : State :=
  let g := s.getGraph part slot
  let merge := (g.merge.mapIdx fun i m =>
    (m.1 * 2 ^ 44 + m.2.1.toNat * 2 ^ 24 + m.2.2.toNat * 2 ^ 8 + 1) * 2 ^ (64 * i)).foldl Nat.add 0
  let s := s.engPatch part .graph (g.addr + 96) 24 fun x =>
    setBits (setBits (setBits (setBits (setBits (setBits (setBits (setBits (setBits x 15 0 g.cause.toNat)
      21 17 g.merge.length) 23 22 g.phase.num) 43 24 g.root) 64 44 g.next) 85 65 g.horizon) 106 86 g.left)
      159 128 g.walks) 191 160 g.retries
  s.engWrite part .graph (g.addr + 128) (bytesOf 128 merge)

/-- Changes a node and writes its record back. -/
def State.modNode (s : State) (part slot i : Nat) (f : Node → Node) : State :=
  (s.modGraph part slot fun g => { g with nodes := g.nodes.set i (f (g.node i)) }).writeNode part slot i

/-- 32-bit node indices at an address. -/
def State.readIndices (s : State) (part : Nat) (va : Word) (n : Nat) : Option (List Nat) × State :=
  match s.engRead part .graph va (4 * n) with
  | (none, s) => (none, s)
  | (some bs, s) => (some ((upTo n).map fun i => natOf ((bs.drop (4 * i)).take 4)), s)

/-- Reads a node record; none when it cannot be read or breaks a field rule (R376). -/
def State.readNode (s : State) (part : Nat) (va : Word) : Option Node × State :=
  match s.engRead part .graph va 128 with
  | (none, s) => (none, s)
  | (some bs, s) =>
    let x := natOf bs
    if bits x 523 512 ≠ 0 ∨ bits x 431 0 ≠ 0 ∨ bits x 455 448 ≠ 2 ∨ bits x 463 462 = 3 then (none, s)
    else
      match s.readIndices part (BitVec.ofNat 64 (bits x 703 640)) (bits x 575 556) with
      | (none, s) => (none, s)
      | (some preds, s) =>
        match s.readIndices part (BitVec.ofNat 64 (bits x 639 576)) (bits x 555 536) with
        | (none, s) => (none, s)
        | (some succs, s) =>
          (some { Node.reset with budget := BitVec.ofNat 8 (bits x 471 464), policy := BitVec.ofNat 2 (bits x 463 462),
                                  key := BitVec.ofNat 64 (bits x 767 704), launch := bits x 535 524, preds := preds,
                                  succs := succs }, s)

/-- Reads the nodes from index `i` on; `fuel` are left. -/
def State.readNodes (s : State) (part : Nat) (base : Word) : Nat → Nat → Option (Sparse Node) × State
  | 0, _ => (some [], s)
  | fuel + 1, i =>
    match s.readNode part (base + BitVec.ofNat 64 (128 * i)) with
    | (none, s) => (none, s)
    | (some n, s) =>
      match State.readNodes s part base fuel (i + 1) with
      | (none, s) => (none, s)
      | (some ns, s) => (some ((i, n) :: ns), s)

/-- Reads a graph with its nodes, every node IDLE; none when a record cannot be read or breaks a field rule (R377). -/
def State.readGraph (s : State) (part : Nat) (addr : Word) : Option Graph × State :=
  match s.engRead part .graph addr 256 with
  | (none, s) => (none, s)
  | (some bs, s) =>
    let x := natOf bs
    let n := bits x 895 875
    if bits x 784 784 ≠ 0 ∨ bits x 727 0 ≠ 0 ∨ bits x 735 728 ≠ 2 ∨ n = 0 ∨ 1048576 < n then (none, s)
    else
      let base := BitVec.ofNat 64 (bits x 1023 960)
      match s.readNodes part base n 0 with
      | (none, s) => (none, s)
      | (some ns, s) =>
        (some { Graph.reset with addr := addr, nodesVa := base, n := n, nodes := ns, phaseId := bits x 767 752,
                                 signal := BitVec.ofNat 16 (bits x 751 736) }, s)

/-- Every edge runs upward and the predecessor lists agree with the successor lists (R59). -/
def Graph.orderOk (g : Graph) : Bool :=
  (upTo g.n).all fun i =>
    ((g.node i).succs.all fun j =>
      decide (i < j) && decide (j < g.n) && (g.node j).preds.count i == (g.node i).succs.count j) &&
    (g.node i).preds.all fun j => decide (j < i) && (g.node j).succs.count i == (g.node i).preds.count j

/-! ### Phases and jobs (R380, R381) -/

/-- The address of phase entry `p` (R380). -/
def State.phaseVa (s : State) (part p : Nat) : Word := (s.getPart part).desc.phase + BitVec.ofNat 64 (0x40 + 0x10 * p)

/-- A phase entry as held. -/
def Job.phase (j : Job) (p : Nat) : Phase := Sparse.get Phase.reset j.phases p

/-- Changes the job record. -/
def State.modJob (s : State) (part : Nat) (f : Job → Job) : State := s.modPart part fun x => { x with job := f x.job }

/-- The job's last phase is over: STATE and the job's signal (R381). -/
def State.jobEnd (s : State) (part : Nat) : State :=
  let j := (s.getPart part).job
  if j.state = 1 ∧ j.left = 0 then
    (s.modJob part fun j => { j with state := if j.cancel then 3 else 2 }).signal part j.signal 4 0 j.cancel 0 0 0
  else s

/-- A phase without graphs left: STATE, its signal, LEFT (R380). -/
def State.phaseEnd (s : State) (part p : Nat) : State :=
  let x := (s.getPart part).job.phase p
  if x.state = 0 ∧ x.graphs = 0 then
    let s := s.modJob part fun j =>
      { j with phases := j.phases.set p { x with state := if x.cancel then 2 else 1 } }
    let s := s.engPatch part .phase (s.phaseVa part p) 8 fun y => setBits y 47 46 (if x.cancel then 2 else 1)
    let s := s.signal part x.signal 3 p x.cancel 0 0 0
    let s := s.modJob part fun j => { j with left := j.left - 1 }
    let s := s.engPatch part .phase (s.getPart part).desc.phase 8 fun y => setBits y 39 32 (s.getPart part).job.left
    s.jobEnd part
  else s

/-- Changes GRAPHS of a phase entry, and writes it back. -/
def State.phaseLeft (s : State) (part p n : Nat) : State :=
  let s := s.modJob part fun j => { j with phases := j.phases.set p { j.phase p with graphs := n } }
  s.engPatch part .phase (s.phaseVa part p) 8 fun y => setBits y 31 0 n

/-- The graphs loaded with a PHASEID. -/
def State.graphsOf (s : State) (part p : Nat) : List Nat :=
  ((s.getPart part).graphs.filter fun g => g.2.phaseId == p).map fun g => g.1

/-- A cancelled phase reaches 0 when the last of its graphs has drained, those that GRAPHS still counts and that have no run
among them (R380). -/
def State.phaseDrain (s : State) (part p : Nat) : State :=
  let j := (s.getPart part).job
  let x := j.phase p
  if j.state = 1 ∧ Sparse.has j.phases p ∧ x.cancel ∧ x.state = 0 ∧
      (s.graphsOf part p).all (fun i => !(s.getGraph part i).armed) then
    (s.phaseLeft part p 0).phaseEnd part p
  else s

/-- A graph's counter has reached 0: it counts towards its phase once for each JOBSTART, and a cancelled phase may have drained
with it (R380). -/
def State.phaseCount (s : State) (part slot : Nat) : State :=
  let g := s.getGraph part slot
  let j := (s.getPart part).job
  let s :=
    if j.state = 1 ∧ !g.counted then
      let s := s.modGraph part slot fun g => { g with counted := true }
      if Sparse.has j.phases g.phaseId ∧ 0 < (j.phase g.phaseId).graphs then
        (s.phaseLeft part g.phaseId ((j.phase g.phaseId).graphs - 1)).phaseEnd part g.phaseId
      else s
    else s
  s.phaseDrain part g.phaseId

/-! ### The end of a graph (R71, R378) -/

/-- Every launch of a list has drained (R68, R71). -/
def State.allDrained (s : State) (part : Nat) (ls : List (Nat × BitVec 20)) : Bool :=
  ls.all fun l => s.drained? part l.1 l.2

/-- The graph's record is written back; its counter reaches 0 when every node is final and every stopped launch has
drained: its signal moves and it counts towards its phase. -/
def State.graphSettle (s : State) (part slot : Nat) : State :=
  let s := s.writeGraph part slot
  let g := s.getGraph part slot
  if g.armed ∧ g.left = 0 ∧ s.allDrained part g.draining then
    let s := s.modGraph part slot fun g => { g with armed := false, draining := [] }
    let s := s.signal part g.signal 2 slot g.cancel (if g.cancel then g.cause else 0)
      (if g.cancel then g.causeRoot.toNat else 0) (if g.cancel then g.cancelled else 0)
    s.phaseCount part slot
  else s

/-- One node of a graph cancel (R71 step 2). -/
def State.cancelVisit (s : State) (part slot i : Nat) : State :=
  let n := (s.getGraph part slot).node i
  if n.final then s
  else
    let s := if n.state = .ready then s.cancelNode part (nodeTag slot i n) else s
    let mine := (s.getLaunch part n.launch).gen = n.gen
    let s := if n.state = .running ∧ mine then s.stopLaunch part n.launch else s
    let s := s.modGraph part slot fun g =>
      { g with cancelled := g.cancelled + 1,
               draining := if n.state = .running ∨ n.state = .faulted then g.draining ++ [(n.launch, n.gen)] else g.draining }
    s.modNode part slot i fun n => { n with state := .cancelled }

/-- A graph cancel (R71). One that finds the graph not armed, every node final, or a cancel under way has no effect (R33,
R316); a phase's cancel also reaches its graphs that have not been armed (`idle`; R61, R380). GCANCEL counts those by
policy or MERGE_OVERFLOW, which name a root (R429). -/
def State.cancelGraph (s : State) (part slot : Nat) (cause : BitVec 16) (root : BitVec 32) (idle : Bool) : State :=
  let g := s.getGraph part slot
  if g.n = 0 ∨ g.left = 0 ∨ !(g.armed || idle) then s
  else
    let s := s.modGraph part slot fun g =>
      { g with merge := [], phase := .idle, cancel := true, armed := true, cause := cause, causeRoot := root,
               root := if root = 0xFFFFFFFF then g.root else root.toNat, draining := g.draining ++ g.stopped, stopped := [] }
    let s := if root = 0xFFFFFFFF then s else s.count part fun t => { t with gcancel := satAdd 32 t.gcancel 1 }
    let s := (upTo g.n).foldl (fun s i => s.cancelVisit part slot i) s
    s.graphSettle part slot

/-- A graph cancel, or the end of one whose stopped launches have drained (R71). -/
def execGraphCancel (part slot : Nat) (s : State) : Result :=
  .next (if (s.getGraph part slot).left = 0 then s.graphSettle part slot else s.cancelGraph part slot 0 0xFFFFFFFF false)

/-! ### Arming (R59, R317) -/

/-- A graph of the slot has been loaded. -/
def State.loaded (s : State) (part slot : Nat) : Bool := Sparse.has (s.getPart part).graphs slot

/-- The slot of an event of the graph engine. -/
def GraphEvent.slot : GraphEvent → Nat
  | .token s _ => s
  | .provisional t | .confirm t | .fault t _ => bits t.toNat 31 20

/-- A node as garm makes it (R59); the code of its last fault stands. -/
def armNode (n : Node) (fault : BitVec 16) : Node :=
  { n with pending := n.preds.length, gen := 0, level := 0, ready := false, fault := fault,
           state := if n.preds.length = 0 then .ready else .armed }

/-- A report of an old generation is discarded and logged (R65, R430). -/
def State.staleReport (s : State) (part : Nat) (tag : Word) (what : Nat) (code : BitVec 16) : State :=
  s.logPart part 1 code.toNat tag.toNat what

/-- The node of a tag, when the tag's generation is its current one. -/
def State.current (s : State) (part : Nat) (tag : Word) : Option (Nat × Nat × Node) :=
  let slot := bits tag.toNat 31 20
  let i := bits tag.toNat 19 0
  let n := (s.getGraph part slot).node i
  if s.loaded part slot ∧ n.gen.toNat = bits tag.toNat 51 32 then some (slot, i, n) else none

/-- The unprocessed tokens and reports of a graph whose nodes are all IDLE or final are handled: a token is dropped, a
report of an old generation logged, and any other leaves its node as it is (R61, R65, log entry 65). -/
def State.handleLeft (s : State) (part slot : Nat) : State :=
  let p := s.getPart part
  let s := ((p.backlog ++ p.overdue).filter fun e => e.slot == slot).foldl (fun s e =>
    let old (tag : Word) (what : Nat) (code : BitVec 16) : State :=
      if (s.current part tag).isSome then s else s.staleReport part tag what code
    match e with
    | .token _ _ => s
    | .provisional t => old t 0 0
    | .confirm t => old t 1 0
    | .fault t c => old t 2 c) s
  s.modPart part fun p =>
    { p with backlog := p.backlog.filter fun e => e.slot != slot, overdue := p.overdue.filter fun e => e.slot != slot,
             replays := ((p.backlog.take p.replays).filter fun e => e.slot != slot).length }

/-- The tags of READY nodes enter pool 0 in index order. -/
def State.putReady (s : State) (part slot : Nat) : State :=
  let g := s.getGraph part slot
  (upTo g.n).foldl (fun s i =>
    let n := g.node i
    if n.state = .ready then s.putNode part n.key (nodeTag slot i n) else s) s

/-- garm's work (R59, R317): the status and the state. -/
def State.armGraph (s : State) (part slot : Nat) : Nat × State :=
  if 4095 < slot ∨ !s.loaded part slot then (3, s)
  else
    let old := s.getGraph part slot
    if (upTo old.n).any (fun i => !((old.node i).final || (old.node i).state == .idle)) then (1, s)
    else
      match s.readGraph part old.addr with
      | (none, s) => (3, s)
      | (some g, s) =>
        if !g.orderOk then (2, s)
        else
          let s := s.handleLeft part slot
          let nodes := g.nodes.map fun x => (x.1, armNode x.2 (old.node x.1).fault)
          let s := s.modGraph part slot fun _ =>
            { g with nodes := nodes, armed := true, retries := old.retries, walks := old.walks, cause := old.cause,
                     counted := old.counted, draining := old.draining }
          let s := (upTo g.n).foldl (fun s i => s.writeNode part slot i) s
          (0, (s.writeGraph part slot).putReady part slot)

/-- garm (R317). -/
def execGarm (d a : SReg) (s : State) : Result :=
  s.system true [a] [d] fun s =>
    let (st, s) := s.armGraph s.part (s.rd a).toNat
    s.result d (BitVec.ofNat 64 st)

/-- larm's work (R318): the status and the state. -/
def State.armLaunch (s : State) (part : Nat) (tag : Word) : Nat × State :=
  let i := bits tag.toNat 63 52
  let slot := bits tag.toNat 31 20
  let node := bits tag.toNat 19 0
  let gen : BitVec 20 := BitVec.ofNat 20 (bits tag.toNat 51 32)
  match s.readLaunch part i with
  | (none, s) => (3, s)
  | (some r, s) =>
    if r.bound then
      let n := (s.getGraph part slot).node node
      if r.graph = slot ∧ r.node = node ∧ s.loaded part slot ∧ n.state = .ready ∧ n.gen = gen then
        let s := s.modNode part slot node fun n => { n with state := .running }
        (0, (s.writeGraph part slot).arm part i r tag gen n.level)
      else (1, s)
    else if bits tag.toNat 51 0 ≠ 0 then (1, s)
    else if (s.getLaunch part i).remain ≠ 0 then (2, s)
    else (0, s.arm part i r tag 0 0)

/-- larm (R318). -/
def execLarm (d a : SReg) (s : State) : Result :=
  s.system true [a] [d] fun s =>
    let (st, s) := s.armLaunch s.part (s.rd a)
    s.result d (BitVec.ofNat 64 st)

/-- lpatch's write (R319); an index out of range has none. -/
def State.patchLaunch (s : State) (part : Nat) (i word value : Word) : Option State :=
  if 4095 < i.toNat ∨ 15 < word.toNat then none
  else some (s.engWrite part .launch (s.launchVa part i.toNat + 0x80 + word * 8) (bytesOf 8 value.toNat))

/-- lpatch (R319). -/
def execLpatch (a b : SReg) (c : CReg) (s : State) : Result :=
  s.system true [a, b, c.setWidth 5] [] fun s =>
    match s.patchLaunch s.part (s.rd a) (s.rd b) (s.rdC c) with
    | none => s.fault 0x0014
    | some s => s.retire

/-! ### Events of the graph engine (R65, R66) -/

/-- The engine takes an event, when it is the oldest of its graph; events of a restored backlog are taken in its order
(R66, R73). A report whose agent waits for room enters the backlog behind (R345). -/
def State.takeEvent (s : State) (part : Nat) (e : GraphEvent) : Option State :=
  let p := s.getPart part
  match if 0 < p.replays then p.backlog.head? else p.backlog.find? fun x => x.slot == e.slot with
  | some x =>
    if x = e then
      some (s.modPart part fun p =>
        { p with backlog := p.backlog.erase e ++ p.overdue.take 1, overdue := p.overdue.drop 1, replays := p.replays - 1 })
    else none
  | none => none

/-- A token reaches a node (R65). -/
def State.token (s : State) (part slot i : Nat) : State :=
  let n := (s.getGraph part slot).node i
  if n.state = .armed then
    let s := s.modNode part slot i fun n =>
      { n with pending := n.pending - 1, state := if n.pending ≤ 1 then .ready else .armed }
    let n := (s.getGraph part slot).node i
    if n.state = .ready then s.putNode part n.key (nodeTag slot i n) else s
  else s

/-- A token is handled. -/
def execGraphToken (part slot node : Nat) (s : State) : Result :=
  .next (match s.takeEvent part (.token slot node) with
    | none => s
    | some s => s.token part slot node)

/-- Unprocessed tokens that the engine holds beside its reports (R345). -/
def tokenRoom : Nat := 49152

/-- A launch's provisional completion reaches its node (R65): one token for each successor. Tokens that the backlog has no room
for take their effect with the completion, so that none is unprocessed (R345, log entry 115). -/
def execGraphProvisionalReport (part : Nat) (tag : Word) (s : State) : Result :=
  .next (match s.takeEvent part (.provisional tag) with
    | none => s
    | some t =>
      match t.current part tag with
      | none => t.staleReport part tag 0 0
      | some (slot, i, n) =>
        if n.state ≠ .running then t
        else
          let backlog := (t.getPart part).backlog
          let done := (t.modNode part slot i fun n => { n with state := .doneProvisional }).writeGraph part slot
          if backlog.length + n.succs.length ≤ tokenRoom then
            done.modPart part fun p => { p with backlog := p.backlog ++ n.succs.map fun j => .token slot j }
          else n.succs.foldl (fun s j => s.token part slot j) done)

/-- Confirmation spreads forward from a node in index order (R61, R62). -/
def State.spread (s : State) (part slot i : Nat) : State :=
  (upTo ((s.getGraph part slot).n - i)).foldl (fun s k =>
    let g := s.getGraph part slot
    let n := g.node (i + k)
    if n.state = .doneProvisional ∧ n.ready ∧ n.preds.all (fun j => (g.node j).state == .confirmed) then
      s.modNode part slot (i + k) fun n => { n with state := .confirmed }
    else s) s

/-- A launch's confirmation reaches its node (R62). -/
def execGraphConfirmReport (part : Nat) (tag : Word) (s : State) : Result :=
  .next (match s.takeEvent part (.confirm tag) with
    | none => s
    | some s =>
      match s.current part tag with
      | none => s.staleReport part tag 1 0
      | some (slot, i, _) =>
        let s := s.modGraph part slot fun g => { g with nodes := g.nodes.set i { g.node i with ready := true } }
        (s.spread part slot i).graphSettle part slot)

/-! ### Walks (R67, R68, R70, R72) -/

/-- A walk starts at a root (R67); from then on it counts as performed (R70, log entry 147). -/
def State.startWalk (s : State) (part slot root : Nat) : State :=
  let n := (s.getGraph part slot).node root
  let s := s.modNode part slot root fun n => { n with gen := n.gen + 1 }
  let s := s.count part fun t => { t with walks := satAdd 64 t.walks 1 }
  s.modGraph part slot fun g =>
    { g with walks := (g.walks + 1) % 2 ^ 32, phase := if root + 1 < g.n then .marking else .recount, root := root,
             next := if root + 1 < g.n then root + 1 else root, stopped := [(n.launch, n.gen)] }

/-- The walk has ended, or faults have queued up with none active: the entry of the merge queue with the lowest root
starts the next; entries whose root was re-fired since are discarded (R72). -/
def State.endWalk (s : State) (part slot : Nat) : State :=
  let g := s.getGraph part slot
  let live := g.merge.filter fun m => (g.node m.1).gen == m.2.1 && (g.node m.1).state == .faulted
  match live with
  | [] => s.modGraph part slot fun g => { g with phase := .idle, merge := [], stopped := [] }
  | m :: ms =>
    let lo := ms.foldl (fun (a : Nat × BitVec 20 × BitVec 16) b => if b.1 < a.1 then b else a) m
    (s.modGraph part slot fun g => { g with phase := .idle, merge := live.erase lo }).startWalk part slot lo.1

/-- The next unprocessed event of a graph is a fault, so that it has arrived together with the one before it (R72). -/
def State.faultNext (s : State) (part slot : Nat) : Bool :=
  match (s.getPart part).backlog.find? fun e => e.slot == slot with
  | some (.fault _ _) => true
  | _ => false

/-- With no walk active, the queued faults start one once no other that has arrived with them is to be queued (R72). -/
def State.startQueued (s : State) (part slot : Nat) : State :=
  let g := s.getGraph part slot
  if g.phase = .idle ∧ !g.merge.isEmpty ∧ !s.faultNext part slot then (s.endWalk part slot).writeGraph part slot else s

/-- A late fault of a launch reaches its node and the merge queue; one that finds the queue full cancels the graph (R61,
R67, R72). That cancel names the root of the active walk, or with none the node that finds the queue full (log entry 146). -/
def execGraphFaultReport (part : Nat) (tag : Word) (code : BitVec 16) (s : State) : Result :=
  .next (match s.takeEvent part (.fault tag code) with
    | none => s
    | some s =>
      let slot := bits tag.toNat 31 20
      let s : State := match s.current part tag with
        | none => s.staleReport part tag 2 code
        | some (_, i, n) =>
          if n.state ≠ .running ∧ n.state ≠ .doneProvisional then s
          else
            let s := s.modNode part slot i fun n => { n with state := .faulted, fault := code }
            let g := s.getGraph part slot
            if g.merge.length < 16 then
              (s.modGraph part slot fun g => { g with merge := g.merge ++ [(i, n.gen, code)] }).writeGraph part slot
            else s.cancelGraph part slot 0x0044 (BitVec.ofNat 32 (if g.phase = .idle then i else g.root)) false
      s.startQueued part slot)

/-- A walk marks a member of the cone (R67). -/
def State.mark (s : State) (part slot i : Nat) : State :=
  let n := (s.getGraph part slot).node i
  let s := if n.state = .ready then s.cancelNode part (nodeTag slot i n) else s
  let s := if n.state = .running ∧ (s.getLaunch part n.launch).gen = n.gen then s.stopLaunch part n.launch else s
  let waits := n.state = .running ∨ n.state = .faulted ∨ n.state = .doneProvisional
  let s := s.modGraph part slot fun g =>
    { g with stopped := if waits then g.stopped ++ [(n.launch, n.gen)] else g.stopped }
  s.modNode part slot i fun n => { n with state := .cancelling, gen := n.gen + 1 }

/-- One step of phase 1: the visit of one node. A restored backlog is replayed before (R73). -/
def execWalkMarkStep (part slot : Nat) (s : State) : Result :=
  let g := s.getGraph part slot
  .next (if g.phase ≠ .marking ∨ 0 < (s.getPart part).replays then s
    else
      let i := g.next
      let member := ((g.node i).preds.any fun j => j == g.root || (g.node j).state == .cancelling) && !(g.node i).final
      let s := if member then s.mark part slot i else s
      (s.modGraph part slot fun g =>
        if i + 1 < g.n then { g with next := i + 1 } else { g with phase := .recount, next := g.root }).writeGraph part slot)

/-- The root's retry is taken from its budget (R70); it is counted when its walk ends (R429). -/
def State.retry (s : State) (part slot : Nat) : State :=
  let root := (s.getGraph part slot).root
  s.modNode part slot root fun n =>
    { n with budget := n.budget - 1, level := if n.policy = 1 ∧ n.level ≠ 3 then n.level + 1 else n.level }

/-- The recount of one node (R68). -/
def State.recount (s : State) (part slot i : Nat) : State :=
  let g := s.getGraph part slot
  let n := g.node i
  let p := (n.preds.filter fun j => !((g.node j).state == .doneProvisional || (g.node j).state == .confirmed)).length
  let s := s.modNode part slot i fun n => { n with pending := p, ready := false, state := if p = 0 then .ready else .armed }
  let n := (s.getGraph part slot).node i
  if p = 0 then s.putNode part n.key (nodeTag slot i n) else s

/-- A walk whose recount is complete ends, and counts its retry (R70, R429). -/
def State.walkOver (s : State) (part slot : Nat) : State :=
  let s := s.count part fun t => { t with retries := satAdd 64 t.retries 1 }
  (s.modGraph part slot fun g => { g with retries := (g.retries + 1) % 2 ^ 32 }).endWalk part slot

/-- One step of phase 2, once every launch of the cone has drained: the visit of one node. At the root its policy
decides (R70). -/
def execWalkRecountStep (part slot : Nat) (s : State) : Result :=
  let g := s.getGraph part slot
  .next (if g.phase ≠ .recount ∨ 0 < (s.getPart part).replays ∨ !s.allDrained part g.stopped then s
    else
      let i := g.next
      let n := g.node i
      if i = g.root ∧ (n.policy = 2 ∨ n.budget = 0) then s.cancelGraph part slot n.fault (BitVec.ofNat 32 g.root) false
      else
        let s := if i = g.root then s.retry part slot else s
        let s := if i = g.root ∨ n.state = .cancelling then s.recount part slot i else s
        let s :=
          if i + 1 < g.n then s.modGraph part slot fun g => { g with next := i + 1 } else s.walkOver part slot
        s.writeGraph part slot)

/-! ### Cancels (R316, R380, R381) -/

/-- A phase cancel (R380): every graph of a phase of the running job, one that no run has armed among them, and with no job
running those that are armed. Of a phase complete or cancelled already it has no effect (R33, R316). -/
def State.cancelPhase (s : State) (part p : Nat) : State :=
  let j := (s.getPart part).job
  let held := decide (j.state = 1) && Sparse.has j.phases p
  if held ∧ ((j.phase p).state ≠ 0 ∨ (j.phase p).cancel) then s
  else
    let s :=
      if held then s.modJob part fun j => { j with phases := j.phases.set p { j.phase p with cancel := true } } else s
    ((s.graphsOf part p).foldl (fun s g => s.cancelGraph part g 0 0xFFFFFFFF held) s).phaseDrain part p

/-- A job cancel (R381): every phase neither complete nor cancelled, the launches that belong to no node, and the units
of no launch (R436). -/
def State.cancelJob (s : State) (part : Nat) : State :=
  let j := (s.getPart part).job
  if j.state ≠ 1 ∨ j.cancel then s
  else
    let s := s.modJob part fun j => { j with cancel := true }
    let s := (j.phases.map fun x => x.1).foldl (fun s p => s.cancelPhase part p) s
    let s := ((s.getPart part).launches.filter fun l => l.2.armed && !l.2.bound).foldl
      (fun s l => s.stopLaunch part l.1) s
    (upTo s.coresPer).foldl (fun s i =>
      let core := s.coreAt part i
      match (s.getCore core).unit with
      | some { launch := none, .. } => s.cancelUnit core
      | _ => s) s

/-- The number of phases that a target may name: those held, or all that a descriptor has room for (R380). -/
def State.phaseCountOf (s : State) (part : Nat) : Nat :=
  let n := (s.getPart part).job.phases.length
  if n = 0 then 252 else n

/-- The target of a cancel lies in the partition and in range (R316). -/
def State.cancelOk (s : State) (part : Nat) (level : CancelLevel) (t : Word) : Bool :=
  match level with
  | .unit => decide (t.toNat < 512) && s.partOf t.toNat == part
  | .launch | .graph => decide (t.toNat ≤ 4095)
  | .phase => decide (t.toNat < s.phaseCountOf part)
  | .job => true

/-- A cancel of a level (R32, R71, R316, R380, R381). -/
def State.cancelAt (s : State) (part : Nat) (level : CancelLevel) (t : Word) : State :=
  let i := t.toNat
  match level with
  | .unit => if (s.getCore i).unit.isSome then s.cancelUnit i else s
  | .launch => if (s.getLaunch part i).armed then s.stopLaunch part i else s
  | .graph => s.cancelGraph part i 0 0xFFFFFFFF false
  | .phase => s.cancelPhase part i
  | .job => s.cancelJob part

/-- The cancel stops the acting context's own unit (R316). -/
def State.cancelsSelf (s : State) (level : CancelLevel) (t : Word) : Bool :=
  s.cancelOk s.part level t && s.me.unit.isSome && ((s.cancelAt s.part level t).getCore s.core).unit.isNone

/-- gcancel (R316): it retires, then the cancel proceeds; one that holds the issuing unit stops it before its next
instruction. -/
def execGcancel (level : CancelLevel) (a : SReg) (s : State) : Result :=
  s.system true [a] [] fun s =>
    let t := s.rd a
    if !s.cancelOk s.part level t then s.fault 0x0013
    else (s.retire).cancelAt s.part level t

end Sys2Proof.Machine
end

