-- ==== Sys2Proof/Machine/System.lean ====
section
/-! DEFINITION. Control registers (R300 to R309), traps as instructions (R310, R311), helpers (R312 to R314) and
barriers (R44 to R47, R325 to R327). -/

namespace Sys2Proof.Machine

/-! ### Control registers (R151, R300 to R309) -/

/-- POOLBOUND of a context's selected pool (R306). -/
def State.poolReg (s : State) : Word :=
  let n := s.cx.poolSel.toNat
  let p := s.getPool s.part n
  BitVec.ofNat 64 (n * 2 ^ 56 + p.limit.toNat * 2 ^ 32 + s.k * 2 ^ 16 + p.bound.toNat)

/-- The value of control register `n` (R151). -/
def State.ctlReg (s : State) (n : Nat) : Word :=
  let c := s.me
  let x := s.cx
  match n with
  | 0 => c.fmode
  | 1 => c.fstat.setWidth 64
  | 2 => c.share.setWidth 64
  | 3 => x.chbind
  | 4 => s.poolReg
  | 5 => c.seq.setWidth 64
  | 6 => s.time
  | 7 => x.xpc
  | 8 => x.xnpc
  | 9 => x.xnnpc
  | 10 => x.xnul.setWidth 64
  | _ => s.mine.journal

/-- cget (R300). -/
def execCget (d : SReg) (imm : Word) (s : State) : Result :=
  s.system false [] [d] fun s => if 11 < imm.toNat then s.illegal else s.result d (s.ctlReg imm.toNat)

/-- POOL of a value written to POOLBOUND. -/
def poolField (w : Word) : Nat := bits w.toNat 61 56

/-- The selector becomes POOL (R306): the state, or the fault. -/
def State.poolSelect (s : State) (w : Word) : Except (BitVec 16) State :=
  if bits w.toNat 62 62 ≠ 0 ∨ bits w.toNat 55 48 ≠ 0 then .error 0x0001
  else if s.poolsPer ≤ poolField w then .error 0x000F
  else .ok (s.modCx fun x => { x with poolSel := BitVec.ofNat 6 (poolField w) })

/-- BOUND and LIMIT of a pool: each shard publishes a fresh summary before it admits again (R306). -/
def Pool.setBound (p : Pool) (n : Nat) (bound limit : BitVec 16) : Pool :=
  let p := { p with bound := bound, limit := limit,
                    shards := p.shards.map fun x => (x.1, { x.2 with seen := [], inFlight := [] }) }
  (upTo n).foldl (fun p i => p.publish n i) p

/-- A write of BOUND and LIMIT (R306): the state, or the fault. -/
def State.poolWrite (s : State) (w : Word) : Except (BitVec 16) State :=
  match s.poolSelect w with
  | .error f => .error f
  | .ok t =>
    let b := bits w.toNat 15 0
    let l := bits w.toNat 47 32
    if b = 0 ∨ (2 ≤ b ∧ b < s.k) ∨ l < 64 then .error 0x000F
    else .ok (t.modPool t.part (poolField w) fun p => p.setBound t.k (BitVec.ofNat 16 b) (BitVec.ofNat 16 l))

/-- A value that JOURNAL refuses (R309). -/
def journalBad (w : Word) : Bool :=
  decide (bits w.toNat 5 2 ≠ 0) || decide (32 < bits w.toNat 11 6) || decide (bits w.toNat 1 0 = 3) || !canonical w

/-- A write of JOURNAL (R309): the entry count and every replay position of the partition become 0. -/
def State.setJournal (s : State) (w : Word) : State :=
  let part := s.part
  let s := s.modPart part fun p => { p with journal := w, jcount := 0 }
  s.coreKeys.foldl (fun s c => if s.partOf c = part then s.modCore c fun x => { x with jpos := 0 } else s) s

/-- A cput (R300): the state with the register written, or the fault; a trapping cput changes nothing. -/
def State.putReg (s : State) (n : Nat) (w : Word) : Except (BitVec 16) State :=
  let x := w.toNat
  match n with
  | 0 =>
    if bits x 31 6 ≠ 0 ∨ 5 ≤ bits x 2 0 then .error 0x0001 else .ok (s.modMe fun c => { c with fmode := w })
  | 1 =>
    if bits x 63 11 ≠ 0 ∨ bits x 7 5 ≠ 0 then .error 0x0001
    else .ok (s.modMe fun c => { c with fstat := BitVec.ofNat 11 x })
  | 2 => if x = 0 ∨ 8 < x then .error 0x0001 else .ok (s.modMe fun c => { c with share := BitVec.ofNat 4 x })
  | 4 => if bitAt w 63 then s.poolWrite w else s.poolSelect w
  | 7 => .ok (s.modCx fun x => { x with xpc := w })
  | 8 => .ok (s.modCx fun x => { x with xnpc := w })
  | 9 => .ok (s.modCx fun x => { x with xnnpc := w })
  | 10 => if bits x 63 5 ≠ 0 then .error 0x0001 else .ok (s.modCx fun c => { c with xnul := BitVec.ofNat 5 x })
  | 11 => if s.ctx ≠ 0 ∨ journalBad w then .error 0x0001 else .ok (s.setJournal w)
  | _ => .error 0x0001

/-- An instruction that writes a control register from S(a). -/
def State.putWith (s : State) (a : SReg) (f : State → Word → Except (BitVec 16) State) : Result :=
  s.system false [a] [] fun s =>
    match f s (s.rd a) with
    | .error c => s.fault c
    | .ok t => t.retire

/-- cput (R300). -/
def execCput (a : SReg) (imm : Word) (s : State) : Result := s.putWith a fun s w => s.putReg imm.toNat w

/-- A cput to POOLBOUND with WR = 0 (R306). -/
def execPoolboundSelect (a : SReg) (s : State) : Result := s.putWith a State.poolSelect

/-- A cput to POOLBOUND with WR = 1 (R306). -/
def execPoolboundWrite (a : SReg) (s : State) : Result := s.putWith a State.poolWrite

/-- A cput to JOURNAL (R309). -/
def execJournalWrite (a : SReg) (s : State) : Result := s.putWith a fun s w => s.putReg 11 w

/-! ### trap and eret (R310, R311) -/

/-- trap (R310). -/
def execTrap (imm : Word) (s : State) : Result := s.system false [] [] fun s => s.takeTrap (imm.setWidth 16)

/-- eret (R311). -/
def execEret (s : State) : Result := s.system false [] [] fun s => s.eret

/-! ### Helpers (R312 to R314) -/

/-- The lowest-numbered FREE helper (R312). -/
def Core.freeHelper (c : Core) : Option Nat :=
  ((upTo 10).map fun i => i + 1).find? fun h => (c.getCtx h).mode == .free

/-- hstart (R312). -/
def execHstart (d a : SReg) (imm : Word) (s : State) : Result :=
  s.system true [a] [d] fun s =>
    match s.me.freeHelper with
    | none => s.result d 0
    | some h =>
      let entry := s.cx.pc + imm * 2
      let v := s.rd a
      let s := s.modCtx s.core h fun x =>
        { (x.freed.sequential entry).store 2 v with mode := .ready }
      s.result d (BitVec.ofNat 64 h)

/-- hexit (R313): in the control context or in a slot it traps ILLEGAL. -/
def execHexit (s : State) : Result :=
  s.system false [] [] fun s =>
    if s.ctx = 0 ∨ s.cx.sl0 then s.illegal
    else
      let s := s.modPart s.part fun p =>
        { p with pools := p.pools.map fun x =>
            (x.1, { x.2 with arb := x.2.arb.map fun r =>
              if r.core = s.core ∧ r.ctx = s.ctx then { r with live := false } else r }) }
      s.modCx Ctx.freed

/-- hjoin (R314). -/
def execHjoin (a : SReg) (imm : Word) (s : State) : Result :=
  s.system true [a] [] fun s =>
    if 1023 < imm.toNat then s.illegal
    else
      let mask : BitVec 10 := (s.rd a ||| imm).setWidth 10
      if s.me.helpersFree mask then s.retire else s.waitOn (.helpers mask) none

/-! ### Barriers (R44 to R47, R325 to R327) -/

/-- The module-wide number of a barrier operand, if the partition has it (R44, R210). -/
def State.barNo (s : State) (n : BitVec 7) : Option Nat :=
  if 32 * s.k ≤ n.toNat then none else some (32 * lowDie s.cut s.part + n.toNat)

/-- bar.init (R325): the count is checked first, then pending arrivals (R44). -/
def execBarInit (bar : BitVec 7) (a : SReg) (op : VoteOp) (s : State) : Result :=
  s.system true [a] [] fun s =>
    match s.barNo bar with
    | none => s.illegal
    | some n =>
      let count := (s.rd a).toNat
      if count = 0 ∨ 512 < count then s.illegal
      else if !(s.getBar n).arrivals.isEmpty then s.fault 0x000B
      else (s.modBar n fun _ => { count := count, op := op, gen := 0, arrivals := [] }).retire

/-- The combination of two votes (R44). -/
def voteCombine (op : VoteOp) (x y : BitVec 32) : BitVec 32 :=
  match op with
  | .or => x ||| y
  | .and => x &&& y
  | .max => if x.toNat < y.toNat then y else x

/-- The vote that changes no combination (R45). -/
def voteIdentity : VoteOp → BitVec 32
  | .and => 0xFFFFFFFF | _ => 0

/-- The results of a release (R46). -/
def Barrier.result (b : Barrier) (n : Nat) : BarResult :=
  b.arrivals.foldl (fun r a => { r with flags := r.flags ||| a.flags, vote := voteCombine b.op r.vote a.vote })
    { bar := n, flags := 0, vote := voteIdentity b.op }

/-- A participant is released (R43, R46, R327). One that waits for it is READY, and its instruction completes next with the
result; halted, it will be. For any other the result is pending. -/
def Ctx.released (x : Ctx) (r : BarResult) : Ctx :=
  if x.wait.any fun w => w.obj == .barrier r.bar then
    { x with wait := none, barDone := some r, waking := true, mode := if x.mode = .halted then .halted else .ready,
             heldMode := if x.mode = .halted then .ready else x.heldMode }
  else { x with barResult := some r }

/-- The registers of a barrier's result (R326); `a` is none for bar.wait. -/
def State.barWrite (s : State) (r : BarResult) (d : SReg) (a : Option SReg) : State :=
  let s := s.modCx fun x => x.store d.toNat (r.flags.setWidth 64)
  match a with
  | none => s
  | some a => s.modCx fun x => x.store a.toNat (r.vote.setWidth 64)

/-- The arrival that completes the count releases the generation (R46). -/
def State.release (s : State) (n : Nat) (d : SReg) (a : Option SReg) : State :=
  let b := s.getBar n
  let r := b.result n
  let s := s.modBar n fun b => { b with gen := b.gen + 1, arrivals := [] }
  let rest := b.arrivals.filter fun x => !(x.core == s.core && x.ctx == s.ctx)
  let s := rest.foldl (fun s x => s.modCtx x.core x.ctx fun c => c.released r) s
  let s := { s with agenda := rest.map (fun (x : Arrival) => Move.resume x.core x.ctx) ++ s.agenda }
  (s.barWrite r d a).retire

/-- Every engine-bound instruction of the core has completed and every collective of it has sent its reply word: none is
under way, and no descriptor waits for the exchange engine (R45 step 1). -/
def State.flagsFinal (s : State) : Bool :=
  !(s.me.dring.any fun e => e.2.st == .inFlight) &&
  !(s.me.eps.any fun e => e.2.send && e.2.isExchange && !e.2.msgs.isEmpty) &&
  !(s.mine.groups.any fun g => g.2.pending.any fun r => r.core == s.core)

/-- An arrival (R45, R326); `vote` is none for bar.wait. It takes its release or a pending result, or rejoins its own
entry, before it arrives (R327); any instruction that finds an entry of its context rejoins it (R47, log entry 132). A pending
result that names another barrier is discarded at the instruction's issue, not when a wait of it ends: one that was released
while it waited is for the next instruction. -/
def State.barArrive (s : State) (bar : BitVec 7) (d : SReg) (a : Option SReg) (vote : Option Word) : State :=
  match s.barNo bar with
  | none => s.illegal
  | some n =>
    let b := s.getBar n
    match s.cx.barDone, s.cx.barResult.filter fun r => r.bar == n || r.bar == 128 with
    | some r, _ => ((s.modCx fun x => { x with barDone := none }).barWrite r d a).retire
    | none, some r => ((s.modCx fun x => { x with barResult := none }).barWrite r d a).retire
    | none, none =>
      let s := s.modCx fun x => { x with barResult := if x.waking then x.barResult else none }
      if b.count = 0 then s.fault 0x0016
      else if b.arrivals.any fun x => x.core == s.core && x.ctx == s.ctx then s.waitOn (.barrier n) none
      else if !s.flagsFinal then s.waitOn (.arrival n) none
      else
        s.fenced true true .v fun s =>
          let v := match vote with | some w => w.setWidth 32 | none => voteIdentity b.op
          let s := s.modBar n fun b =>
            { b with arrivals := b.arrivals ++ [{ core := s.core, ctx := s.ctx, flags := s.me.fstat, vote := v }] }
          if (s.getBar n).arrivals.length = b.count then s.release n d a else s.waitOn (.barrier n) none

/-- bar.wait (R326). -/
def execBarWait (bar : BitVec 7) (d : SReg) (s : State) : Result :=
  s.system true [] [d] fun s => s.barArrive bar d none none

/-- bar.vote (R326). -/
def execBarVote (bar : BitVec 7) (d a b : SReg) (s : State) : Result :=
  s.system true [b] [d, a] fun s => s.barArrive bar d (some a) (some (s.rd b))

end Sys2Proof.Machine
end

