-- ==== Sys2Proof/Machine/Events.lean ====
section
/-! DEFINITION. Events of traps, waits, cancels, channels, ports and memory (R32, R41, R42, R49, R89, R93, R96 to R99,
R112, R154, R329 to R337, R397, R422). -/

namespace Sys2Proof.Machine

/-! ### Traps and late faults -/

/-- The codes of R334 that name a precise fault. -/
def preciseCode (code : BitVec 16) : Bool := decide (0x01 ≤ code.toNat) && decide (code.toNat ≤ 0x16)

/-- The codes of R334 that name a late fault of an instruction. -/
def lateCode (code : BitVec 16) : Bool :=
  let c := code.toNat
  (decide (4 ≤ c) && decide (c ≤ 9)) || (decide (0x20 ≤ c) && decide (c ≤ 0x2B)) || (decide (0x30 ≤ c) && decide (c ≤ 0x36)) ||
  c == 0x40

/-- A precise fault of the acting context (R329, R333); a code that R334 does not list is never recorded. -/
def execFaultTrapEntry (code : BitVec 16) (info faddr : Word) (s : State) : Result :=
  .next (if s.cx.mode = .ready ∧ preciseCode code then s.takeFault code info faddr else s)

/-- The instruction of a sequence number is no longer queued. -/
def State.unqueue (s : State) (core : Nat) (seq : BitVec 16) : State :=
  s.modCore core fun c => c.keepQueued fun q => q.sys || q.seq != seq

/-- A late fault reaches the core (R336, R339), with a code that R334 lists. -/
def execLateFaultReport (core : Nat) (seq : BitVec 16) (code : BitVec 16) (info faddr : Word) (s : State) : Result :=
  .next (if ((s.getCore core).entry seq).st = .inFlight ∧ ((s.getCore core).entry seq).seq = seq ∧ lateCode code then
      (s.unqueue core seq).lateFault core seq code info faddr
    else s)

/-- A deliverable LATE is taken (R331, R337). -/
def execLateTrapEntry (core : Nat) (s : State) : Result := .next (s.lateEntry core)

/-- A TIMER becomes due for every control context of the partition, when TICK is not 0 (R332). -/
def execTick (part : Nat) (s : State) : Result :=
  .next (if (s.getPart part).desc.tick = 0 then s
    else (upTo s.coresPer).foldl (fun s i => s.modCtx (s.coreAt part i) 0 fun x => { x with timerPend := true }) s)

/-- A due TIMER is taken (R331). -/
def execTimerTrapEntry (core : Nat) (s : State) : Result := .next (s.timerEntry core)

/-! ### Waits (R41, R42, R433) -/

/-- What the context waits on depends on a halted party, so that its watchdog pauses (R42): a core of the module is asked, a
peer module has said so in its replies (R52). -/
def State.watchPaused (s : State) (core ctx : Nat) : Bool :=
  let far (e : Endpoint) : Bool :=
    match e.peer with
    | .core c _ => (s.getCore c).halted
    | .module _ _ _ _ _ => e.haltedBit
    | .exchange _ _ _ => false
  match (s.getCtx core ctx).wait with
  | some { obj := .receive ep, .. } | some { obj := .send ep, .. } => far (s.getEp core ep)
  | some { obj := .barrier n, .. } | some { obj := .arrival n, .. } =>
    s.coreKeys.any fun c => dieOf c / s.k == n / 32 / s.k && (s.getCore c).halted
  | _ => false

/-- The watchdog of a WAITING context has reached the partition's wait limit (R42), and no trap comes before (R331). -/
def State.watchDue (s : State) (core ctx : Nat) : Bool :=
  let x := s.getCtx core ctx
  let lim := (s.getPart (s.partOf core)).waitLim
  x.mode == .waiting && lim != 0 && decide (lim.toNat ≤ x.waited) && !s.trapDue core ctx

/-- A watchdog ends a wait: WAIT_TIMEOUT, counted (R42, R429). -/
def execWaitTimeout (core ctx : Nat) (s : State) : Result :=
  .next (if s.watchDue core ctx && !(s.on core ctx).recordOwned then
      ((s.count (s.partOf core) fun t => { t with wtimeout := satAdd 32 t.wtimeout 1 }).on core ctx).fault 0x000A
    else s)

/-- The condition that a WAITING context waits for in the pipeline holds (R41). -/
def State.wakeDue (s : State) (core ctx : Nat) (o : WaitObj) : Bool :=
  let c := s.getCore core
  match o with
  | .receive ep => (s.getEp core ep).peek.isSome
  | .send ep => decide (0 < (s.getEp core ep).grants) && s.linkUp (s.getEp core ep)
  | .barrier n => (c.getCtx ctx).barResult.any fun (r : BarResult) => r.bar == n || r.bar == 128
  | .arrival _ => (s.on core ctx).flagsFinal
  | .inbox => c.port.hasRecord
  | .inboxPool n => c.port.hasRecord || !(s.getPool (s.partOf core) n).present.isEmpty
  | .helpers m => c.helpersFree m
  | .pool n =>
    let p := s.getPool (s.partOf core) n
    !p.present.isEmpty && !(p.arb.any fun r => r.live && r.waits && r.core == core && r.ctx == ctx)
  | .lines rs => !s.ownedIn (dieOf core) rs
  | .fence r w scope => (s.on core ctx).fenceDone r w scope
  | _ => false

/-- The context is READY, and its instruction completes in the next step, so that what the wake consumes is consumed with
it (R41). -/
def State.awake (s : State) (core ctx : Nat) : State :=
  { s.modCtx core ctx fun x => { x with mode := .ready, wait := none, waited := 0, waking := true } with
    agenda := .resume core ctx :: s.agenda }

/-- The object's condition holds for a wait that it could cease to hold for while the core is halted (R43): a pool may be
emptied, a lease end, a ring move on. -/
def State.heldDue (s : State) (core : Nat) (o : WaitObj) : Bool :=
  let c := s.getCore core
  match o with
  | .inboxPool n => !(s.getPool (s.partOf core) n).present.isEmpty
  | .lease => (s.getGrove (groveOf core)).holder == some (inGrove core)
  | .ringFull h n => (c.getRing h).valid && decide (n ≤ (c.getRing h).filled)
  | .ringFree h n => (c.getRing h).valid && decide (n ≤ (c.getRing h).free)
  | _ => false

/-- The wake of the object that a context waits on (R41, R433). While the context is halted it is kept (R43). A trap that
is due comes first (R331). -/
def State.wakeUp (s : State) (core ctx : Nat) : State :=
  let x := s.getCtx core ctx
  let kept (o : WaitObj) : State :=
    if x.mode = .halted ∧ x.heldMode = .waiting ∧ s.heldDue core o then s.modCtx core ctx fun x => { x with woken := true } else s
  match x.wait with
  | none => s
  | some { obj := o, seq := q } =>
    if x.mode ≠ .waiting then kept o
    else if s.trapDue core ctx then s
    else
      match o, q with
      | o, none => if s.wakeDue core ctx o || x.woken then s.awake core ctx else s
      | .lease, some _ => if s.heldDue core .lease || x.woken then (s.on core ctx).retire else s
      | .fabric, some _ => s.fabStep core
      | _, some _ => s.ringStep core ctx

/-- A wake. -/
def execWake (core ctx : Nat) (s : State) : Result := .next (s.wakeUp core ctx)

/-- A cancel reaches a core (R32). -/
def execCancel (core : Nat) (s : State) : Result := .next (s.cancelUnit core)

/-! ### Channels (R48 to R52, R397) -/

/-- Where an endpoint's messages lie in the receive-slot buffer: receivers in ascending order, then the endpoints whose
messages the exchange engine takes. -/
def Core.slotAt (c : Core) (ep : Nat) : Nat :=
  let size (e : Endpoint) : Nat := if e.declared then 8 * e.words * e.slots else 0
  let e := Sparse.get Endpoint.reset c.eps ep
  let below := c.eps.filter fun x => if e.send then !x.2.send || (x.2.isExchange && decide (x.1 < ep)) else !x.2.send && decide (x.1 < ep)
  (below.map fun x => size x.2).foldl Nat.add 0

/-- The slots of an exchange endpoint lie within the core's receive-slot buffer, so that the image holds them there (R404). -/
def Core.slotFits (c : Core) (ep : Nat) : Bool :=
  decide (c.slotAt ep + 8 * (Sparse.get Endpoint.reset c.eps ep).words * (Sparse.get Endpoint.reset c.eps ep).slots ≤ 8192)

/-- Descriptors of collectives, granted or there, that the image has to hold elsewhere: at most 128 in a partition (R346, R404, log
entry 11). -/
def State.strays (s : State) (part : Nat) : Nat :=
  (s.coreKeys.filter fun c => s.partOf c == part).foldl (fun n c =>
    n + ((s.getCore c).eps.filter fun e => e.2.declared && e.2.send && e.2.isExchange && !(s.getCore c).slotFits e.1 &&
      (decide (0 < e.2.grants) || !e.2.msgs.isEmpty)).length) 0


/-- The receiver at a core grants a free slot to its sender (R49), or the exchange engine grants to a sender of it. The
reply of a receiver says whether its core is halted (R52); one to a peer module takes a port of the channel's route (R397)
and carries what the end declares (R396). -/
def State.grant (s : State) (core ep : Nat) : State :=
  let e := s.getEp core ep
  let halted := (s.getCore core).halted
  let more := s.modEp core ep fun e => { e with grants := e.grants + 1 }
  if !e.declared || !e.live then s
  else if e.send then
    if e.isExchange && decide (e.grants + e.msgs.length < e.slots) &&
        ((s.getCore core).slotFits ep || decide (s.strays (s.partOf core) < 128)) then more
    else s
  else if !e.freeSlot then s
  else
    match e.peer with
    | .core c' e' => more.modEp c' e' fun x => { x with grants := x.grants + 1, haltedBit := halted }
    | .module _ own peer chan _ =>
      match s.portOf e with
      | some port => more.send (.grant port peer chan own true halted e.words e.slots)
      | none => s
    | .exchange _ _ _ => more

/-- What an endpoint learns from a reply of the peer module (R52, R396): the other end's declaration, which makes the
channel live when it agrees and ends it when it is withdrawn, the halted bit, and a grant, if one is given. -/
def Endpoint.reply (e : Endpoint) (given halted : Bool) (words slots : Nat) : Endpoint :=
  let agrees := decide (e.words = words) && decide (e.slots = slots)
  let e := { e with live := agrees, haltedBit := halted }
  if given && agrees && e.send && decide (e.grants < e.slots) then { e with grants := e.grants + 1 } else e

/-- The endpoint is the partition's end of a channel between modules (R396). -/
def Endpoint.isChan (e : Endpoint) (part chan : Nat) : Bool :=
  e.declared && e.byXchan && (match e.peer with | .module p c _ _ _ => p == part && c == chan | _ => false)

/-- The endpoint is the partition's end of a channel to a peer module's channel (R396). -/
def Endpoint.isEnd (e : Endpoint) (part chan : Nat) (peer : BitVec 32) (peerChan : Nat) : Bool :=
  e.isChan part chan && (match e.peer with | .module _ _ q k _ => q == peer && k == peerChan | _ => false)

/-- The declaration is of the peer end of a channel (R396). -/
def PeerEnd.isOf (x : PeerEnd) (chan : Nat) (peer : BitVec 32) (peerChan : Nat) : Bool :=
  x.chan == chan && x.peer == peer && x.peerChan == peerChan

/-- A reply of a peer module arrives (R49, R52, R396): its declaration of its end takes the place of an earlier one, and one of
size 0 withdraws it. -/
def State.peerReply (s : State) (part chan : Nat) (peer : BitVec 32) (peerChan : Nat) (given halted : Bool) (words slots : Nat) :
    State :=
  let s := s.modPart part fun p =>
    let rest := p.peerEnds.filter fun x => !x.isOf chan peer peerChan
    { p with peerEnds :=
        if words = 0 then rest
        else rest ++ [{ chan := chan, peer := peer, peerChan := peerChan, words := words, slots := slots }] }
  { s with cores := s.cores.map fun c =>
      (c.1, { c.2 with eps := c.2.eps.map fun e =>
        (e.1, if e.2.isEnd part chan peer peerChan then e.2.reply given halted words slots else e.2) }) }

/-- A grant: one that a receiver of the module gives, or a reply of a peer module for the channel numbered `ep`. -/
def execChannelGrant (source : GrantFrom) (ep : Nat) (s : State) : Result :=
  .next (
    match source with
    | .local core => s.grant core ep
    | .peer part peer peerChan given halted words slots => s.peerReply part ep peer peerChan given halted words slots)

/-- Places the message of the next number, if it has arrived (R397). -/
def Endpoint.place (e : Endpoint) : Endpoint :=
  match e.early.find? fun m => m.1 == e.seqno with
  | some m =>
    if e.grants = 0 then e
    else { e with early := e.early.erase m, msgs := e.msgs ++ [m.2], grants := e.grants - 1, seqno := e.seqno + 1 }
  | none => e

/-- A message arrives from a peer module: one already placed is discarded, one ahead of its turn is held (R397). -/
def Endpoint.arrive (e : Endpoint) (seqno : BitVec 32) (ws : List Word) : Endpoint :=
  let ahead := (seqno - e.seqno).toNat
  if 2 ^ 31 ≤ ahead ∨ ws.length ≠ e.words ∨ e.early.any (fun m => m.1 == seqno) then e
  else
    let e := { e with early := e.early ++ [(seqno, ws)] }
    (upTo e.early.length).foldl (fun e _ => e.place) e

/-- A channel message arrives. -/
def execChannelMessageArrival (core ep : Nat) (seqno : BitVec 32) (words : List Word) (s : State) : Result :=
  .next (
    let e := s.getEp core ep
    match e.peer with
    | .module _ _ _ _ _ => if e.declared && e.live && !e.send then s.modEp core ep fun e => e.arrive seqno words else s
    | _ => s)

/-! ### Ports and windows -/

/-- A piece arrives at a port (R112, R113). -/
def execWindowPieceArrival (dst src : Nat) (s : State) : Result := .next (s.arrive dst src)

/-- A window access of the core itself, in pieces (R112, R113). -/
def State.ownWrite (s : State) (core ctx off : Nat) (bytes : List Byte) : State :=
  s.performAll (piecesOf core (BitVec.ofNat 5 ctx) ctx false (winBase + 0x100000 * core + off) bytes)

/-- A window write of the core into scalar registers of a context takes effect (R93). -/
def execWindowRegisterWrite (core ctx off : Nat) (bytes : List Byte) (s : State) : Result :=
  .next (if ctx < 11 ∧ 0x45000 + 256 * ctx ≤ off ∧ off + bytes.length ≤ 0x45100 + 256 * ctx then
      s.ownWrite core 0 off bytes
    else s)

/-- A write of the core to its TAIL (R97). -/
def execTail (core : Nat) (w : Word) (s : State) : Result := .next (s.ownWrite core 0 0x49000 (bytesOf 8 w.toNat))

/-- An atomic add of the core on its RESV (R98). -/
def execResv (core : Nat) (w : Word) (s : State) : Result :=
  .next ((s.modCore core fun c => { c with port := { c.port with resv := c.port.resv + w } }).bumpSeq core 1)

/-- A write of the core to its PORTSTAT (R96). -/
def execPortstat (core : Nat) (w : Word) (s : State) : Result := .next (s.ownWrite core 0 0x49018 (bytesOf 8 w.toNat))

/-- The head of a replay queue has waited past the wait limit (R422). -/
def State.replayDue (s : State) (core : Nat) : Bool :=
  let p := (s.getCore core).port
  let lim := (s.getPart (s.partOf core)).waitLim
  !p.replay.isEmpty && lim != 0 && decide (lim.toNat < p.replayWait)

/-- The replay queue is cleared and the event logged (R422, R430). -/
def execReplayQueueTimeout (core : Nat) (s : State) : Result :=
  .next (if s.replayDue core then
      (s.logPart (s.partOf core) 3 0 (s.indexOf core) (s.getCore core).port.replay.length).modCore core fun c =>
        { c with port := { c.port with replay := [], replayWait := 0 } }
    else s)

/-! ### Memory and the chain -/

/-- The oldest buffered store of a core enters memory order (R99). -/
def execStoreBufferDrain (core : Nat) (s : State) : Result := .next (if s.mayDrain core then s.drainOne core else s)

/-- A line leaves a die's L1s, its dirty bytes written to the LLC (R89). -/
def execL1Eviction (die line : Nat) (s : State) : Result := .next (s.flushLine die line)

/-- A nullified instruction: the words at NNPC are fetched and the chain moves on without effect (R154, R155). -/
def execNullifiedInstruction (s : State) : Result :=
  .next (if s.cx.nul0 then
      match s.withNext with
      | .error f => s.fetchFault false f
      | .ok s => s.modCx fun x => x.advance.settled
    else s)

end Sys2Proof.Machine
end

