-- ==== Sys2Proof/Machine/Host.lean ====
section
/-! DEFINITION. The command front end (R367 to R370) and the NCP commands of chapters 21 to 23 (R371, R372, R377,
R378, R380, R381, R388 to R390, R393, R396, R399) with the counters and logs (R427, R429, R430). -/

namespace Sys2Proof.Machine

/-! ### The front end (R367 to R370) -/

/-- STATUS codes (R368, R419). -/
def stVersion : Nat := 0x100
def stUnsupported : Nat := 0x101
def stBadField : Nat := 0x102
def stPartition : Nat := 0x103
def stBusy : Nat := 0x104
def stWindow : Nat := 0x105
def stSync : Nat := 0x106
def stLinkDown : Nat := 0x107

/-- Which PART a command takes. -/
inductive Who where
  | any | module | partition | either
  deriving DecidableEq, Repr

/-- What the front end knows of a command: opcode, version it came with, PART, whether a switched-out partition
takes it (R418) and whether recovery does (R405). -/
structure Cmd where
  op       : BitVec 8
  since    : Nat
  who      : Who
  outOk    : Bool
  recovery : Bool
  deriving DecidableEq, Repr

/-- A connection. -/
def State.getConn (s : State) (n : Nat) : Conn := Sparse.get Conn.reset s.conns n
/-- Changes a connection. -/
def State.modConn (s : State) (n : Nat) (f : Conn → Conn) : State := { s with conns := s.conns.set n (f (s.getConn n)) }

/-- A response: COOKIE, SEQ and PART of the command, with the minor version that the connection has negotiated (R367). -/
def State.answer (s : State) (h : Hdr) (op : BitVec 8) (status : Nat) (payload : List Byte) : State :=
  s.send (.response { h with minor := s.minorOf h.conn } op (BitVec.ofNat 16 status) payload)

/-- The connection is one that a port carries: 64 of each of the 16 ports (R366). -/
def connOk (conn : Nat) : Bool := decide (conn < 64 * 16)

/-- The PART of a command is one that the cut defines and that the command takes (R13, R368). -/
def State.takesPart (s : State) (c : Cmd) (part : Nat) : Bool :=
  match c.who with
  | .any | .either => part == 15 || decide (part < s.cut)
  | .module => part == 15
  | .partition => decide (part < s.cut)

/-- The INSTANT of an accepted switch or restore has come. -/
def State.reached (s : State) (r : Option SwitchReq) : Bool := r.any fun r => decide (r.instant.toNat ≤ s.time.toNat)

/-- The partition is switched out: from the INSTANT of a switch to a restore (R418). -/
def State.isOut (s : State) (part : Nat) : Bool := (s.getPart part).out || s.reached (s.getPart part).switch

/-- The status that the front end itself answers, if any (R13, R367, R368, R370, R405, R409, R418). In recovery a command that
is not one of recovery's is answered BUSY before any other check, and no connection has to be attached. -/
def State.frontCheck (s : State) (h : Hdr) (c : Cmd) : Option Nat :=
  let part := h.part.toNat
  if s.tap.recovery ∧ !c.recovery then some stBusy
  else if h.major ≠ 2 then some stVersion
  else if h.rsv ≠ 0 ∨ 3 < h.minor.toNat then some stBadField
  else
    match (s.getConn h.conn).minor with
    | none =>
      if s.tap.recovery then if s.takesPart c part then none else some stPartition
      else if c.who = .any ∧ s.takesPart c part then none else some stPartition
    | some m =>
      if m < c.since then some stUnsupported
      else if !s.takesPart c part then some stPartition
      else if part < s.cut ∧ s.isOut part ∧ !c.outOk ∧ (c.who = .partition ∨ c.who = .either) then some stPartition
      else none

/-- What an engine answers: status and payload, none while the command has to wait, and the state it leaves. -/
abbrev Answer := Option (Nat × List Byte) × State

/-- A status alone. -/
def ans (s : State) (status : Nat) : Answer := (some (status, []), s)

/-- Success with a payload. -/
def ansWith (s : State) (payload : List Byte) : Answer := (some (0, payload), s)

/-- The command waits, with what it has done so far done. -/
def waits (s : State) : Answer := (none, s)

/-- The command that a connection holds for its next sequence number moves next (R369). -/
def State.nextHeld (s : State) (conn : Nat) : State :=
  let c := s.getConn conn
  match c.early.find? fun e => e.1 == c.next with
  | some e => { s.modConn conn fun c => { c with early := c.early.erase e } with agenda := .act e.2 :: s.agenda }
  | none => s

/-- The command is held. -/
def State.holdCmd (s : State) (h : Hdr) (i : Instr) : State :=
  s.modConn h.conn fun c => if c.early.any fun e => e.1 == h.seq then c else { c with early := c.early ++ [(h.seq, i)] }

/-- A command arrives (R369): performed in SEQ order, held when early, answered WINDOW when further ahead. A packet of no
connection is dropped (R366). -/
def State.ncp (s : State) (i : Instr) (h : Hdr) (c : Cmd) (k : State → Answer) : Result :=
  let ahead := (h.seq - (s.getConn h.conn).next).toNat
  .next (
    if !connOk h.conn then s
    else if 256 < ahead then s.answer h c.op stWindow []
    else if ahead ≠ 0 then s.holdCmd h i
    else
      match (match s.frontCheck h c with
        | some st => ans s st
        | none => k s) with
      | (none, t) => t.holdCmd h i
      | (some (st, pl), t) =>
        ((t.modConn h.conn fun x =>
          { x with next := x.next + 1, early := x.early.filter fun e => e.1 != h.seq, acked := none, checks := false }).answer
            h c.op st pl).nextHeld h.conn)

/-- The command goes to a partition. -/
def toPart (op : BitVec 8) : Cmd := { op := op, since := 0, who := .partition, outOk := false, recovery := false }
/-- The command goes to the module. -/
def toModule (op : BitVec 8) : Cmd := { op := op, since := 0, who := .module, outOk := false, recovery := false }

/-- The highest version in 2.0 to 2.3 inside the range offered (R370). -/
def chooseVersion (lo hi : BitVec 16) : Option Nat :=
  let v := min hi.toNat 0x203
  if max lo.toNat 0x200 ≤ v then some (v - 0x200) else none

/-- ATTACH (R370). -/
def execAttach (h : Hdr) (lo hi : BitVec 16) (s : State) : Result :=
  s.ncp (.attach h lo hi) h { op := 0x01, since := 0, who := .any, outOk := true, recovery := false } fun s =>
    match chooseVersion lo hi with
    | none => ans s stVersion
    | some m =>
      ansWith (s.modConn h.conn fun c => { c with minor := some m }) [BitVec.ofNat 8 m, 2, 1, 2, 4, 1]

/-- DETACH (R368). -/
def execDetach (h : Hdr) (s : State) : Result :=
  s.ncp (.detach h) h { op := 0x02, since := 0, who := .either, outOk := false, recovery := false } fun s =>
    ans (s.modConn h.conn fun c => { c with minor := none }) 0

/-- An opcode that is not listed, or above the negotiated version (R368). -/
def execNcpUnsupportedOpcode (h : Hdr) (op : BitVec 8) (s : State) : Result :=
  s.ncp (.ncpUnsupportedOpcode h op) h { op := op, since := 0, who := .either, outOk := true, recovery := false }
    fun s => ans s stUnsupported

/-! ### Partitions (R371, R388, R391) -/

/-- The rules of R371. -/
def State.descOk (s : State) (d : Desc) : Bool :=
  ([d.code, d.codeLen, d.gmap, d.loop, d.cancel, d.done, d.tvb, d.trb, d.ltab, d.gtab, d.stab, d.phase].all fun a =>
    a.toNat % 64 == 0) &&
  ((upTo 13).any fun i => d.poolCap.toNat == 2 ^ (12 + i)) && d.poolBase.toNat % (32 * d.poolCap.toNat) == 0 &&
  s.owns 0xFE d.poolBase.toNat (16 * s.k * 32 * d.poolCap.toNat)

/-- The control contexts of the partition stand at the resident loop. -/
def State.enterLoops (s : State) (part : Nat) : State :=
  (upTo s.coresPer).foldl (fun s i =>
    s.modCtx (s.coreAt part i) 0 fun x =>
      { x.sequential (s.getPart part).desc.loop with mode := .ready, tl := false, wait := none, handling := 0 }) s

/-- SETPART (R371): the descriptor is written, the pools take their reset values (R306, R434), and the resident loops
start. -/
def execSetpart (h : Hdr) (desc : Desc) (s : State) : Result :=
  s.ncp (.setpart h desc) h (toPart 0x03) fun s =>
    let part := h.part.toNat
    if s.runsUnit part then ans s stBusy
    else if !s.descOk desc then ans s stBadField
    else ans ((s.modPart part fun p => { p with set := true, desc := desc, pools := [] }).enterLoops part) 0

/-- SETXLATE (R388): a way that changes partition is cleared on all eight memory dies, what it holds written back. -/
def execSetxlate (h : Hdr) (root waitlim : Word) (ways : BitVec 24) (s : State) : Result :=
  s.ncp (.setxlate h root waitlim ways) h { toPart 0x10 with outOk := true } fun s =>
    let part := h.part.toNat
    if s.runsUnit part then ans s stBusy
    else if (upTo s.cut).any fun p => p != part && ((s.getPart p).ways &&& ways) != 0 then ans s stBadField
    else
      let s := s.clearWays ((s.getPart part).ways ^^^ ways)
      let s := s.modPart part fun p => { p with root := root, waitLim := waitlim, ways := ways }
      ans (s.dropTlb part (fun _ => true) fun _ => true) 0

/-- A page of the virtual range maps windows. -/
def State.mapsWindows (s : State) (part va n : Nat) : Bool :=
  (upTo (n / 65536)).any fun i =>
    match State.walk s part ((va + 65536 * i) % 2 ^ 56) 4 0 (s.getPart part).root.toNat with
    | .ok e => inWindow e.pa
    | .error _ => false

/-- The source of the window pieces that the exchange engine makes (R112). -/
def exchangeSrc : Nat := 514

/-- A piece is of an access that has been translated by the partition's tables: one of a core of it, or of the exchange engine to
a window of it. -/
def State.translatedFor (s : State) (part : Nat) (p : Piece) : Bool :=
  (decide (p.src < 512) && s.partOf p.src == part) || (p.src == exchangeSrc && s.partOf p.dst == part)

/-- An access of the partition keeps a translation of the virtual range (R342, R389): a store in a buffer, maintenance, a
copy, vector load or afcfg under way, or a piece on its way to a window. -/
def State.usesVa (s : State) (part va n : Nat) : Bool :=
  ((s.coresOf part).any fun c =>
    !(s.getCore c).sb.isEmpty || !(s.getCore c).cmos.isEmpty || (s.getCore c).vload.isSome || (s.getCore c).fwork.isSome ||
    (s.getCore c).copies.any fun r => r.usesVa va n) ||
  s.pieces.any (s.translatedFor part)

/-- The accesses of the partition that have been translated are performed as far as they can be. -/
def State.settlePart (s : State) (part : Nat) : State :=
  ((s.coresOf part).foldl (fun s c => ((s.drainFree c).cmoAll c).arriveN c s.pieces.length) s).arriveN exchangeSrc
    s.pieces.length

/-- INVAL (R388, R389): it waits for the accesses that keep a dropped translation. -/
def execInval (h : Hdr) (base len : Word) (s : State) : Result :=
  s.ncp (.inval h base len) h { toPart 0x11 with outOk := true } fun s =>
    let part := h.part.toNat
    let va := base.toNat % 2 ^ 56
    if base.toNat % 65536 ≠ 0 ∨ len.toNat % 65536 ≠ 0 then ans s stBadField
    else if s.runsUnit part && s.mapsWindows part va len.toNat then ans s stBusy
    else
      let s := s.dropTlb part (fun e => meets e.va (2 ^ e.log) va len.toNat) fun w => meets w.va (2 ^ tableLog w.level) va len.toNat
      let s := s.settlePart part
      if !(s.getPart part).out && s.usesVa part va len.toNat then waits s else ans s 0

/-- The owner bytes that OWN may give (R387). -/
def ownerOk (o : Byte) : Bool := decide (o.toNat ≤ 4) || o == 0xFE

/-- Owner bytes of a range of frames. -/
def State.setOwners (s : State) (first count : Nat) (o : Byte) : State :=
  { s with owners := Memory.putAll s.owners first (List.replicate count o) }

/-- Steps 3 and 4 of an OWN: L1 lines of the range leave every die without a write-back, and the zeroing engine of each
memory die writes 0 to every byte that it homes, LLC lines included (R24, R390). -/
def State.zeroFrames (s : State) (lo hi : Nat) : State :=
  let inside (l : Nat) : Bool := decide (lo ≤ 32 * l) && decide (32 * l < hi)
  let s := { s with
    dies := s.dies.map fun d => (d.1, { d.2 with l1 := d.2.l1.filter fun l => !inside l.1 })
    cores := s.cores.map fun (c : Nat × Core) => (c.1, { c.2 with l1 := c.2.l1.filter fun l => !inside l }) }
  (upTo 8).foldl (fun s d => s.zeroDie d lo hi) s

/-- The translations that map the range, and the tables that lie in it, leave every TLB and walk cache (R390 step 2). -/
def State.dropFrames (s : State) (lo n : Nat) : State :=
  let keep (es : List TlbEntry) : List TlbEntry := es.filter fun e => !meets e.pa (2 ^ e.log) lo n
  { s with
    dies := s.dies.map fun (d : Nat × Die) =>
      (d.1, { d.2 with tlb := keep d.2.tlb, walks := d.2.walks.filter fun w => !meets w.tab (tableSize w.level) lo n })
    cores := s.cores.map fun (c : Nat × Core) => (c.1, { c.2 with itlb := keep c.2.itlb, dtlb := keep c.2.dtlb }) }

/-- A maintenance operation, a copy or a buffered store of some core reaches the physical range. -/
def State.usesFrames (s : State) (lo n : Nat) : Bool :=
  s.coreKeys.any fun c =>
    (s.getCore c).usesPa lo n || (s.getCore c).cmos.any fun j => j.ranges.any fun r => meets r.1 r.2 lo n

/-- What the front end knows of OWN. -/
def ownCmd : Cmd := { toModule 0x12 with outOk := true }

/-- The frames and the owner byte are ones that OWN may take (R387, R388). -/
def State.ownFits (s : State) (first count : Nat) (o : Byte) : Bool :=
  decide (first + count ≤ 262144) && ownerOk o && !(upTo count).any fun i => s.owner (first * 2 ^ 21 + i * 2 ^ 21) == 0xFF

/-- The work of an OWN (R390): the frames change their owner at once; it then waits for the accesses that keep a dropped
translation, and zeroes. Whether it is done, and the state. -/
def State.ownWork (s : State) (first count : Nat) (o : Byte) : Bool × State :=
  let lo := first * 2 ^ 21
  let n := count * 2 ^ 21
  let s := (s.setOwners first count o).dropFrames lo n
  let s := s.coreKeys.foldl (fun s c => (s.drainFree c).cmoAll c) s
  if s.usesFrames lo n then (false, s) else (true, s.zeroFrames lo (lo + n))

/-- OWN (R388, R390). -/
def execOwn (h : Hdr) (first count : Nat) (owner : BitVec 8) (s : State) : Result :=
  s.ncp (.own h first count owner) h ownCmd fun s =>
    if !s.ownFits first count owner then ans s stBadField
    else
      let (done, s) := s.ownWork first count owner
      if done then ans s 0 else waits s

/-- The die's partition has another number under a cut of `n` (R13). -/
def State.shifts (s : State) (n die : Nat) : Bool := partOfDie s.cut die != partOfDie n die

/-- What a cut leaves of a partition's pools: those of the dies that it keeps, the lowest (R74, R388). -/
def keptPools (kept : Nat) (ps : Sparse Pool) : Sparse Pool :=
  (ps.filter fun x => decide (x.1 < 16 * kept)).map fun x =>
    (x.1, { x.2 with arb := [], sweep := none, shards := (x.2.shards.filter fun y => decide (y.1 < kept)).map fun y =>
      (y.1, { y.2 with seen := [], inFlight := [], moving := [], pend := [] }) })

/-- A translation of a partition that maps windows which are no longer of its cores (R387). -/
def State.stale (s : State) (e : TlbEntry) : Bool := inWindow e.pa && !s.ownWindows e.part e.pa (2 ^ e.log)

/-- No core reaches a window of another partition by a translation that it has kept from before a cut: those leave the TLBs, a
vector load under way begins again, and a copy under way is checked again (R387, log entry 148). -/
def State.dropStale (s : State) : State :=
  let keep (es : List TlbEntry) : List TlbEntry := es.filter fun e => !s.stale e
  let t : State := { s with
    dies := s.dies.map fun (d : Nat × Die) => (d.1, { d.2 with tlb := keep d.2.tlb })
    cores := s.cores.map fun (c : Nat × Core) => (c.1, { c.2 with itlb := keep c.2.itlb, dtlb := keep c.2.dtlb, vload := none, fwork := none }) }
  t.coreKeys.foldl (fun s c =>
    (s.getCore c).copies.foldl (fun s r =>
      if r.stage = .moving then
        match s.copyChecks c r with
        | .error f => s.copyFault c r f
        | .ok (src, dst, s) => s.modCopy c r.seq fun r => { r with srcRuns := src, dstRuns := dst }
      else s) s) t

/-- The module takes a new cut: of each die whose partition changes the cores, barriers, stands and pools are cleared; what
the driver has set for a partition stays, and every partition's log is empty (R13, R388, R391, R430). -/
def State.recut (s : State) (n : Nat) : State :=
  let gone := (upTo 4).filter fun d => s.shifts n d
  let kept := 4 - gone.length
  let s := gone.foldl State.clearDie s
  let jobs (core : Nat) : Nat := (s.getPart (partOfDie n (dieOf core))).jobs
  State.dropStale { s with
    cut := n
    parts := s.parts.map fun p =>
      (p.1, { p.2 with pools := if p.1 = 0 then keptPools kept p.2.pools else [], log := ErrorLog.reset })
    pieces := s.pieces.filter fun p => !gone.contains (dieOf p.dst) && !(decide (p.src < 512) && gone.contains (dieOf p.src))
    cores := s.cores.map fun c =>
      (c.1, if gone.contains (dieOf c.1) then { c.2 with fab := Fabric.reset, eps := [], jpos := 0, job := jobs c.1 } else c.2)
    dies := s.dies.map fun d =>
      (d.1, if gone.contains d.1 then { d.2 with barriers := [], stands := [], owner := [], owned := [] } else d.2) }

/-- CUT (R388). -/
def execCut (h : Hdr) (n : Nat) (s : State) : Result :=
  s.ncp (.cut h n) h (toModule 0x13) fun s =>
    if n ≠ 1 ∧ n ≠ 2 ∧ n ≠ 4 then ans s stBadField
    else if (upTo s.cut).any s.runsUnit then ans s stBusy
    else ans (if n = s.cut then s else s.recut n) 0

/-! ### Graphs and launches (R368, R377) -/

/-- The graph's nodes are each IDLE, CONFIRMED or CANCELLED (R377). -/
def Graph.restful (g : Graph) : Bool := (upTo g.n).all fun i => (g.node i).final || (g.node i).state == .idle

/-- Every node's launch record is bound to this slot and node (R377); nodes from index `i` on, `fuel` are left. -/
def State.boundOk (s : State) (part slot : Nat) (g : Graph) : Nat → Nat → Bool × State
  | 0, _ => (true, s)
  | fuel + 1, i =>
    match s.readLaunch part (g.node i).launch with
    | (none, s) => (false, s)
    | (some r, s) =>
      if r.bound ∧ r.graph = slot ∧ r.node = i then State.boundOk s part slot g fuel (i + 1) else (false, s)

/-- The slot of the graph table holds an address (R371). -/
def State.setGtab (s : State) (part slot : Nat) (addr : Word) : State :=
  let s := s.modPart part fun p => { p with gtab := p.gtab.set slot addr }
  s.engWrite part .graph ((s.getPart part).desc.gtab + BitVec.ofNat 64 (8 * slot)) (bytesOf 8 addr.toNat)

/-- The slot is cleared. -/
def State.clearSlot (s : State) (part slot : Nat) : State :=
  (s.setGtab part slot 0).modPart part fun p => { p with graphs := Sparse.del p.graphs slot }

/-- GRAPHLOAD (R377, R380). -/
def execGraphload (h : Hdr) (slot : Nat) (addr : Word) (s : State) : Result :=
  s.ncp (.graphload h slot addr) h (toPart 0x04) fun s =>
    let part := h.part.toNat
    if 4095 < slot then ans s stBadField
    else if !(s.getGraph part slot).restful then ans s stBusy
    else
      let s := s.setGtab part slot addr
      match s.readGraph part addr with
      | (none, s) => ans (s.clearSlot part slot) stBadField
      | (some g, s) =>
        let j := (s.getPart part).job
        if j.state = 1 ∧ !Sparse.has j.phases g.phaseId then ans (s.clearSlot part slot) stBadField
        else
          match s.boundOk part slot g g.n 0 with
          | (false, s) => ans (s.clearSlot part slot) stBadField
          | (true, s) => ans (s.modGraph part slot fun _ => g) 0

/-- GRAPHARM (R368): as garm. -/
def execGrapharm (h : Hdr) (slot : Word) (s : State) : Result :=
  s.ncp (.grapharm h slot) h (toPart 0x05) fun s =>
    let (st, s) := s.armGraph h.part.toNat slot.toNat
    ans s st

/-- LAUNCHARM (R368): as larm. -/
def execLauncharm (h : Hdr) (tag : Word) (s : State) : Result :=
  s.ncp (.launcharm h tag) h (toPart 0x06) fun s =>
    let (st, s) := s.armLaunch h.part.toNat tag
    ans s st

/-- LAUNCHPATCH (R368): as lpatch; an index out of range is answered BAD_FIELD. -/
def execLaunchpatch (h : Hdr) (idx word value : Word) (s : State) : Result :=
  s.ncp (.launchpatch h idx word value) h { toPart 0x07 with since := 1 } fun s =>
    match s.patchLaunch h.part.toNat idx word value with
    | none => ans s stBadField
    | some s => ans s 0

/-- The level of a number. -/
def levelOf : Nat → Option CancelLevel
  | 0 => some .unit | 1 => some .launch | 2 => some .graph | 3 => some .phase | 4 => some .job | _ => none

/-- CANCEL (R368): as gcancel; a bad level or target is answered BAD_FIELD. -/
def execCancelCommand (h : Hdr) (level : Nat) (target : Word) (s : State) : Result :=
  s.ncp (.cancelCommand h level target) h (toPart 0x08) fun s =>
    match levelOf level with
    | none => ans s stBadField
    | some l => if s.cancelOk h.part.toNat l target then ans (s.cancelAt h.part.toNat l target) 0 else ans s stBadField

/-- SIGREG (R368, R378): the entry is written, but for COUNT. -/
def execSigreg (h : Hdr) (sig : Nat) (entry : BitVec 256) (s : State) : Result :=
  s.ncp (.sigreg h sig entry) h (toPart 0x09) fun s =>
    let part := h.part.toNat
    let va := (s.getPart part).desc.stab + BitVec.ofNat 64 (0x20 * sig)
    if 4095 < sig ∨ bits entry.toNat 63 1 ≠ 0 then ans s stBadField
    else if (s.engRuns part .write 2 va 24).isNone then ans (s.engFail part .signal true va) stBadField
    else ans (s.engWrite part .signal va (bytesOf 24 entry.toNat)) 0

/-! ### Memory and cores from outside (R366, R372, R387, R422) -/

/-- The range lies in the window of a halted core of the partition, and the port takes an access of it (R92, R372). -/
def State.haltedWindow (s : State) (part pa n : Nat) (wr : Bool) : Bool :=
  inWindow pa && decide (pa + n ≤ winEnd) && s.partOf (winCore pa) == part && (s.getCore (winCore pa)).halted &&
  (winCheck [(pa, n)] 0 n wr).isNone

/-- An image of some partition without its DIGEST covers a byte of the range (R418). -/
def State.imageOpen (s : State) (pa n : Nat) : Bool :=
  s.parts.any fun p =>
    match p.2.imaged with
    | some b => meets b.toNat (0x111000 + s.k * 0x3550000) pa n
    | none => false

/-- The source of the window pieces that the host's accesses make (R112). -/
def hostSrc : Nat := 513

/-- RDMEM (R366, R368, R372, R387, R418, R430): the range goes to the host's memory. -/
def execRdmem (h : Hdr) (addr : Word) (len : Nat) (host : Word) (s : State) : Result :=
  s.ncp (.rdmem h addr len host) h { toPart 0x0A with since := 2, outOk := true } fun s =>
    let part := h.part.toNat
    let pa := addr.toNat
    if 2 ^ 32 < len then ans s stBadField
    else if s.haltedWindow part pa len false then
      let core := winCore pa
      let s := s.arriveN hostSrc s.pieces.length
      if !s.winReady core (winOff pa) len || !s.noPieces hostSrc (fun p => p.dst == core) then waits s
      else ans ((s.readPieces hostSrc core len).send (.hostWrite host ((upTo len).map fun i => s.winSeen (pa + i)))) 0
    else if !s.reachable part pa len then ans (s.logPart part 2 0 pa 1) stBadField
    else if s.imageOpen pa len then waits s
    else ans (s.send (.hostWrite host (Memory.getAll s.mem pa len))) 0

/-- The end of a channel is declared to the peer module, or withdrawn with size 0, over a port of its route (R396, log entry
134). -/
def State.tellEnd (s : State) (e : Endpoint) (halted : Bool) (words slots : Nat) : State :=
  match e.peer, s.portOf e with
  | .module _ own peer chan _, some port => s.send (.grant port peer chan own false halted words slots)
  | _, _ => s

/-- Every context of the core that is not FREE is HALTED (R372). -/
def Core.halt (c : Core) : Core :=
  let c := (upTo 11).foldl (fun c k =>
    if (c.getCtx k).mode = .free then c
    else c.modCtx k fun x => { x with heldMode := x.mode, mode := .halted }) c
  { c with halted := true }

/-- Every HALTED context returns to the state it held (R372). -/
def Core.resume (c : Core) : Core :=
  let c := (upTo 11).foldl (fun c k =>
    if (c.getCtx k).mode = .halted then c.modCtx k fun x => { x with mode := x.heldMode } else c) c
  { c with halted := false, cancelPend := false }

/-- The core tells the peer modules of its channels that it is halted, or runs again (R52, log entry 134). -/
def State.tellHalted (s : State) (core : Nat) : State :=
  (s.getCore core).eps.foldl (fun s e =>
    if e.2.declared then s.tellEnd e.2 (s.getCore core).halted e.2.words e.2.slots else s) s

/-- The wakes that came while a resumed core was halted take effect: a barrier's release completes its instruction next, what was
seen then is taken, and any other wait ends whose object is there (R43, R372). -/
def State.wakeKept (s : State) (core : Nat) : State :=
  (upTo 11).foldl (fun s k =>
    let x := s.getCtx core k
    if x.mode = .ready ∧ x.waking then { s with agenda := s.agenda ++ [.resume core k] }
    else if x.mode = .waiting then s.wakeUp core k
    else s) s

/-- HALT (R372). -/
def execHalt (h : Hdr) (idx : Nat) (s : State) : Result :=
  s.ncp (.halt h idx) h (toPart 0x14) fun s =>
    let core := s.coreAt h.part.toNat idx
    if s.coresPer ≤ idx then ans s stBadField
    else ans (if (s.getCore core).halted then s else (s.modCore core Core.halt).tellHalted core) 0

/-- RESUME (R372): a cancel that was pending takes effect at once, else the wakes that were kept (R43, R331). -/
def execResume (h : Hdr) (idx : Nat) (s : State) : Result :=
  s.ncp (.resume h idx) h (toPart 0x15) fun s =>
    let core := s.coreAt h.part.toNat idx
    let c := s.getCore core
    if s.coresPer ≤ idx then ans s stBadField
    else if !c.halted then ans s 0
    else
      let s := (s.modCore core Core.resume).tellHalted core
      ans (if c.cancelPend then s.stopUnit core else s.wakeKept core) 0

/-- REPLAYTRACE (R422): the entries enter the port's replay queue. -/
def execReplaytrace (h : Hdr) (idx count : Nat) (addr : Word) (s : State) : Result :=
  s.ncp (.replaytrace h idx count addr) h (toPart 0x33) fun s =>
    let part := h.part.toNat
    let core := s.coreAt part idx
    if s.coresPer ≤ idx ∨ count = 0 ∨ 4096 < count ∨ !s.reachable part addr.toNat (16 * count) then ans s stBadField
    else if (s.getCore core).unit.isSome then ans s stBusy
    else
      let es : List (BitVec 128) := (upTo count).map fun i =>
        BitVec.ofNat 128 (natOf (Memory.getAll s.mem (addr.toNat + 16 * i) 16))
      ans (s.modCore core fun c => { c with port := { c.port with replay := c.port.replay ++ es,
                                                                      replayWait := if c.port.replay.isEmpty then 0 else c.port.replayWait } }) 0

/-! ### Jobs (R380, R381) -/

/-- A phase entry as JOBSTART reads it, when it keeps the rules of R380. -/
def readPhase (bs : List Byte) : Option Phase :=
  let x := natOf bs
  if bits x 127 64 ≠ 0 ∨ bits x 45 32 ≠ 0 then none
  else some { Phase.reset with signal := BitVec.ofNat 16 (bits x 63 48), graphs := bits x 31 0 }

/-- The phases of a descriptor. -/
def readPhases (bs : List Byte) : Nat → Nat → Option (Sparse Phase)
  | 0, _ => some []
  | fuel + 1, i =>
    match readPhase ((bs.drop (0x40 + 16 * i)).take 16), readPhases bs fuel (i + 1) with
    | some p, some ps => some ((i, p) :: ps)
    | _, _ => none

/-- The job that a descriptor gives, if it keeps the rules of R380. -/
def readJob (bs : List Byte) : Option Job :=
  let x := natOf (bs.take 64)
  let n := bits x 15 8
  if bits x 511 64 ≠ 0 ∨ bits x 47 40 ≠ 0 ∨ bits x 31 16 ≠ 0 ∨ bits x 7 0 ≠ 1 ∨ n = 0 ∨ 252 < n then none
  else
    match readPhases bs n 0 with
    | none => none
    | some ps => some { state := 1, left := n, signal := BitVec.ofNat 16 (bits x 63 48), cancel := false, phases := ps }

/-- A new job takes the partition: every graph counts afresh, the RO fields are written back, and a phase without graphs is
complete at once (R380, R381). A core that holds another job's state is cleared before the new job reaches it (R391). -/
def State.startJob (s : State) (part : Nat) (j : Job) : State :=
  let s := s.modPart part fun p => { p with job := j, jobs := p.jobs + 1, graphs := p.graphs.map fun g => (g.1, { g.2 with counted := false }) }
  let s := s.engPatch part .phase (s.getPart part).desc.phase 8 fun y => setBits y 39 32 j.left
  let ps := j.phases.map fun x => x.1
  let s := ps.foldl (fun s p => s.engPatch part .phase (s.phaseVa part p) 8 fun y => setBits y 47 46 0) s
  ps.foldl (fun s p => s.phaseEnd part p) s

/-- JOBSTART (R381). -/
def execJobstart (h : Hdr) (s : State) : Result :=
  s.ncp (.jobstart h) h (toPart 0x0B) fun s =>
    let part := h.part.toNat
    if s.runsUnit part ∨ (s.getPart part).job.state = 1 then ans s stBusy
    else
      match s.engRead part .phase (s.getPart part).desc.phase 4096 with
      | (none, s) => ans s stBadField
      | (some bs, s) =>
        match readJob bs with
        | none => ans s stBadField
        | some j => ans (s.startJob part j) 0

/-- The job record (R381). -/
def Job.record (j : Job) : Nat := j.state * 2 ^ 62 + j.left * 2 ^ 32 + j.signal.toNat * 2 ^ 16

/-- JOBSTAT (R381). -/
def execJobstat (h : Hdr) (s : State) : Result :=
  s.ncp (.jobstat h) h (toPart 0x0C) fun s =>
    ansWith s (bytesOf 8 (s.getPart h.part.toNat).job.record)

/-! ### Ports, channels between modules and groups (R393, R396, R397, R399) -/

/-- A port of a route that leads to the peer, in a state. -/
def State.leadsTo (s : State) (port : Nat) (route : BitVec 16) (peer : BitVec 32) (st : BitVec 3) : Bool :=
  decide (port < 16) && route.getLsbD port && (s.getPort port).st == st && (s.getPort port).role == 2 && (s.getPort port).peer == peer

/-- The port carries the channel of an endpoint: it is the one that its traffic takes, or it retrains and keeps what it carried,
while no lower-numbered port that is up takes the traffic (R392, R397, R398). -/
def State.carries (s : State) (port : Nat) (e : Endpoint) : Bool :=
  match e.peer with
  | .module _ _ peer _ route =>
    e.declared && e.live &&
    match s.portFor route peer with
    | some p => p == port || (decide (port < p) && s.leadsTo port route peer 3)
    | none => s.leadsTo port route peer 3
  | _ => false

/-- The port, up or retraining, leads to a rank of a group (R399). -/
def State.carriesGroup (s : State) (port : Nat) (g : Group) : Bool :=
  let p := s.getPort port
  (p.st == 2 || p.st == 3) && p.role == 2 && g.ranks.any fun r => !r.isLocal && r.module == p.peer

/-- PORTCFG (R393, R394). -/
def execPortcfg (h : Hdr) (port : Nat) (desc : Word) (s : State) : Result :=
  s.ncp (.portcfg h port desc) h (toModule 0x18) fun s =>
    let d := desc.toNat
    let busy :=
      (s.cores.any fun c => c.2.eps.any fun e => s.carries port e.2) ||
      s.parts.any fun p => p.2.groups.any fun g => s.carriesGroup port g.2
    if 15 < port ∨ bits d 23 12 ≠ 0 ∨ bits d 7 3 ≠ 0 ∨ 2 < bits d 11 8 then ans s stBadField
    else if busy then ans s stBusy
    else
      ans (s.modPort port fun p =>
        { p with peer := BitVec.ofNat 32 (bits d 63 32), role := BitVec.ofNat 4 (bits d 11 8), retrains := 0,
                 st := if bits d 11 8 = 0 then 0 else 1 }) 0

/-- Bytes of receive slots that a core has reserved (R346, R396). -/
def Core.slotBytes (c : Core) : Nat :=
  (c.eps.map fun e => if e.2.declared && !e.2.send then 8 * e.2.words * e.2.slots else 0).foldl Nat.add 0

/-- An endpoint declared by XCHAN or COLLGRP; `live` says that the other end is declared too (R396). -/
def xEndpoint (send : Bool) (words slots : Nat) (peer : EpPeer) (live : Bool) : Endpoint :=
  { Endpoint.reset with declared := true, send := send, words := words, slots := slots, peer := peer, live := live,
                        byXchan := true }

/-- An XCHAN of size 0 for a channel withdraws the endpoint: the channel's end, or an end of a group (R396, R399). -/
def Endpoint.withdrawn (e : Endpoint) (part chan : Nat) : Bool := e.isChan part chan || (e.declared && e.byXchan && e.isExchange)

/-- XCHAN (R396). -/
def execXchan (h : Hdr) (decl : XDecl) (s : State) : Result :=
  s.ncp (.xchan h decl) h (toPart 0x19) fun s =>
    let part := h.part.toNat
    let core := s.coreAt part decl.core
    let e := s.getEp core decl.ep
    let theirs := (s.getPart part).peerEnds.find? fun x => x.isOf decl.chan decl.peer decl.peerChan
    if 4095 < decl.chan ∨ s.coresPer ≤ decl.core ∨ 63 < decl.ep ∨ 32 < decl.words then ans s stBadField
    else if decl.words = 0 then
      ans (if e.withdrawn part decl.chan then
          (s.modCore core fun c => { c with eps := Sparse.del c.eps decl.ep }).tellEnd e (s.getCore core).halted 0 0
        else s) 0
    else if decl.slots = 0 ∨ 16 < decl.slots ∨ e.declared then ans s stBadField
    else if theirs.any fun x => x.words != decl.words || x.slots != decl.slots then ans s stBadField
    else if !decl.send && decide (8192 < (s.getCore core).slotBytes + 8 * decl.words * decl.slots) then ans s stBadField
    else
      let x := xEndpoint decl.send decl.words decl.slots (.module part decl.chan decl.peer decl.peerChan decl.route)
        theirs.isSome
      ans ((s.modEp core decl.ep fun _ => x).tellEnd x (s.getCore core).halted decl.words decl.slots) 0

/-- The rules of R399 and R396 for the ranks on this module. -/
def State.ranksOk (s : State) (part : Nat) (rs : List CollRank) : Bool :=
  let loc := rs.filter fun r => r.isLocal
  distinct (loc.map fun r => r.core) &&
  loc.all fun r =>
    let core := s.coreAt part r.core
    decide (r.core < s.coresPer) && decide (r.sendEp < 64) && decide (r.recvEp < 64) && r.sendEp != r.recvEp &&
    !(s.getEp core r.sendEp).declared && !(s.getEp core r.recvEp).declared &&
    decide ((s.getCore core).slotBytes + 8 ≤ 8192)

/-- The endpoints of a local rank (R399). -/
def State.declareRank (s : State) (part group : Nat) (r : CollRank × Nat) : State :=
  if r.1.isLocal then
    let core := s.coreAt part r.1.core
    let p : EpPeer := .exchange part group r.2
    (s.modEp core r.1.sendEp fun _ => xEndpoint true 4 1 p true).modEp core r.1.recvEp fun _ => xEndpoint false 1 1 p true
  else s

/-- COLLGRP (R399). -/
def execCollgrp (h : Hdr) (group n : Nat) (ranks : List CollRank) (s : State) : Result :=
  s.ncp (.collgrp h group n ranks) h (toPart 0x1A) fun s =>
    let part := h.part.toNat
    if 255 < group ∨ n = 0 ∨ 256 < n ∨ ranks.length ≠ n ∨ !s.ranksOk part ranks then ans s stBadField
    else
      let s := s.modPart part fun p => { p with groups := p.groups.set group { Group.reset with n := n, ranks := ranks } }
      ans (ranks.zipIdx.foldl (fun s r => s.declareRank part group r) s) 0

/-! ### Counters, power and logs (R427, R429, R430) -/

/-- Percent of the time since the last clear that the module was DEGRADED, rounded down (R429, log entry 111). -/
def Stats.throttle (t : Stats) : Nat := if t.since = 0 then 0 else 100 * t.hot / t.since

/-- The 64-byte block of STATS (R429). -/
def Stats.block (t : Stats) (state : Nat) : List Byte :=
  bytesOf 8 (state % 256) ++ bytesOf 4 0 ++ bytesOf 1 t.throttle ++ bytesOf 1 t.tjmax ++ bytesOf 2 t.peakw ++
  bytesOf 4 t.energy ++ bytesOf 4 t.swmaxns ++ bytesOf 4 t.switches ++ bytesOf 4 t.retrains ++ bytesOf 4 t.eccfix ++
  bytesOf 4 t.wtimeout ++ bytesOf 4 t.lfaults ++ bytesOf 4 t.gcancel ++ bytesOf 8 t.walks ++ bytesOf 8 t.retries

/-- The value of the module state (R423). -/
def ModState.num : ModState → Nat
  | .running => 0 | .degraded => 1 | .failed => 2

/-- STATS (R429). -/
def execStats (h : Hdr) (clear : Bool) (s : State) : Result :=
  s.ncp (.stats h clear) h { toPart 0x40 with who := .either } fun s =>
    let part := h.part.toNat
    if part = 15 then
      ansWith (if clear then { s with stats := Stats.reset } else s) (s.stats.block s.tap.state.num)
    else
      ansWith (if clear then s.modPart part fun p => { p with stats := Stats.reset } else s)
        ((s.getPart part).stats.block s.tap.state.num)

/-- A switch is under way: a partition has come to its INSTANT, and its image is not complete (R418, R428). -/
def State.switching (s : State) : Bool := s.parts.any fun p => p.2.imaged.isSome || s.reached p.2.switch

/-- A POWERCAP takes effect at once, or after the image when it arrives during a switch (R428). -/
def State.setCap (s : State) (watts : BitVec 32) : State :=
  { s with tap := if s.switching then { s.tap with capLater := some watts } else { s.tap with cap := watts, capLater := none } }

/-- POWERCAP (R427, R428). -/
def execPowercap (h : Hdr) (watts : BitVec 32) (s : State) : Result :=
  s.ncp (.powercap h watts) h (toModule 0x41) fun s =>
    if watts.toNat < 600 ∨ 1800 < watts.toNat then ans s stBadField
    else ans (s.setCap watts) 0

/-- The number of the entry that a serial names: the latest so far that has it; none when no entry written yet has it (R430). -/
def ErrorLog.numbered (l : ErrorLog) (first : BitVec 32) : Option Nat :=
  let behind := (l.serial - first).toNat
  if l.count < behind then none else some (l.count - behind)

/-- The entries of a log from a serial on that are still held, in order, at most `n`; from the oldest held when that one is
overwritten (R430). -/
def ErrorLog.read (l : ErrorLog) (first : BitVec 32) (n : Nat) : List (BitVec 256) :=
  match l.numbered first with
  | none => []
  | some k =>
    let from_ := max (max k 1) (l.count - 1023)
    ((upTo (l.count + 1 - from_)).take n).map fun i => Sparse.get 0 l.entries ((from_ + i) % 1024)

/-- ERRLOG (R430). -/
def execErrlog (h : Hdr) (first : BitVec 32) (count : Nat) (s : State) : Result :=
  s.ncp (.errlog h first count) h { toPart 0x42 with who := .either } fun s =>
    let l := if h.part = 15 then s.log else (s.getPart h.part.toNat).log
    if count = 0 ∨ 120 < count then ans s stBadField
    else ansWith s (bytesOf 4 l.serial.toNat ++ (l.read first count).flatMap fun e => bytesOf 32 e.toNat)

end Sys2Proof.Machine
end

