-- ==== Sys2Proof/Machine/Digest.lean ====
section
/-! DEFINITION. The digests of FIPS 202 that the machine uses: SHA3-256 of images, measurements and keys (R348, R406, R407,
R410), and the SHAKE functions that ML-DSA-44 draws on (R406, R408, R410). -/

namespace Sys2Proof.Machine

/-- The 1,600 bits under permutation, as 25 lanes of 64. -/
abbrev Sponge := Vector (BitVec 64) 25

/-- The number of the lane at column `x` and row `y`, both modulo 5. -/
def spongePlace (x y : Nat) : Fin 25 := ⟨x % 5 + 5 * (y % 5), by omega⟩

/-- The lane at a place. -/
def Sponge.lane (a : Sponge) (x y : Nat) : BitVec 64 := a[(spongePlace x y).val]

/-- Each lane takes the parity of the column to its left and of the turned column to its right. -/
def Sponge.mix (a : Sponge) : Sponge :=
  let parity : Vector (BitVec 64) 5 := Vector.ofFn fun x =>
    a.lane x 0 ^^^ a.lane x 1 ^^^ a.lane x 2 ^^^ a.lane x 3 ^^^ a.lane x 4
  let col (x : Nat) : BitVec 64 := parity[x % 5]'(Nat.mod_lt _ (by decide))
  Vector.ofFn fun i => a[i] ^^^ col (i.val + 4) ^^^ (col (i.val + 1)).rotateLeft 1

/-- The place that `n` moves lead to from column 1, row 0: a move takes (x, y) to (y, 2x + 3y). -/
def spongeWalk : Nat → Nat × Nat
  | 0 => (1, 0)
  | n + 1 => let p := spongeWalk n; (p.2, (2 * p.1 + 3 * p.2) % 5)

/-- Every lane but the one at the origin moves one place on the walk, turned by the triangular number of its step. -/
def Sponge.scatter (a : Sponge) : Sponge :=
  (upTo 24).foldl (fun b n =>
    let p := spongeWalk n
    let q := spongeWalk (n + 1)
    b.set (spongePlace q.1 q.2).val ((a.lane p.1 p.2).rotateLeft ((n + 1) * (n + 2) / 2)) (spongePlace q.1 q.2).isLt) a

/-- The step of each row that is not linear. -/
def Sponge.bend (a : Sponge) : Sponge :=
  Vector.ofFn fun i =>
    let y := i.val / 5
    a[i] ^^^ (a.lane (i.val + 2) y &&& ~~~(a.lane (i.val + 1) y))

/-- The shift register of 8 bits that the round constants come from. -/
def spongeShift : Nat → BitVec 8
  | 0 => 1
  | n + 1 => let r := spongeShift n; (r <<< 1) ^^^ (if r.getLsbD 7 then 0x71 else 0)

/-- The constant of a round: seven bits of the register, bit j at place 2^j − 1. -/
def spongeConst (round : Nat) : BitVec 64 :=
  (upTo 7).foldl (fun c j => if (spongeShift (7 * round + j)).getLsbD 0 then c ||| (1#64 <<< (2 ^ j - 1)) else c) 0

/-- The permutation of 24 rounds. -/
def Sponge.permute (a : Sponge) : Sponge :=
  (upTo 24).foldl (fun a n =>
    let b := a.mix.scatter.bend
    b.set 0 (b.lane 0 0 ^^^ spongeConst n)) a

/-- A block of `rate` bytes is laid over the first lanes. -/
def Sponge.overlay (a : Sponge) (block : List Byte) : Sponge :=
  Vector.ofFn fun i => a[i] ^^^ BitVec.ofNat 64 (natOf ((block.drop (8 * i.val)).take 8))

/-- Takes in whole blocks; `n` are left. -/
def Sponge.absorb (rate : Nat) : Nat → Sponge → List Byte → Sponge
  | 0, a, _ => a
  | n + 1, a, bs => Sponge.absorb rate n (a.overlay (bs.take rate)).permute (bs.drop rate)

/-- Gives out `n` blocks. -/
def Sponge.squeeze (rate : Nat) : Nat → Sponge → List Byte
  | 0, _ => []
  | n + 1, a => (a.toList.flatMap fun w => bytesOf 8 w.toNat).take rate ++ Sponge.squeeze rate n a.permute

/-- A message with its domain byte, filled up to whole blocks; the last byte's top bit is 1. -/
def spongePad (rate : Nat) (domain : Byte) (bs : List Byte) : List Byte :=
  let fill := bs ++ [domain] ++ List.replicate (rate - 1 - bs.length % rate) 0
  fill.set (fill.length - 1) (fill.getD (fill.length - 1) 0 ||| 0x80)

/-- The first `n` bytes that a sponge of a rate answers a message with. -/
def spongeHash (rate : Nat) (domain : Byte) (n : Nat) (bs : List Byte) : List Byte :=
  let m := spongePad rate domain bs
  (Sponge.squeeze rate ((n + rate - 1) / rate) (Sponge.absorb rate (m.length / rate) (Vector.replicate 25 0) m)).take n

/-- SHA3-256 as 32 bytes. -/
def sha3 (bs : List Byte) : List Byte := spongeHash 136 0x06 32 bs

/-- `n` bytes of SHAKE128. -/
def shake128 (n : Nat) (bs : List Byte) : List Byte := spongeHash 168 0x1F n bs

/-- `n` bytes of SHAKE256. -/
def shake256 (n : Nat) (bs : List Byte) : List Byte := spongeHash 136 0x1F n bs

/-- SHA3-256 as a 256-bit value, its first byte in the low bits (R3). -/
def sha3Val (bs : List Byte) : BitVec 256 := BitVec.ofNat 256 (natOf (sha3 bs))

end Sys2Proof.Machine
end

