-- ==== Sys2Proof/Machine/MlDsa.lean ====
section
/-! DEFINITION. ML-DSA-44 (FIPS 204), the standard that R406, R408 and R410 name: keys of a seed, signatures and their
check. Every element of the ring is its 256 coefficients modulo q; log entry 6 says how far the loops go. -/

namespace Sys2Proof.Machine

/-- An element of the ring, or its 256 values. -/
abbrev Ring256 := List Nat

namespace Dsa

/-- The modulus. -/
def q : Nat := 8380417

/-- Half of the range of low parts, and its double. -/
def gamma : Nat := 95232
def range2 : Nat := 190464

/-- Half of the range of masks. -/
def maskHalf : Nat := 131072

/-- The bound on what the challenge adds. -/
def beta : Nat := 78

/-- The residue nearest to 0. -/
def near (x : Nat) : Int := if q / 2 < x % q then ((x % q : Nat) : Int) - q else ((x % q : Nat) : Int)

/-- The residue of an integer. -/
def resid (x : Int) : Nat := (x % q).toNat

/-- The largest absolute value of a coefficient. -/
def size (f : Ring256) : Nat := (f.map fun x => (near x).natAbs).foldl max 0

/-- A power modulo q. -/
def pow (b : Nat) : Nat → Nat
  | 0 => 1
  | n + 1 => b * pow b n % q

/-- The bits of a number of 8 bits in reverse order. -/
def flip8 (i : Nat) : Nat := (upTo 8).foldl (fun r j => 2 * r + i / 2 ^ j % 2) 0

/-- The point at which value `i` of an element is taken: an odd power of 1753, a root of 1 of order 512. -/
def point (i : Nat) : Nat := pow 1753 (2 * flip8 i + 1)

/-- Addition and subtraction, coefficient by coefficient. -/
def add (f g : Ring256) : Ring256 := List.zipWith (fun x y => (x + y) % q) f g
def sub (f g : Ring256) : Ring256 := List.zipWith (fun x y => (x + (q - y % q)) % q) f g

/-- The product of values. -/
def times (f g : Ring256) : Ring256 := List.zipWith (fun x y => x * y % q) f g

/-- The values of an element at the 256 points. -/
def eval (f : Ring256) : Ring256 := (upTo 256).map fun i => let r := point i; f.foldr (fun c acc => (c + r * acc) % q) 0

/-- The coefficients, `n` of them, of an element whose values, each over the point's power so far, are given. -/
def interpFrom (inv : List Nat) : Nat → List Nat → Ring256
  | 0, _ => []
  | n + 1, w => (w.foldl Nat.add 0 * 8347681) % q :: interpFrom inv n (List.zipWith (fun x y => x * y % q) w inv)

/-- The element that has the values. -/
def interp (g : Ring256) : Ring256 := interpFrom ((upTo 256).map fun i => pow (point i) 511) 256 g

/-- A row of values times a vector of values. -/
def dot (row v : List Ring256) : Ring256 := (List.zipWith times row v).foldl add (List.replicate 256 0)

/-! ### Bytes -/

/-- Numbers of `w` bits each as bytes. -/
def pack (w : Nat) (xs : List Nat) : List Byte :=
  bytesOf ((w * xs.length + 7) / 8) (xs.foldr (fun x acc => x % 2 ^ w + 2 ^ w * acc) 0)

/-- The 256 numbers of `w` bits that bytes hold. -/
def unpack (w : Nat) (bs : List Byte) : List Nat := let x := natOf bs; (upTo 256).map fun i => x / 2 ^ (w * i) % 2 ^ w

/-- The pieces of `n` bytes of bytes, `k` of them. -/
def slices (n : Nat) : Nat → List Byte → List (List Byte)
  | 0, _ => []
  | k + 1, bs => bs.take n :: slices n k (bs.drop n)

/-- The numbers of three bytes that lie below q. -/
def below : List Byte → List Nat
  | a :: b :: c :: rest =>
    let z := a.toNat + 256 * b.toNat + 65536 * (c.toNat % 128)
    if z < q then z :: below rest else below rest
  | _ => []

/-- The values of a row and column of the public matrix. -/
def matrixAt (rho : List Byte) (r c : Nat) : Ring256 :=
  (below (shake128 1008 (rho ++ [BitVec.ofNat 8 c, BitVec.ofNat 8 r]))).take 256

/-- The values of the public matrix. -/
def matrix (rho : List Byte) : List (List Ring256) := (upTo 4).map fun r => (upTo 4).map fun c => matrixAt rho r c

/-- A secret element: coefficients from −2 to 2. -/
def secret (rho : List Byte) (n : Nat) : Ring256 :=
  let halves := (shake256 544 (rho ++ bytesOf 2 n)).flatMap fun b => [b.toNat % 16, b.toNat / 16]
  ((halves.filter fun b => decide (b < 15)).take 256).map fun b => resid (2 - ((b % 5 : Nat) : Int))

/-- The masks of an attempt. -/
def masks (rho : List Byte) (n : Nat) : List Ring256 :=
  (upTo 4).map fun r => (unpack 18 (shake256 576 (rho ++ bytesOf 2 (n + r)))).map fun x => resid ((maskHalf : Int) - x)

/-- One move of the shuffle that places the challenge's 39 signs. -/
def place (signs : Nat) : List Byte → Nat → Ring256 → Ring256
  | [], _, f => f
  | b :: bs, i, f =>
    if 256 ≤ i then f
    else if i < b.toNat then place signs bs i f
    else
      let f := f.set i (f.getD b.toNat 0)
      place signs bs (i + 1) (f.set b.toNat (if signs / 2 ^ (i - 217) % 2 = 1 then q - 1 else 1))

/-- The challenge. -/
def challenge (seed : List Byte) : Ring256 :=
  let s := shake256 272 seed
  place (natOf (s.take 8)) (s.drop 8) 217 (List.replicate 256 0)

/-- High and low part of a residue. -/
def parts (x : Nat) : Nat × Int :=
  let r := x % q
  let low : Int := if gamma < r % range2 then ((r % range2 : Nat) : Int) - range2 else ((r % range2 : Nat) : Int)
  if (r : Int) - low = q - 1 then (0, low - 1) else ((((r : Int) - low) / range2).toNat, low)

/-- The high part, moved by a hint. -/
def hinted (h : Bool) (x : Nat) : Nat :=
  let p := parts x
  if !h then p.1 else if 0 < p.2 then (p.1 + 1) % 44 else (p.1 + 43) % 44

/-- The high parts as bytes. -/
def highBytes (w : List (List Nat)) : List Byte := w.flatMap (pack 6)

/-- The places of the hints, 80 at most, and how many there are up to each element. -/
def hintBytes (h : List (List Bool)) : List Byte :=
  let at_ (f : List Bool) : List Nat := (f.zipIdx.filter fun x => x.1).map fun x => x.2
  let ps := h.flatMap at_
  (ps ++ List.replicate (80 - ps.length) 0).map (BitVec.ofNat 8) ++
    (upTo 4).map fun i => BitVec.ofNat 8 ((h.take (i + 1)).flatMap at_).length

/-- Rises strictly. -/
def rises : List Nat → Bool
  | a :: b :: rest => decide (a < b) && rises (b :: rest)
  | _ => true

/-- The hints that bytes hold; none when they are malformed. -/
def hintsOf (bs : List Byte) : Option (List (List Bool)) :=
  let ps := (bs.take 80).map fun b => b.toNat
  let ends := (bs.drop 80).map fun b => b.toNat
  let lo (i : Nat) : Nat := if i = 0 then 0 else ends.getD (i - 1) 0
  let one (i : Nat) : List Nat := (ps.take (ends.getD i 0)).drop (lo i)
  if ((upTo 4).all fun i => decide (lo i ≤ ends.getD i 0) && decide (ends.getD i 0 ≤ 80) && rises (one i)) &&
    ((ps.drop (ends.getD 3 0)).all fun p => p == 0) then
    some ((upTo 4).map fun i => (upTo 256).map fun j => (one i).contains j)
  else none

/-! ### Keys, signatures and their check -/

/-- What a seed gives: the matrix's seed, the key of the masks, both secrets, and the high and low part of the public
vector. -/
structure Key where
  rho  : List Byte
  k    : List Byte
  s1   : List Ring256
  s2   : List Ring256
  high : List (List Nat)
  low  : List Ring256
  deriving DecidableEq, Repr

/-- Key generation. -/
def keyOf (seed : List Byte) : Key :=
  let h := shake256 128 (seed ++ [4, 4])
  let sec := (h.drop 32).take 64
  let s1 := (upTo 4).map fun i => secret sec i
  let s2 := (upTo 4).map fun i => secret sec (4 + i)
  let v := s1.map eval
  let t := List.zipWith (fun row e => add (interp (dot row v)) e) (matrix (h.take 32)) s2
  let lowOf (x : Nat) : Int := if 4096 < x % 8192 then ((x % 8192 : Nat) : Int) - 8192 else ((x % 8192 : Nat) : Int)
  { rho := h.take 32, k := h.drop 96, s1 := s1, s2 := s2,
    high := t.map fun f => f.map fun (x : Nat) => (((x : Int) - lowOf x) / 8192).toNat,
    low := t.map fun f => f.map fun (x : Nat) => resid (lowOf x) }

/-- The public key: 1,312 bytes. -/
def Key.public (k : Key) : List Byte := k.rho ++ k.high.flatMap (pack 10)

/-- The message that is signed, under a public key, of bytes with an empty context. -/
def digestOf (key msg : List Byte) : List Byte := shake256 64 (shake256 64 key ++ [0, 0] ++ msg)

/-- One attempt at a signature; none when a bound is broken. -/
def attempt (k : Key) (mu rho : List Byte) (n : Nat) : Option (List Byte) :=
  let y := masks rho n
  let v := y.map eval
  let w := (matrix k.rho).map fun row => interp (dot row v)
  let seed := shake256 32 (mu ++ highBytes (w.map fun f => f.map fun x => (parts x).1))
  let c := eval (challenge seed)
  let by_ (f : Ring256) : Ring256 := interp (times c (eval f))
  let z := List.zipWith (fun y s => add y (by_ s)) y k.s1
  let r := List.zipWith (fun w s => sub w (by_ s)) w k.s2
  let t := k.low.map by_
  let hints := List.zipWith (fun r t => List.zipWith (fun x y => (parts x).1 != (parts ((x + y) % q)).1) r t) r t
  if (z.all fun f => decide (size f < maskHalf - beta)) &&
    (r.all fun f => f.all fun x => decide ((parts x).2.natAbs < gamma - beta)) &&
    (t.all fun f => decide (size f < gamma)) &&
    decide ((hints.flatMap fun f => f.filter id).length ≤ 80) then
    some (seed ++ (z.flatMap fun f => pack 18 (f.map fun x => ((maskHalf : Int) - near x).toNat)) ++ hintBytes hints)
  else none

/-- The first attempt that succeeds; `fuel` are left. -/
def attempts (k : Key) (mu rho : List Byte) : Nat → Nat → List Byte
  | 0, _ => List.replicate 2420 0
  | fuel + 1, n => (attempt k mu rho n).getD (attempts k mu rho fuel (n + 4))

/-- The signature of a message under the key of a seed: 2,420 bytes. -/
def sign (seed rnd msg : List Byte) : List Byte :=
  let k := keyOf seed
  let mu := digestOf k.public msg
  attempts k mu (shake256 64 (k.k ++ rnd ++ mu)) 814 0

/-- The signature verifies under the public key over the message. -/
def verify (key msg sig : List Byte) : Bool :=
  match hintsOf (sig.drop 2336) with
  | none => false
  | some hints =>
    let high := (slices 320 4 (key.drop 32)).map (unpack 10)
    let z := (slices 576 4 (sig.drop 32)).map fun b => (unpack 18 b).map fun x => resid ((maskHalf : Int) - x)
    let c := eval (challenge (sig.take 32))
    let v := z.map eval
    let w := List.zipWith (fun row t =>
      interp (sub (dot row v) (times c (eval (t.map fun x => x * 8192 % q))))) (matrix (key.take 32)) high
    let back := List.zipWith (fun h f => List.zipWith hinted h f) hints w
    decide (key.length = 1312) && decide (sig.length = 2420) && (z.all fun f => decide (size f < maskHalf - beta)) &&
    decide (shake256 32 (digestOf key msg ++ highBytes back) = sig.take 32)

end Dsa

end Sys2Proof.Machine
end

