-- ==== Sys2Proof/Machine/Taproot.lean ====
section
/-! DEFINITION. The taproot (R405 to R411), failure (R395, R423 to R426) and power and heat (R427, R428). -/

namespace Sys2Proof.Machine

/-! ### Firmware images and boot (R405, R406, R407) -/

/-- Bytes [off, off + n) of an image. -/
def sliceOf (bs : List Byte) (off n : Nat) : List Byte := (bs.drop off).take n

/-- A field of a firmware image's header (R406); a byte that was never written is erased flash, all ones. -/
def fwField (bs : List Byte) (hi lo : Nat) : Nat := bits (natOf (bs.take 64 ++ List.replicate (64 - bs.length) 0xFF)) hi lo

/-- Bytes of an image: its header area and its body. -/
def fwSize (bs : List Byte) : Nat := 0x1000 + fwField bs 223 192

/-- The body of an image. -/
def fwBody (bs : List Byte) : List Byte := sliceOf bs 0x1000 (fwField bs 223 192)

/-- The image is valid (R406). -/
def Taproot.imageOk (t : Taproot) (bs : List Byte) : Bool :=
  let len := fwField bs 223 192
  let key := sliceOf bs 0x40 1312
  decide (0x1000 + len ≤ bs.length) && decide (4 ≤ len) && decide (len ≤ 229376) &&
  decide (fwField bs 31 0 = 0x57464C56) && decide (fwField bs 47 32 = 1) && decide (fwField bs 63 48 = 0) &&
  decide (fwField bs 191 128 = 0) && decide (fwField bs 255 224 % 2 = 0) && decide (fwField bs 255 224 < len) &&
  ((sliceOf bs 0xED4 0x12C).all fun b => b == 0) && sha3Val key == t.keyDigest &&
  decide (t.svnMin.toNat ≤ fwField bs 127 96) && decide ((sha3Val (fwBody bs)).toNat = fwField bs 511 256) &&
  Dsa.verify key (sha3 (sliceOf bs 0 0x560)) (sliceOf bs 0x560 2420)

/-- What a slot holds. -/
def Taproot.slot (t : Taproot) : Slot → List Byte
  | .a => t.slotA | .b => t.slotB

/-- Writes a slot. -/
def Taproot.setSlot (t : Taproot) (x : Slot) (bs : List Byte) : Taproot :=
  match x with
  | .a => { t with slotA := bs } | .b => { t with slotB := bs }

/-- The slot that boots: the valid one of the higher SVN, slot A when they are equal (R405 step 2). -/
def Taproot.pick (t : Taproot) : Option Slot :=
  match t.imageOk t.slotA, t.imageOk t.slotB with
  | true, true => if fwField t.slotA 127 96 < fwField t.slotB 127 96 then some .b else some .a
  | true, false => some .a
  | false, true => some .b
  | false, false => none

/-- A measurement register (R407). -/
def Taproot.mea (t : Taproot) (i : Nat) : BitVec 256 := Sparse.get 0 t.meas i

/-- A measurement register is extended (R407). -/
def Taproot.extend (t : Taproot) (i : Nat) (d : BitVec 256) : Taproot :=
  { t with meas := t.meas.set i (sha3Val (bytesOf 32 (t.mea i).toNat ++ bytesOf 32 d.toNat)) }

/-- The d of MEAS2 (R405 step 4). -/
def bootWord (svnMin : BitVec 32) (svn : Nat) (x : Slot) : BitVec 256 :=
  BitVec.ofNat 256 (natOf (bytesOf 4 svnMin.toNat ++ bytesOf 4 svn ++ bytesOf 1 (match x with | .a => 0x41 | .b => 0x42) ++
    List.replicate 23 0))

/-- The taproot after its boot (R405 steps 1 to 4); fuses and flash stand. -/
def Taproot.boot (t : Taproot) : Taproot :=
  let t := { Taproot.reset with seed := t.seed, keyDigest := t.keyDigest, svnMin := t.svnMin, slotA := t.slotA,
                                slotB := t.slotB }
  match t.pick with
  | none => { t with recovery := true }
  | some x =>
    let bs := t.slot x
    let t := ((t.extend 0 Config.romDigest).extend 1 (sha3Val (fwBody bs))).extend 2
      (bootWord t.svnMin (fwField bs 127 96) x)
    { t with booted := some x, tcm := Memory.putAll [] 0 (fwBody bs) }

/-- Module reset (R405): everything but fuses, flash and the taproot's own frames is as after reset. Whether the die-to-die
ports train is a free value; when one does not, the boot stops and the module is in recovery. -/
def State.boot (s : State) : State :=
  let t := s.tap.boot
  let up := Config.portsTrain s.draws
  { State.reset with
    tap := if t.recovery || up then t else { t with recovery := true, booted := none }
    owners := s.owners.filter fun c => c.2 == 0xFF, outbox := s.outbox, draws := s.draws + 1 }

/-- A store to flash that was under way is over, and the floor that came with it is raised; its command is to be answered
(R411). -/
def Taproot.landed (t : Taproot) : Taproot :=
  { t with staging := none, staged := (t.staging.map fun x => x.2).or t.staged, floor := none, svnMin := t.floor.getD t.svnMin }

/-- A module reset. -/
def execModuleReset (s : State) : Result := .next ({ s with tap := s.tap.landed }).boot

/-! ### Attestation (R408 to R411) -/

/-- The public key of the fused seed (R408). -/
def Taproot.publicKey (t : Taproot) : List Byte := (Dsa.keyOf (bytesOf 32 t.seed.toNat)).public

/-- IDENTITY (R408, R409). -/
def execIdentity (h : Hdr) (s : State) : Result :=
  s.ncp (.identity h) h { toModule 0x20 with recovery := true } fun s =>
    ansWith s (s.tap.publicKey ++ Config.certificate s.tap.publicKey)

/-- The part of a quote that is signed (R410). -/
def State.quoteBody (s : State) (h : Hdr) (nonce : BitVec 256) (mask : BitVec 8) : List Byte :=
  bytesOf 4 0x54514C56 ++ bytesOf 2 1 ++ [mask, 0] ++ bytesOf 32 nonce.toNat ++
  ((upTo 8).flatMap fun i => bytesOf 32 (if mask.getLsbD i then (s.tap.mea i).toNat else 0)) ++
  [2, BitVec.ofNat 8 ((s.getConn h.conn).minor.getD 0), 1, 2, 4, 1, 0, 0] ++ bytesOf 8 s.time.toNat

/-- The signature of a quote's body by the identity key (R410). -/
def State.quoteSign (s : State) (body : List Byte) : List Byte :=
  Dsa.sign (bytesOf 32 s.tap.seed.toNat) (bytesOf 32 (Config.signRandom s.draws).toNat) (sha3 body)

/-- QUOTE (R409, R410). -/
def execQuote (h : Hdr) (nonce : BitVec 256) (mask : BitVec 8) (s : State) : Result :=
  s.ncp (.quote h nonce mask) h (toModule 0x21) fun s =>
    let q := s.quoteBody h nonce mask
    ansWith s.drawn (q ++ s.quoteSign q)

/-- EXTEND (R407, R409). -/
def execExtend (h : Hdr) (reg : Nat) (digest : BitVec 256) (s : State) : Result :=
  s.ncp (.extend h reg digest) h (toModule 0x22) fun s =>
    if reg < 4 ∨ 7 < reg then ans s stBadField else ans { s with tap := s.tap.extend reg digest } 0

/-- An image that passed its check is being written to a slot for a connection's FWSTAGE; with COMMIT the floor is to rise to
its SVN (R411). -/
def Taproot.stage (t : Taproot) (conn : Nat) (x : Slot) (bs : List Byte) (commit : Bool) : Taproot :=
  let bs := bs.take (fwSize bs)
  { t.setSlot x bs with
    staging := some (x, conn)
    floor := if commit then some (BitVec.ofNat 32 (max t.svnMin.toNat (fwField bs 127 96))) else none }

/-- An FWSTAGE that finds another one in progress is answered BUSY; one that is itself in progress waits until its slot is written,
and is then answered 0 (R411). `k` takes a new one. -/
def State.staging (s : State) (conn : Nat) (k : Answer) : Answer :=
  if s.tap.staged = some conn then ans { s with tap := { s.tap with staged := none } } 0
  else
    match s.tap.staging with
    | some (_, c) => if c = conn then waits s else ans s stBusy
    | none => if s.tap.staged.isSome then ans s stBusy else k

/-- FWSTAGE (R409, R411). -/
def execFwstage (h : Hdr) (addr : Word) (commit : Bool) (s : State) : Result :=
  s.ncp (.fwstage h addr commit) h { toModule 0x23 with since := 1 } fun s =>
    let pa := addr.toNat
    let n := min (fwSize (Memory.getAll s.mem pa 64)) 233472
    let bs := Memory.getAll s.mem pa n
    let x : Slot := if s.tap.booted = some .a then .b else .a
    s.staging h.conn
      (if !s.owns 0xFE pa n || !s.tap.imageOk bs then ans s stBadField
      else waits { s with tap := s.tap.stage h.conn x bs commit })

/-- FWSTAGE in its recovery form (R411). -/
def execFwstageRecovery (h : Hdr) (off : Nat) (bytes : List Byte) (last commit : Bool) (s : State) : Result :=
  s.ncp (.fwstageRecovery h off bytes last commit) h { toModule 0x23 with since := 1, recovery := true } fun s =>
    let n := bytes.length
    s.staging h.conn (if !s.tap.recovery ∨ n = 0 ∨ 3968 < n ∨ n % 4 ≠ 0 ∨ 233472 < off + n then ans s stBadField
    else
      let t := { s.tap with tcm := Memory.putAll s.tap.tcm off bytes }
      let img := Memory.getAll t.tcm 0 233472
      if !last then ans { s with tap := t } 0
      else if t.imageOk img then waits { s with tap := t.stage h.conn .a img commit }
      else ans { s with tap := t } stBadField)

/-- Power is lost while an image is staged: the slot is invalid, and the module boots again (R411). -/
def execStagingPowerLoss (s : State) : Result :=
  .next (match s.tap.staging with
    | none => s
    | some (x, _) => { s with tap := s.tap.setSlot x [] }.boot)

/-! ### Failure (R395, R423 to R426) -/

/-- A launch in flight is reported with a fault and stopped; its node hears of it (R336, R395, R398). -/
def State.failLaunch (s : State) (part i : Nat) (code : BitVec 16) : State :=
  let l := s.getLaunch part i
  if !l.armed then s
  else
    let s := s.countFault part i code
    if l.stopped then s
    else
      let s := (s.stopLaunch part i).modLaunch part i fun l => { l with stopped := true }
      if l.bound then s.report part (.fault l.tag code) else s

/-- A partition stops: every launch in flight is reported LINK_FAILED, and every graph, phase and unit stops as by a job
cancel (R424). -/
def State.failPart (s : State) (part : Nat) : State :=
  let s := ((s.getPart part).launches.map fun l => l.1).foldl (fun s i => s.failLaunch part i 0x0043) s
  let s := s.cancelJob part
  let s := ((s.getPart part).graphs.map fun g => g.1).foldl (fun s g => s.cancelGraph part g 0 0xFFFFFFFF false) s
  (s.coresOf part).foldl (fun s c => if (s.getCore c).unit.isSome then s.cancelUnit c else s) s

/-- The module enters FAILED (R424). -/
def State.failModule (s : State) : State :=
  (upTo s.cut).foldl State.failPart { s with tap := { s.tap with state := .failed } }

/-- The taproot's watchdog expires once its firmware has not written its kick register for 50 ms (R426, log entry 138). -/
def execTaprootWatchdog (s : State) : Result :=
  .next (if 50000000 ≤ s.tap.kick ∧ s.tap.state ≠ .failed then s.failModule else s)

/-- A heartbeat, while port 0 is up (R423). -/
def execHeartbeat (s : State) : Result :=
  .next (if (s.getPort 0).st = 2 then s.send (.heartbeat (s.notifyHdr 15) (bytesOf 8 s.time.toNat ++ bytesOf 8 s.tap.state.num)) else s)

/-- The place of a soft error has a physical address (R430). -/
def addressed : ErrorPlace → Bool
  | .memory | .llc | .image => true
  | .tlb | .directory | .corestate => false

/-- A soft error: counted when corrected, else the module fails (R424, R429, R430). -/
def execSoftError (pa : Word) (place : ErrorPlace) (corrected : Bool) (s : State) : Result :=
  .next (
    let s := s.logMod 5 0 (if addressed place then pa.toNat else 0) (if corrected then 0 else 1)
    if corrected then { s with stats := { s.stats with eccfix := satAdd 32 s.stats.eccfix 1 } } else s.failModule)

/-! ### Power and heat (R427, R428) -/

/-- Limits become active: the module is DEGRADED, unless it has FAILED (R423, R427). -/
def Taproot.throttle (t : Taproot) (causes : List HeatCause) : Taproot :=
  { t with heat := t.heat ++ causes.filter fun c => !t.heat.contains c
           state := if t.state = .failed ∨ causes = [] then t.state else .degraded }

/-- A limit is reached: the module throttles, or after the image when that comes during a switch (R427, R428). -/
def execThermalThrottle (cause : HeatCause) (s : State) : Result :=
  .next { s with tap :=
    if s.switching then { s.tap with heatLater := (s.tap.heatLater.filter fun c => c ≠ cause) ++ [cause] }
    else s.tap.throttle [cause] }

/-- What arrived during a switch takes effect, once none is under way (R428). -/
def State.settlePower (s : State) : State :=
  if s.switching then s
  else
    { s with tap := { s.tap.throttle s.tap.heatLater with
      cap := s.tap.capLater.getD s.tap.cap, capLater := none, heatLater := [] } }

/-- A trip temperature is reached (R427); the draw has no trip. -/
def execThermalTrip (cause : HeatCause) (s : State) : Result :=
  .next (if cause = .draw then s else s.failModule)

/-- No limit is active any longer (R423, R428). -/
def execThrottleCleared (s : State) : Result :=
  .next { s with tap := { s.tap with
    heat := [], heatLater := [], derate := [], state := if s.tap.state = .failed then .failed else .running } }

/-- The share of a die in microjoules: in proportion to its demand, or equal when nothing was demanded, with 10 % less
for each period that its junction was too hot (R428). -/
def dieShare (total : Nat) (demands : List Nat) (cuts : Nat) (die : Nat) : Nat :=
  let sum := demands.foldl Nat.add 0
  let x := if sum = 0 then total / 4 else total * demands.getD die 0 / sum
  x * 9 ^ cuts / 10 ^ cuts

/-- A die's tokens for the period: whole millijoules of its share and of what is carried (R428). -/
def State.powerDie (s : State) (total : Nat) (demands : List Nat) (die : Nat) : State :=
  let hot := s.tap.heat.contains (.junction die)
  let cuts := if hot then Sparse.get 0 s.tap.derate die + 1 else 0
  let uj := dieShare total demands cuts die + Sparse.get 0 s.tap.carry die
  { s.modDie die fun d => { d with tokens := uj / 1000 } with
    tap := { s.tap with carry := s.tap.carry.set die (uj % 1000), derate := s.tap.derate.set die cuts } }

/-- A junction's temperature: above 100 °C its limit is active, until it falls below 98 °C (R427, R428); during a switch it
becomes active after the image. -/
def State.junction (s : State) (die temp : Nat) : State :=
  if 100 < temp then
    { s with tap :=
      if s.switching then { s.tap with heatLater := (s.tap.heatLater.filter fun c => c ≠ .junction die) ++ [.junction die] }
      else s.tap.throttle [.junction die] }
  else if temp < 98 then
    let heat := s.tap.heat.filter fun c => c ≠ .junction die
    { s with tap := { s.tap with
      heat := heat, heatLater := s.tap.heatLater.filter fun c => c ≠ .junction die
      state := if heat = [] ∧ s.tap.state = .degraded then .running else s.tap.state } }
  else s

/-- What the sensors give for a period: energy and peak draw are free, and each junction's temperature is as sensed (R429). -/
def State.sense (s : State) : State :=
  let w := (Config.freeWord s.draws).toNat
  let t := s.stats
  { s with
    draws := s.draws + 1
    stats := { t with energy := satAdd 32 t.energy (bits w 15 0), peakw := max t.peakw (bits w 31 16),
                      tjmax := (s.tap.sensed.2.map fun x => min x.2 255).foldl max t.tjmax } }

/-- A power period: the limits of the junctions, then the module limit less the fixed draw is divided among the dies (R427,
R428). A junction at 115 °C trips. -/
def State.powerPeriod (s : State) : State :=
  let (fixed, ds) := s.tap.sensed
  let total := (s.tap.cap.toNat * 1000 - fixed) / 10
  let s := ds.zipIdx.foldl (fun s x => s.junction x.2 x.1.2) s.sense
  let s := (upTo 4).foldl (fun s d => s.powerDie total (ds.map fun x => x.1) d) s
  if s.tap.state ≠ .failed ∧ ds.any (fun x => decide (115 ≤ x.2)) then s.failModule else s

/-- A power period with new readings of the sensors (R428). -/
def execPowerPeriod (fixedMw : Nat) (demands : List (Nat × Nat)) (s : State) : Result :=
  .next ({ s with tap := { s.tap with sensed := (fixedMw, demands) } }).powerPeriod

/-- A grove takes the tokens for its next microsecond; when they do not suffice its clock is the highest step of 100 MHz
within them, at least 1.0 GHz (R428). `need` is the draw at 2.0 GHz in tokens. -/
def execTokenTake (grove need : Nat) (s : State) : Result :=
  .next (
    let die := grove / 32
    let have_ := (s.getDie die).tokens
    let clock := if need ≤ have_ then 20 else max 10 (20 * have_ / need)
    (s.modDie die fun d => { d with tokens := have_ - (need * clock + 19) / 20 }).modGrove grove fun g =>
      { g with clock := clock })

end Sys2Proof.Machine
end

