-- ==== Sys2Proof/Machine/Link.lean ====
section
/-! DEFINITION. Ports and their failure (R392 to R398), time across a gang (R414), outside writes (R366, R387, R419) and
collectives (R399 to R404). -/

namespace Sys2Proof.Machine

/-! ### Collectives (R400 to R403) -/

/-- OP, E, RAW and ENC of a collective descriptor (R400). -/
def collOp (ws : List Word) : Nat := bits (ws.getD 0 0).toNat 3 0
def collCount (ws : List Word) : Nat := bits (ws.getD 0 0).toNat 39 16
def collE (ws : List Word) : Nat := 128 * collCount ws
def collRaw (ws : List Word) : Bool := bitAt (ws.getD 0 0) 4
def collSrc (ws : List Word) : Word := ws.getD 1 0
def collDst (ws : List Word) : Word := ws.getD 2 0
def collEnc (ws : List Word) : Word := (ws.getD 3 0) &&& 0xFFFFFFFF

/-- Bytes that a rank supplies (R401). -/
def collIn (ws : List Word) (rank : Nat) : Nat := if collOp ws = 3 ∧ rank ≠ 0 then 0 else 4 * collE ws

/-- Bytes that a rank of `n` receives (R401). -/
def collOut (ws : List Word) (n : Nat) : Nat :=
  match collOp ws with
  | 1 => 4 * collE ws / n | 2 => 4 * collE ws * n | _ => 4 * collE ws

/-- A ring slot large enough for a group, so that only the descriptor's own rules of R260 decide. -/
def groupRing : Ring := { Ring.reset with logSize := 10 }

/-- The descriptor breaks a rule of R400 or R401, or its ranges overlap (R403 BAD_DESC). -/
def badColl (g : Grove) (group n rank : Nat) (ws : List Word) : Bool :=
  let w := (ws.getD 0 0).toNat
  decide (ws.length ≠ 4) || decide (bits w 63 40 ≠ 0) || decide (bits w 7 5 ≠ 0) || collCount ws == 0 ||
  decide (2 ^ 18 < collCount ws) || bits w 15 8 != group || decide (3 < collOp ws) ||
  decide ((collSrc ws).toNat % 128 ≠ 0) || decide ((collDst ws).toNat % 128 ≠ 0) ||
  decide (bits (ws.getD 3 0).toNat 63 32 ≠ 0) || (collOp ws == 1 && decide (collE ws % (128 * n) ≠ 0)) ||
  (!collRaw ws && encFault g (collEnc ws) groupRing true) ||
  (collIn ws rank != 0 && meets (collSrc ws).toNat (collIn ws rank) (collDst ws).toNat (collOut ws n))

/-- The FP32 words of bytes. -/
def fp32Of (bs : List Byte) (n : Nat) : List Nat := (upTo n).map fun i => natOf (sliceOf bs (4 * i) 4)

/-- A rank's source as the link carries it, with its encode flags (R402). -/
def Grove.ship (g : Grove) (ws : List Word) (src : List Byte) : List Byte × Flags :=
  if collRaw ws then (src, 0)
  else
    (upTo (src.length / 512)).foldl (fun (acc : List Byte × Flags) i =>
      let xs := (fp32Of (sliceOf src (512 * i) 512) 128).map (fp32.num false)
      let d := collEnc ws
      let gc := g.encodeGroup (opndA d) (bits d.toNat 31 24) (bits d.toNat 22 17) xs fun _ => none
      (acc.1 ++ padTo 0x300 gc.bytes, acc.2 ||| gc.flags)) ([], 0)

/-- The values of a rank's data at a receiver, with the flags of its decodes (R263, R402). -/
def Grove.unship (g : Grove) (ws : List Word) (data : List Byte) : List Nat × Flags :=
  if collRaw ws then (fp32Of data (collE ws), 0)
  else
    let es := (upTo (collCount ws)).flatMap fun i =>
      (g.readGroup (opndA (collEnc ws)) false (sliceOf data (0x300 * i) 0x300)).map decoded
    (es.map fun e => e.1, es.foldl (fun f e => f ||| e.2) 0)

/-- Element j of a reduction in rank order (R402). -/
def reduceAt (vs : List (List Nat)) (j : Nat) : Nat × Flags :=
  match vs with
  | [] => (0, 0)
  | v :: rest =>
    rest.foldl (fun (acc : Nat × Flags) x =>
      let r := fp32.add plainCtl (fp32.num false acc.1) (fp32.num false (x.getD j 0))
      (r.val, acc.2 ||| r.flags)) (v.getD j 0, 0)

/-- What rank `r` of `n` receives, and the flags of its additions (R401, R402). -/
def collResult (ws : List Word) (n r : Nat) (vs : List (List Nat)) : List Nat × Flags :=
  let reduce (lo len : Nat) : List Nat × Flags :=
    let es := (upTo len).map fun j => reduceAt vs (lo + j)
    (es.map fun e => e.1, es.foldl (fun f e => f ||| e.2) 0)
  match collOp ws with
  | 0 => reduce 0 (collE ws)
  | 1 => reduce (collE ws / n * r) (collE ws / n)
  | 2 => (vs.flatten, 0)
  | _ => (vs.getD 0 [], 0)

/-- The runs of a rank's source, when every page can be read (R107, R401). -/
def State.collSource (s : State) (r : CollReq) : Except AFault (Runs × State) :=
  s.access r.core .read (collSrc r.words) (collIn r.words r.rank)

/-- The destination of a local rank, when every page can be written. -/
def State.collDest (s : State) (n : Nat) (r : CollReq) : Except AFault (Runs × State) :=
  s.access r.core .write (collDst r.words) (collOut r.words n)

/-- What a local rank supplies, read through its die (R107, R402); nothing when its source cannot be read or its destination
written (R403 status 3). -/
def State.collLocal (s : State) (group n : Nat) (r : CollReq) : CollPeer :=
  let g := s.getGrove (groveOf r.core)
  let p : CollPeer := { rank := r.rank, words := r.words, data := [], flags := 0, status := 0 }
  if badColl g group n r.rank r.words then { p with status := 1 }
  else if !r.live then { p with status := 5 }
  else
    match s.collSource r with
    | .error _ => { p with status := 3 }
    | .ok (rs, _) =>
      match s.collDest n r with
      | .error _ => { p with status := 3 }
      | .ok _ =>
        let (data, fl) := g.ship r.words (s.seenRuns (dieOf r.core) s.winSeen rs)
        { p with data := data, flags := fl }

/-- The reads of a rank's source take their arrival numbers at the ports (R113). -/
def State.collRead (s : State) (r : CollReq) : State :=
  match s.collSource r with
  | .error _ => s
  | .ok (rs, _) => s.readRuns exchangeSrc rs

/-- The fields in which the ranks must agree (R403). -/
def collKey (ws : List Word) : Nat × Nat × Bool × Word :=
  (collOp ws, collCount ws, collRaw ws, if collRaw ws then 0 else collEnc ws)

/-- The status of the operation before its destinations are looked at (R403). -/
def collStatus (ps : List CollPeer) : Nat :=
  let any (k : Nat) : Bool := ps.any fun p => p.status == k
  let same :=
    match ps with
    | [] => true
    | p :: rest => rest.all fun q => collKey q.words == collKey p.words
  if any 1 then 1 else if !same then 2 else if any 5 then 5 else if any 4 then 4 else if any 3 then 3 else 0

/-- The exchange engine's writes: memory at the LLC, windows as pieces of agent 22 (R109, R114). -/
def State.collWrite (s : State) (rs : Runs) (bs : List Byte) : State :=
  (cutRuns rs bs).foldl (fun s x =>
    if inWindow x.1 then { s with pieces := s.pieces ++ piecesOf exchangeSrc 22 0 true x.1 x.2 } else s.writeLlc x.1 x.2) s

/-- The lines of a destination leave the die's L1s before the engine writes it, so that none is stale when the reply is
taken: it is an acquire (R110, R403). -/
def State.collFresh (s : State) (r : CollReq) (rs : Runs) : State := s.onLines rs fun s l => s.flushLine (dieOf r.core) l

/-- An unspecified destination (R403 statuses 3 to 5). -/
def State.collScramble (s : State) (n : Nat) (r : CollReq) : State :=
  match s.collDest n r with
  | .error _ => s
  | .ok (rs, s) =>
    ((s.collFresh r rs).collWrite rs ((upTo (collOut r.words n)).map fun i => Config.freeByte s.draws i)).drawn

/-- The reply word (R403). -/
def replyWord (serial : BitVec 32) (fl : Flags) (status : Nat) : Word :=
  BitVec.ofNat 64 (serial.toNat * 2 ^ 32 + fl.toNat * 2 ^ 16 + status)

/-- The endpoint that a rank's reply goes to. -/
def Group.recvEp (g : Group) (rank : Nat) : Nat :=
  match g.ranks[rank]? with
  | some r => r.recvEp
  | none => 0

/-- The reply goes out, with the flags of encodes and additions in its word, and into FSTAT these and those of the rank's
decodes; a cancelled rank's is discarded (R171, R403). -/
def State.collReply (s : State) (g : Group) (r : CollReq) (fl decodes : Flags) (status : Nat) : State :=
  if !r.live then s
  else
    let s := s.modCore r.core fun c => { c with fstat := c.fstat ||| fl ||| decodes }
    s.modEp r.core (g.recvEp r.rank) fun e =>
      { e with grants := e.grants - 1, msgs := e.msgs ++ [[replyWord r.serial fl status]] }

/-- A rank's launch hears of the failure (R403 statuses 3 and 4). -/
def State.collFault (s : State) (n status : Nat) (r : CollReq) : State :=
  if !r.live then s
  else if status = 4 then s.reportLaunch r.core r.launch 0 0x0043
  else if status = 3 then
    match s.collSource r with
    | .error f => s.reportLaunch r.core r.launch 0 f.code
    | .ok _ =>
      match s.collDest n r with
      | .error f => s.reportLaunch r.core r.launch 0 f.code
      | .ok _ => s
  else s

/-- The requests of the oldest operation that the local ranks have started. -/
def Group.oldest (g : Group) : List CollReq :=
  match g.pending with
  | [] => []
  | r :: _ => g.pending.filter fun x => x.serial == r.serial

/-- A group of a partition. -/
def State.getGroup (s : State) (part n : Nat) : Group := Sparse.get Group.reset (s.getPart part).groups n

/-- Changes a group of a partition. -/
def State.modGroup (s : State) (part n : Nat) (f : Group → Group) : State :=
  s.modPart part fun p => { p with groups := p.groups.set n (f (Sparse.get Group.reset p.groups n)) }

/-- A request's descriptor leaves the slot of its rank's send endpoint, where it has stood while it was pending. -/
def State.freeSlot (s : State) (part group : Nat) (g : Group) (r : CollReq) : State :=
  match g.ranks[r.rank]? with
  | none => s
  | some x =>
    s.modEp r.core x.sendEp fun e =>
      if e.peer = .exchange part group r.rank ∧ e.msgs.head? = some r.words then { e with msgs := e.msgs.drop 1 } else e

/-- The requests leave the group, and their descriptors the slots. -/
def State.dropReqs (s : State) (part group : Nat) (rs : List CollReq) : State :=
  let g := s.getGroup part group
  rs.foldl (fun s r => s.freeSlot part group g r)
    (s.modGroup part group fun g => { g with pending := g.pending.filter fun r => !rs.contains r })

/-- The value of each rank's data at a receiver; a rank that supplies nothing has none to decode (R171, R401). -/
def collValues (gr : Grove) (ws : List Word) (n : Nat) (ps : List CollPeer) : List (List Nat × Flags) :=
  (upTo n).map fun i =>
    if collIn ws i = 0 then ([], 0) else gr.unship ws ((ps.find? fun p => p.rank == i).elim [] fun p => p.data)

/-- An operation of status `st` writes the destination of a local rank: the state, and the flags of its reply and of its decodes
(R401 to R403). -/
def State.collWriteRank (s : State) (n : Nat) (ps : List CollPeer) (st : Nat) (r : CollReq) : State × Flags × Flags :=
  if st = 0 then
    let vs := collValues (s.getGrove (groveOf r.core)) r.words n ps
    let (out, fl) := collResult r.words n r.rank (vs.map fun v => v.1)
    let enc := ps.foldl (fun f p => f ||| p.flags) (0 : Flags)
    let decodes := vs.foldl (fun f v => f ||| v.2) 0
    match s.collDest n r with
    | .error _ => (s, 0, 0)
    | .ok (runs, s) => ((s.collFresh r runs).collWrite runs (out.flatMap fun v => bytesOf 4 v), enc ||| fl, decodes)
  else (if 3 ≤ st then s.collScramble n r else s, 0, 0)

/-- The destinations of the local ranks are written, and each of their requests has its reply ready. -/
def State.collWritten (s : State) (part group : Nat) (rs : List CollReq) (ps : List CollPeer) (st : Nat) : State :=
  let n := (s.getGroup part group).n
  rs.foldl (fun s r =>
    let (s, fl, decodes) := s.collWriteRank n ps st r
    s.modGroup part group fun g =>
      { g with pending := g.pending.map fun x => if x = r then { r with ended := some (fl, decodes, st) } else x }) s

/-- No write of the exchange engine is on its way to a window of the partition. -/
def State.collLanded (s : State) (part : Nat) : Bool :=
  s.pieces.all fun p => !(p.src == exchangeSrc && s.partOf p.dst == part)

/-- The requests of a group whose destinations are written end: their replies go out, and their launches hear of a failure
(R403). -/
def State.collReplies (s : State) (part group : Nat) : State :=
  let g := s.getGroup part group
  let rs := g.pending.filter fun r => r.ended.isSome
  let s := s.dropReqs part group rs
  let s := rs.foldl (fun s r => r.ended.elim s fun e => s.collReply g r e.1 e.2.1 e.2.2) s
  rs.foldl (fun s r => r.ended.elim s fun e => s.collFault g.n e.2.2 r) s

/-- A descriptor message reaches the exchange engine (R400). It stays in its slot until the operation is over, so that a rank has
one operation under way and its next chsend waits for the grant (R49, log entry 11). -/
def execCollectiveStart (core ep : Nat) (words : List Word) (s : State) : Result :=
  .next (
    let e := s.getEp core ep
    match e.peer with
    | .exchange part group rank =>
      let c := s.getCore core
      let g := s.getGroup part group
      if e.declared ∧ e.send ∧ e.msgs.head? = some words ∧ !(g.pending.any fun r => r.rank == rank && r.core == core) then
        let k := Sparse.get (0 : BitVec 32) g.serials rank
        let r : CollReq :=
          { rank := rank, serial := k, words := words, core := core, unit := c.units,
            launch := c.unit.bind fun u => u.launch, live := true, ended := none }
        s.modGroup part group fun g => { g with serials := g.serials.set rank (k + 1), pending := g.pending ++ [r] }
      else s
    | _ => s)

/-- The windows of a rank's source can be read: no vector or matrix work on them is left, and no piece of its core is on
its way to them (R94, R95, R107). -/
def State.collOpen (s : State) (r : CollReq) : Bool :=
  match s.collSource r with
  | .error _ => true
  | .ok (rs, _) => rs.all fun x => !inWindow x.1 ||
      (s.winReady (winCore x.1) (winOff x.1) x.2 && s.noPieces r.core fun p => p.dst == winCore x.1)

/-- Every rank has started the operation, and the reply of each local one can go out (R49, R400). -/
def State.collReady (s : State) (g : Group) (rs : List CollReq) (peers : List CollPeer) : Bool :=
  !rs.isEmpty &&
  (g.ranks.zipIdx.all fun x =>
    if x.1.isLocal then rs.any fun r => r.rank == x.2 else peers.any fun p => p.rank == x.2) &&
  rs.all fun r => s.collOpen r && (!r.live || decide (0 < (s.getEp r.core (g.recvEp r.rank)).grants))

/-- A collective is performed, with what the ranks of other modules shipped; to them goes what the local ones supply (R401 to
R403). The replies follow once every write of it has arrived: the reply is an acquire for the destination (R403). -/
def execCollectiveComplete (part group : Nat) (peers : List CollPeer) (s : State) : Result :=
  .next (
    let g := s.getGroup part group
    let rs := g.oldest
    let replies (s : State) : State := if s.collLanded part then s.collReplies part group else s
    if rs.any fun r => r.ended.isSome then replies s
    else if !s.collReady g rs peers then s
    else
      let far := peers.filter fun p => match g.ranks[p.rank]? with | some r => !r.isLocal | none => false
      let mine := rs.map fun r => s.collLocal group g.n r
      let ps := mine ++ far
      let s := (rs.zip mine).foldl (fun s x => if x.2.status = 0 then s.collRead x.1 else s) s
      let s := if g.ranks.all fun r => r.isLocal then s else mine.foldl (fun s p => s.send (.collective part group p)) s
      replies (s.collWritten part group rs ps (collStatus ps)))

/-! ### Ports (R392 to R395, R398, R413) -/

/-- A die of the substrate (R12). -/
inductive DieName where
  | compute (n : Nat) | memory (n : Nat) | fabric (n : Nat) | link
  deriving DecidableEq, Repr

/-- The dies that a die-to-die port joins: 32 from a compute die to a memory die, then four each to the paired fabric die, to
the link die and round the ring (R14; R430 names the numbers 16 to 47, log entry 126 the pairs and the other numbers). -/
def diePort (n : Nat) : Option (DieName × DieName) :=
  if n < 16 then none
  else if n < 48 then some (.compute ((n - 16) / 8), .memory ((n - 16) % 8))
  else if n < 52 then some (.compute (n - 48), .fabric (n - 48))
  else if n < 56 then some (.compute (n - 52), .link)
  else if n < 60 then some (.compute (n - 56), .compute ((n - 55) % 4))
  else none

/-- The module has the port: external, or between dies. -/
def portOk (n : Nat) : Bool := decide (n < 16) || (diePort n).isSome

/-- A flit is sent again with all after it: none is delivered twice, so nothing that the module holds changes (R392). -/
def execFlitReplay (_port : Nat) (s : State) : Result := .next s

/-- A port loses training and retrains (R392, R393, R429, R430). -/
def execPortTrainingLost (port : Nat) (s : State) : Result :=
  .next (if (s.getPort port).st = 2 ∧ portOk port then
      let s := s.modPort port fun p => { p with st := 3, retrains := if p.retrains = 255 then 255 else p.retrains + 1 }
      ({ s with stats := { s.stats with retrains := satAdd 32 s.stats.retrains 1 } }).logMod 4 0 port 3
    else s)

/-- The ends of the channels that a port carries are declared to its peer, which may not have heard of them (R396, log entry
134). -/
def State.tellPort (s : State) (port : Nat) : State :=
  s.coreKeys.foldl (fun s c =>
    (s.getCore c).eps.foldl (fun s e =>
      if e.2.declared && s.portOf e.2 == some port then s.tellEnd e.2 (s.getCore c).halted e.2.words e.2.slots else s) s) s

/-- A port is up again, or for the first time: a port to a module only if the message versions `lo` to `hi` that its
peer accepts hold version 1 (R392, R413). -/
def execPortUp (port : Nat) (lo hi : Nat) (s : State) : Result :=
  .next (
    let p := s.getPort port
    if portOk port ∧ (p.st = 3 ∨ (p.st = 1 ∧ (p.role ≠ 2 ∨ (lo ≤ 1 ∧ 1 ≤ hi)))) then
      (s.modPort port fun p => { p with st := 2 }).tellPort port
    else s)

/-- A unit hears of a failed port: its launch is reported LINK_FAILED, and one of no launch is logged (R336, R398, R403,
R436). -/
def State.linkFailed (s : State) (core : Nat) : State :=
  match (s.getCore core).unit with
  | some { launch := some (i, _), .. } => s.failLaunch (s.partOf core) i 0x0043
  | some { launch := none, .. } => s.logLate core 0 0x0043
  | none => s

/-- The units that hold an endpoint of a failed channel stop, and the channel starts afresh (R398). -/
def State.failChannel (s : State) (core ep : Nat) : State :=
  let s := s.linkFailed core
  let s := if (s.getCore core).unit.isSome then s.cancelUnit core else s
  s.modEp core ep fun e => { e with grants := 0, msgs := [], early := [], seqno := 0, unacked := 0#11 }

/-- Every operation of a group ends as LINK_DOWN, and the ranks number on together (R403). -/
def State.failGroup (s : State) (part group : Nat) : State :=
  let rs := (s.getGroup part group).pending.filter fun r => r.ended.isNone
  let s := (s.collWritten part group rs [] 4).collReplies part group
  let s := (s.getGroup part group).ranks.foldl (fun s r =>
    if r.isLocal then s.linkFailed (s.coreAt part r.core) else s) s
  let g := s.getGroup part group
  let top : BitVec 32 := BitVec.ofNat 32 ((g.serials.map fun x => x.2.toNat).foldl max 0)
  s.modGroup part group fun g => { g with serials := g.serials.map fun x => (x.1, top) }

/-- A retrain lasts too long: the port fails; an external one takes its channels and groups with it, a die-to-die one
the module (R394, R395, R398). -/
def execPortFailed (port : Nat) (s : State) : Result :=
  .next (if (s.getPort port).st ≠ 3 ∨ !portOk port then s
    else
      let up := s.modPort port fun p => { p with st := 2 }
      let chans := s.coreKeys.flatMap fun c =>
        ((s.getCore c).eps.filter fun e => up.carries port e.2).map fun e => (c, e.1)
      let groups := s.parts.flatMap fun p => (p.2.groups.filter fun g => s.carriesGroup port g.2).map fun g => (p.1, g.1)
      let s := (s.modPort port fun p => { p with st := 4 }).logMod 4 0x0043 port 4
      if 16 ≤ port then s.failModule
      else
        let s := chans.foldl (fun s c => s.failChannel c.1 c.2) s
        groups.foldl (fun s g => s.failGroup g.1 g.2) s)

/-- A packet that asks for what the module does not offer (R366). -/
def execUnsupportedPacket (port : Nat) (kind : PacketKind) (s : State) : Result :=
  .next (match kind with
    | .transport => s.modPort port fun p => { p with errors := p.errors + 1 }
    | .semantic => s.send (.errorResponse port))

/-! ### Time across a gang (R414) -/

/-- A port to another module of the gang is up. -/
def State.gangUpAt (s : State) (n : Nat) : Bool := (s.getPort n).role == 2 && (s.getPort n).st == 2

/-- Some port of the gang is up. -/
def State.gangPort (s : State) : Bool := (upTo 16).any s.gangUpAt

/-- Time stamps are exchanged over a port: the difference is what TIME's rate is to correct (R414). -/
def execTimeStampExchange (port : Nat) (peerTime : Word) (s : State) : Result :=
  .next (if s.gangUpAt port then
      { s.send (.timeStamp port s.time) with rate := (peerTime.toNat : Int) - s.time.toNat }
    else s)

/-- No port of the gang has been up for 50 ms (R414). -/
def execOutOfStep (s : State) : Result :=
  .next (if !s.gangPort && decide (50000000 ≤ s.gangDown) then { s with sync := false } else s)

/-- A port of the gang has been up again for 10 ms (R414). -/
def execBackInStep (s : State) : Result :=
  .next (if s.gangPort && decide (10000000 ≤ s.gangUp) then { s with sync := true } else s)

/-! ### Outside writes (R106, R366, R372, R387, R419) -/

/-- A host remote write: into the partition's or the driver's frames at the LLC, into the window of a halted core as
pieces, else refused whole and logged (R430). -/
def execHostRemoteWrite (part : Nat) (pa : Nat) (bytes : List Byte) (s : State) : Result :=
  .next (
    if 2 ^ 32 < bytes.length then s.send (.errorResponse 0)
    else if s.haltedWindow part pa bytes.length true then
      { s with pieces := s.pieces ++ piecesOf hostSrc 23 0 false pa bytes }
    else if s.reachable part pa bytes.length then s.writeLlc pa bytes
    else s.logPart part 2 0 pa 0)

/-- A remote write of another module: only into frames owned 0xFE, else refused and logged (R419, R430). -/
def execPeerRemoteWrite (port : Nat) (pa : Nat) (bytes : List Byte) (s : State) : Result :=
  .next (
    if s.owns 0xFE pa bytes.length then s.writeLlc pa bytes
    else
      let o := (s.owner pa).toNat
      let s := s.send (.refusedWrite port)
      if 1 ≤ o ∧ o ≤ 4 then s.logPart (o - 1) 2 0 pa (2 + 256 * port) else s.logMod 2 0 pa (2 + 256 * port))

end Sys2Proof.Machine
end

