-- ==== Sys2Proof/Machine/LoadStore.lean ====
section
/-! DEFINITION. Scalar loads and stores, acquire and release forms and the literal load, majors 0x2 and 0x3 (R218 to
R221). -/

namespace Sys2Proof.Machine

/-- A load of 2^z bytes at S(a) + Imm × 2^z, sign- or zero-extended (R218). -/
def State.loadOp (s : State) (d a : SReg) (imm : Word) (z : Nat) (sx : Bool) : Result :=
  .next (s.start [a] [d] fun s =>
    s.load (s.rd a + imm * BitVec.ofNat 64 (2 ^ z)) (2 ^ z) d fun s v =>
      s.result d (if sx then sextNat v (8 * 2 ^ z) else BitVec.ofNat 64 v))

/-- A store of the low 2^z bytes of S(d) at S(a) + Imm × 2^z (R218). -/
def State.storeOp (s : State) (d a : SReg) (imm : Word) (z : Nat) : Result :=
  .next (s.begin [d, a] [] fun s => s.store (s.rd a + imm * BitVec.ofNat 64 (2 ^ z)) (2 ^ z) (s.rd d))

/-- ld.b (R218). -/
def execLdB (d a : SReg) (imm : Word) (s : State) : Result := s.loadOp d a imm 0 true
/-- ld.h (R218). -/
def execLdH (d a : SReg) (imm : Word) (s : State) : Result := s.loadOp d a imm 1 true
/-- ld.w (R218). -/
def execLdW (d a : SReg) (imm : Word) (s : State) : Result := s.loadOp d a imm 2 true
/-- ld.d (R218). -/
def execLdD (d a : SReg) (imm : Word) (s : State) : Result := s.loadOp d a imm 3 true
/-- ld.bu (R218). -/
def execLdBu (d a : SReg) (imm : Word) (s : State) : Result := s.loadOp d a imm 0 false
/-- ld.hu (R218). -/
def execLdHu (d a : SReg) (imm : Word) (s : State) : Result := s.loadOp d a imm 1 false
/-- ld.wu (R218). -/
def execLdWu (d a : SReg) (imm : Word) (s : State) : Result := s.loadOp d a imm 2 false
/-- st.b (R218). -/
def execStB (d a : SReg) (imm : Word) (s : State) : Result := s.storeOp d a imm 0
/-- st.h (R218). -/
def execStH (d a : SReg) (imm : Word) (s : State) : Result := s.storeOp d a imm 1
/-- st.w (R218). -/
def execStW (d a : SReg) (imm : Word) (s : State) : Result := s.storeOp d a imm 2
/-- st.d (R218). -/
def execStD (d a : SReg) (imm : Word) (s : State) : Result := s.storeOp d a imm 3

/-- An acquire load (R102, R220): after its checks it waits as the fence that follows it would, for the load has no effect
that the fence waits for (log entry 129): fence.r.d for a narrow scope, fence.r of its scope for a window. With a wide scope
the die's copy is then written back and replaced from the LLC. The context's own buffered stores answer first (R99 item 4). -/
def State.acquire (s : State) (scope : Scope) (va : Word) (n : Nat) (d : SReg) (k : State → Nat → State) : State :=
  s.gate .read va n [d] fun s rs =>
    let win := rs.any fun r => inWindow r.1
    s.fenced (win || !scope.wide) false (if win then scope else .d) fun s =>
      let s := (if scope.wide then s.onLines rs fun s l => s.flushLine s.die l else s).readIn rs
      k s (natOf (s.loadRuns rs))

/-- ld.acq.Z.S (R220): an aligned load that later accesses of the context follow. -/
def execLdAcq (scope : Scope) (size : BitVec 2) (d a : SReg) (imm : Word) (s : State) : Result :=
  .next (s.start [a] [d] fun s =>
    let n := 2 ^ size.toNat
    let va := s.rd a + imm * BitVec.ofNat 64 n
    if va.toNat % n ≠ 0 then s.takeFault 0x0004 0 va
    else s.acquire scope va n d fun s v => s.result d (sextNat v (8 * n)))

/-- A release store's write at the LLC and in the die's copy, as one access (R102). -/
def State.releaseRuns (s : State) (rs : Runs) (bs : List Byte) : State :=
  (cutRuns rs bs).foldl (fun s x =>
    if inWindow x.1 then s.winStore x.1 x.2 else (s.holdRuns s.core [(x.1, x.2.length)]).layBytes s.die x.1 x.2) s

/-- st.rel.Z.S (R220): the earlier accesses of the context are complete for the scope before the store; a wide scope
writes at the LLC. The checks come before the wait. -/
def execStRel (scope : Scope) (size : BitVec 2) (d a : SReg) (imm : Word) (s : State) : Result :=
  .next (s.begin [d, a] [] fun s =>
    let n := 2 ^ size.toNat
    let va := s.rd a + imm * BitVec.ofNat 64 n
    if va.toNat % n ≠ 0 then s.takeFault 0x0004 0 va
    else
      s.gate .write va n [] fun s rs =>
        s.fenced scope.wide true (if scope.wide ∨ rs.any (fun r => inWindow r.1) then scope else .d) fun s =>
          let bs := bytesOf n (s.rd d).toNat
          (if scope.wide then s.releaseRuns rs bs else s.storeRuns rs bs).retire)

/-- ldl.d (R221): the address counts from the instruction's own, rounded down to 8. -/
def execLdlD (d : SReg) (imm : Word) (s : State) : Result :=
  .next (s.start [] [d] fun s =>
    s.load ((s.cx.pc &&& ~~~7) + imm * 8) 8 d fun s v => s.result d (BitVec.ofNat 64 v))

end Sys2Proof.Machine
end

