-- ==== Sys2Proof/Machine/ScalarFloat.lean ====
section
/-! DEFINITION. Scalar floating point, major 0x6 (R226 to R229). No instruction of it faults. -/

namespace Sys2Proof.Machine

/-- A register result and the flags with it. -/
structure FOut where
  val   : Word
  flags : Flags
  deriving DecidableEq, Repr

/-- The control that holds at execution (R226). -/
def State.fpctl (s : State) : FCtl := fctl s.me.fmode

/-- The operand of a format in a register: the low bits, under DAZ (R226). -/
def Fmt.reg (f : Fmt) (c : FCtl) (x : Word) : Num := f.num c.daz (x.toNat % 2 ^ (1 + f.ebits + f.mbits))

/-- A floating result in a register; FP32 leaves bits [63:32] 0 (R226). -/
def FRes.out (r : FRes) : FOut := { val := BitVec.ofNat 64 r.val, flags := r.flags }
/-- The truth value of a comparison (R228). -/
def CRes.out (r : CRes) : FOut := { val := truth r.holds, flags := r.flags }
/-- An integer result of `w` bits, sign- or zero-extended (R229). -/
def intOut (r : Int × Flags) : FOut := { val := BitVec.ofInt 64 r.1, flags := r.2 }

/-- An instruction of one source: the flags go to FSTAT as it retires (R171, R226). -/
def State.fp1 (s : State) (d a : SReg) (f : FCtl → Word → FOut) : Result :=
  .next (s.begin [a] [d] fun s => let r := f s.fpctl (s.rd a); (s.orFlags r.flags).result d r.val)
/-- An instruction of two sources. -/
def State.fp2 (s : State) (d a b : SReg) (f : FCtl → Word → Word → FOut) : Result :=
  .next (s.begin [a, b] [d] fun s => let r := f s.fpctl (s.rd a) (s.rd b); (s.orFlags r.flags).result d r.val)
/-- fmadd: a third source of s0 to s15. -/
def State.fp3 (s : State) (d a b : SReg) (c : CReg) (f : FCtl → Word → Word → Word → FOut) : Result :=
  .next (s.begin [a, b, c.setWidth 5] [d] fun s =>
    let r := f s.fpctl (s.rd a) (s.rd b) (s.rdC c); (s.orFlags r.flags).result d r.val)

/-- An operation of two operands of a format (R227). -/
def State.arith (s : State) (f : Fmt) (d a b : SReg) (op : FCtl → Num → Num → FRes) : Result :=
  s.fp2 d a b fun c x y => (op c (f.reg c x) (f.reg c y)).out
/-- A comparison of two operands of a format (R228). -/
def State.compare (s : State) (f : Fmt) (d a b : SReg) (op : Num → Num → CRes) : Result :=
  s.fp2 d a b fun c x y => (op (f.reg c x) (f.reg c y)).out
/-- A conversion to an integer (R229). -/
def State.toIntOp (s : State) (f : Fmt) (lo hi : Int) (d a : SReg) : Result :=
  s.fp1 d a fun c x => intOut (toInt c.rm lo hi (f.reg c x))
/-- A conversion from an integer (R229). -/
def State.ofIntOp (s : State) (f : Fmt) (v : Word → Int) (d a : SReg) : Result :=
  s.fp1 d a fun c x => (f.ofInt c (v x)).out

/-- The signed and unsigned 32-bit sources of R229. -/
def srcW (x : Word) : Int := (x.setWidth 32).toInt
/-- The unsigned one. -/
def srcWu (x : Word) : Int := ((x.setWidth 32).toNat : Int)

/-- fadd.d (R227). -/
def execFaddD (d a b : SReg) (s : State) : Result := s.arith fp64 d a b fp64.add

/-- fsub.d (R227). -/
def execFsubD (d a b : SReg) (s : State) : Result := s.arith fp64 d a b fp64.sub

/-- fmul.d (R227). -/
def execFmulD (d a b : SReg) (s : State) : Result := s.arith fp64 d a b fp64.mul

/-- fdiv.d (R227). -/
def execFdivD (d a b : SReg) (s : State) : Result := s.arith fp64 d a b fp64.div

/-- fmin.d (R227). -/
def execFminD (d a b : SReg) (s : State) : Result := s.arith fp64 d a b fp64.min

/-- fmax.d (R227). -/
def execFmaxD (d a b : SReg) (s : State) : Result := s.arith fp64 d a b fp64.max

/-- fsqrt.d (R227). -/
def execFsqrtD (d a : SReg) (s : State) : Result := s.fp1 d a fun c x => (fp64.sqrt c (fp64.reg c x)).out

/-- fmadd.d (R227): one rounding. -/
def execFmaddD (d a b : SReg) (c : CReg) (s : State) : Result :=
  s.fp3 d a b c fun m x y z => (fp64.fma m (fp64.reg m x) (fp64.reg m y) (fp64.reg m z)).out

/-- fadd.s (R227). -/
def execFaddS (d a b : SReg) (s : State) : Result := s.arith fp32 d a b fp32.add

/-- fsub.s (R227). -/
def execFsubS (d a b : SReg) (s : State) : Result := s.arith fp32 d a b fp32.sub

/-- fmul.s (R227). -/
def execFmulS (d a b : SReg) (s : State) : Result := s.arith fp32 d a b fp32.mul

/-- fdiv.s (R227). -/
def execFdivS (d a b : SReg) (s : State) : Result := s.arith fp32 d a b fp32.div

/-- fmin.s (R227). -/
def execFminS (d a b : SReg) (s : State) : Result := s.arith fp32 d a b fp32.min

/-- fmax.s (R227). -/
def execFmaxS (d a b : SReg) (s : State) : Result := s.arith fp32 d a b fp32.max

/-- fsqrt.s (R227). -/
def execFsqrtS (d a : SReg) (s : State) : Result := s.fp1 d a fun c x => (fp32.sqrt c (fp32.reg c x)).out

/-- fmadd.s (R227): one rounding. -/
def execFmaddS (d a b : SReg) (c : CReg) (s : State) : Result :=
  s.fp3 d a b c fun m x y z => (fp32.fma m (fp32.reg m x) (fp32.reg m y) (fp32.reg m z)).out

/-- feq.d (R228). -/
def execFeqD (d a b : SReg) (s : State) : Result := s.compare fp64 d a b cmpEq

/-- flt.d (R228). -/
def execFltD (d a b : SReg) (s : State) : Result := s.compare fp64 d a b cmpLt

/-- fle.d (R228). -/
def execFleD (d a b : SReg) (s : State) : Result := s.compare fp64 d a b cmpLe

/-- fclass.d (R228): no flag, DAZ ignored. -/
def execFclassD (d a : SReg) (s : State) : Result :=
  s.fp1 d a fun _ x => { val := BitVec.ofNat 64 (fp64.classify (x.toNat)), flags := 0 }

/-- feq.s (R228). -/
def execFeqS (d a b : SReg) (s : State) : Result := s.compare fp32 d a b cmpEq

/-- flt.s (R228). -/
def execFltS (d a b : SReg) (s : State) : Result := s.compare fp32 d a b cmpLt

/-- fle.s (R228). -/
def execFleS (d a b : SReg) (s : State) : Result := s.compare fp32 d a b cmpLe

/-- fclass.s (R228): no flag, DAZ ignored. -/
def execFclassS (d a : SReg) (s : State) : Result :=
  s.fp1 d a fun _ x => { val := BitVec.ofNat 64 (fp32.classify (x.toNat % 2 ^ 32)), flags := 0 }

/-- fcvt.d.s (R229). -/
def execFcvtDS (d a : SReg) (s : State) : Result := s.fp1 d a fun c x => (fp64.put c (fp32.reg c x)).out

/-- fcvt.s.d (R229). -/
def execFcvtSD (d a : SReg) (s : State) : Result := s.fp1 d a fun c x => (fp32.put c (fp64.reg c x)).out

/-- fcvt.l.d (R229). -/
def execFcvtLD (d a : SReg) (s : State) : Result := s.toIntOp fp64 (loS 64) (hiS 64) d a

/-- fcvt.lu.d (R229). -/
def execFcvtLuD (d a : SReg) (s : State) : Result := s.toIntOp fp64 0 (hiU 64) d a

/-- fcvt.w.s (R229). -/
def execFcvtWS (d a : SReg) (s : State) : Result := s.toIntOp fp32 (loS 32) (hiS 32) d a

/-- fcvt.w.d (R229). -/
def execFcvtWD (d a : SReg) (s : State) : Result := s.toIntOp fp64 (loS 32) (hiS 32) d a

/-- fcvt.wu.d (R229). -/
def execFcvtWuD (d a : SReg) (s : State) : Result := s.toIntOp fp64 0 (hiU 32) d a

/-- fcvt.l.s (R229). -/
def execFcvtLS (d a : SReg) (s : State) : Result := s.toIntOp fp32 (loS 64) (hiS 64) d a

/-- fcvt.lu.s (R229). -/
def execFcvtLuS (d a : SReg) (s : State) : Result := s.toIntOp fp32 0 (hiU 64) d a

/-- fcvt.wu.s (R229). -/
def execFcvtWuS (d a : SReg) (s : State) : Result := s.toIntOp fp32 0 (hiU 32) d a

/-- fcvt.d.l (R229). -/
def execFcvtDL (d a : SReg) (s : State) : Result := s.ofIntOp fp64 (fun x => x.toInt) d a

/-- fcvt.d.lu (R229). -/
def execFcvtDLu (d a : SReg) (s : State) : Result := s.ofIntOp fp64 (fun x => (x.toNat : Int)) d a

/-- fcvt.s.w (R229). -/
def execFcvtSW (d a : SReg) (s : State) : Result := s.ofIntOp fp32 srcW d a

/-- fcvt.s.l (R229). -/
def execFcvtSL (d a : SReg) (s : State) : Result := s.ofIntOp fp32 (fun x => x.toInt) d a

/-- fcvt.s.lu (R229). -/
def execFcvtSLu (d a : SReg) (s : State) : Result := s.ofIntOp fp32 (fun x => (x.toNat : Int)) d a

/-- fcvt.s.wu (R229). -/
def execFcvtSWu (d a : SReg) (s : State) : Result := s.ofIntOp fp32 srcWu d a

end Sys2Proof.Machine
end

