-- ==== Sys2Proof/Machine/Image.lean ====
section
/-! DEFINITION. The context image of version 4 (R346 to R350) as a list of blocks: where each lies, what a switch saves
in it, what a restore does with it, and its field rules. Where R346 names contents without their places, the places are
the model's (log entry 11). -/

namespace Sys2Proof.Machine

/-- A block of the image. Its bytes are a memory addressed from the block's first byte. -/
structure Block where
  off  : Nat
  len  : Nat
  save : State → Memory
  load : Memory → State → State
  ok   : Memory → Bool

/-- The bytes of [lo, lo + n) of a memory, addressed from 0. -/
def Memory.slice (m : Memory) (lo n : Nat) : Memory :=
  (m.filter fun c => decide (lo ≤ c.1) && decide (c.1 < lo + n)).map fun c => (c.1 - lo, c.2)

/-- A number's bytes as a memory. -/
def numMem (off n v : Nat) : Memory := Memory.putAll [] off (bytesOf n v)

/-- The number in `n` bytes of a memory. -/
def Memory.num (m : Memory) (off n : Nat) : Nat := natOf (Memory.getAll m off n)

/-- Lanes as bytes. -/
def lanesMem (x : Sparse Lane) : Memory := x.foldl (fun m e => Memory.putAll m (4 * e.1) (bytesOf 4 e.2.toNat)) []

/-- Bytes as lanes. -/
def memLanes (m : Memory) : Sparse Lane :=
  m.foldl (fun (x : Sparse Lane) c =>
    Sparse.set x (c.1 / 4) (BitVec.ofNat 32 (setByte (Sparse.get (0 : Lane) x (c.1 / 4)).toNat (c.1 % 4) c.2))) []

namespace Block

/-- A block that holds bytes as they are. -/
def raw (off len : Nat) (get : State → Memory) (put : Memory → State → State) : Block :=
  { off := off, len := len, save := get, load := put, ok := fun _ => true }

/-- A block that is one record. -/
def num (off len : Nat) (get : State → Nat) (put : Nat → State → State) (ok : Nat → Bool) : Block :=
  { off := off, len := len, save := fun s => numMem 0 len (get s), load := fun m s => put (m.num 0 len) s,
    ok := fun m => ok (m.num 0 len) }

/-- A block of `n` records of `len` bytes, by index; a record of 0 is the reset value and loads nothing. -/
def array (off len n : Nat) (get : State → Nat → Nat) (put : Nat → Nat → State → State) (ok : Nat → Nat → Bool) :
    Block :=
  { off := off, len := len * n
    save := fun s => (upTo n).foldl (fun m i => Memory.putAll m (len * i) (bytesOf len (get s i))) []
    load := fun m s => (upTo n).foldl (fun s i => if m.num (len * i) len = 0 then s else put i (m.num (len * i) len) s) s
    ok := fun m => (upTo n).all fun i => ok i (m.num (len * i) len) }

/-- A block of up to `n` records of `len` bytes in order; a record of 0 is unused. -/
def list (off len n : Nat) (get : State → List Nat) (put : List Nat → State → State) (ok : Nat → Bool) : Block :=
  { off := off, len := len * n
    save := fun s => ((get s).take n).zipIdx.foldl (fun m x => Memory.putAll m (len * x.2) (bytesOf len x.1)) []
    load := fun m s => put (((upTo n).map fun i => m.num (len * i) len).filter fun x => x != 0) s
    ok := fun m => (upTo n).all fun i => m.num (len * i) len == 0 || ok (m.num (len * i) len) }

end Block

/-! ### Queued instructions (R347) -/

/-- The record of a queued instruction, with its words as they were fetched. One that gdone placed has no issuing context: CTX is 15 (log entry 11). -/
def QEntry.image (q : QEntry) : Nat :=
  let ws := q.words
  q.journal.toNat * 2 ^ 448 + q.fmode.toNat * 2 ^ 384 + q.c.toNat * 2 ^ 320 + q.b.toNat * 2 ^ 256 + q.a.toNat * 2 ^ 192 +
  q.seq.toNat * 2 ^ 176 + (if q.sys then 15 else q.ctx) * 2 ^ 172 + ws.length * 2 ^ 168 +
  (ws.foldr (fun w n => n * 65536 + w.toNat) 0) * 2 ^ 80

/-- The words of a record. -/
def imageWords (x : Nat) : List (BitVec 16) :=
  (upTo (bits x 171 168)).map fun i => BitVec.ofNat 16 (bits x (95 + 16 * i) (80 + 16 * i))

/-- The instruction of a record, when its words are an engine-bound instruction. -/
def imageInstr (x : Nat) : Option Instr := (decodeEngine (imageWords x)).toOption

/-- A value that FMODE refuses (R302). -/
def fmodeBad (x : Nat) : Bool := decide (bits x 31 6 ≠ 0) || decide (5 ≤ bits x 2 0)

/-- The field rules of R347, and of the registers whose values the record holds: FMODE (R302), and JOURNAL of a fabric
instruction alone (R309). -/
def queueOk (x : Nat) : Bool :=
  decide (1 ≤ bits x 171 168) && decide (bits x 171 168 ≤ 5) && decide (bits x 167 160 = 0) && decide (bits x 79 0 = 0) &&
  decide (bits x 159 80 < 2 ^ (16 * bits x 171 168)) && !fmodeBad (bits x 447 384) &&
  (decide (bits x 175 172 ≤ 10) || decide (bits x 175 172 = 15)) &&
  match imageInstr x with
  | none => false
  | some i =>
    if queueOf i.word = some false then !journalBad (BitVec.ofNat 64 (bits x 511 448)) else decide (bits x 511 448 = 0)

/-- The queued instruction of a record; its unit is found afterwards. -/
def imageEntry (x : Nat) : Option QEntry :=
  (imageInstr x).map fun i =>
    { instr := i, seq := BitVec.ofNat 16 (bits x 191 176), ctx := if bits x 175 172 = 15 then 0 else bits x 175 172,
      a := BitVec.ofNat 64 (bits x 255 192), b := BitVec.ofNat 64 (bits x 319 256), c := BitVec.ofNat 64 (bits x 383 320),
      fmode := BitVec.ofNat 64 (bits x 447 384), journal := BitVec.ofNat 64 (bits x 511 448), unit := 0,
      words := imageWords x, sys := decide (bits x 175 172 = 15) }

/-- Inserts an instruction of the ring unit in dispatch order. -/
def insertSeq (q : QEntry) : List QEntry → List QEntry
  | [] => [q]
  | e :: es => if q.before e then q :: e :: es else e :: insertSeq q es

/-- The instruction is one of the ring unit. -/
def QEntry.ofRing (q : QEntry) : Bool := q.instr.word.toNat / 4096 == 12

/-! ### Contexts and cores (R349, R350) -/

/-- STATE (R349). -/
def CtxMode.num : CtxMode → Nat
  | .free => 0 | .ready => 1 | .waiting => 2 | .halted => 3

/-- A context's record (R349). -/
def Ctx.image (x : Ctx) : Nat :=
  let nulsl := x.nul0.toNat + 2 * x.nul1.toNat + 4 * x.sl0.toNat + 8 * x.sl1.toNat
  let chain := x.pc.toNat + (if x.fresh then 0 else x.npc.toNat * 2 ^ 64 + x.nnpc.toNat * 2 ^ 128)
  let res :=
    match x.barResult with
    | none => 0
    | some r => 2 ^ 579 + r.flags.toNat * 2 ^ 568 + r.vote.toNat * 2 ^ 536
  res + x.poolSel.toNat * 2 ^ 530 + x.timerPend.toNat * 2 ^ 529 + x.tl.toNat * 2 ^ 528 + x.xnul.toNat % 16 * 2 ^ 524 +
  nulsl * 2 ^ 520 + x.mode.num * 2 ^ 512 + x.fresh.toNat * 2 ^ 449 + x.xnul.toNat / 16 * 2 ^ 448 +
  x.chbind.toNat * 2 ^ 384 + x.xnnpc.toNat * 2 ^ 320 + x.xnpc.toNat * 2 ^ 256 + x.xpc.toNat * 2 ^ 192 + chain

/-- A byte of CHBIND that R305 allows: bound, or 0. -/
def bindOk (b : Nat) : Bool := decide (b = 0) || (decide (bits b 7 7 = 1) && decide (bits b 6 6 = 0))

/-- The field rules of R349 for context `k` of a partition of `pools` pools, and of the registers that the record copies: the
control context is not FREE (R34), CHBIND (R305), POOLSEL (R306) and the flags of FSTAT (R303). -/
def ctxOk (pools k x : Nat) : Bool :=
  decide (bits x 1023 580 = 0) && decide (bits x 511 450 = 0) && decide (bits x 519 512 ≤ 3) &&
  (decide (bits x 449 449 = 0) || decide (bits x 191 64 = 0)) && decide (bits x 0 0 = 0) && decide (bits x 64 64 = 0) &&
  decide (bits x 128 128 = 0) && (decide (k ≠ 0) || decide (bits x 519 512 ≠ 0)) &&
  ((upTo 8).all fun i => bindOk (bits x (391 + 8 * i) (384 + 8 * i))) && decide (bits x 535 530 < pools) &&
  decide (bits x 575 573 = 0)

/-- The context of a record, its registers apart. A context that was WAITING issues its instruction afresh (R43). The
barrier of a pending result comes from its own block; 128 stands for none named (log entry 11). -/
def ctxOf (x : Nat) (regs : Sparse Word) : Ctx :=
  let w (lo : Nat) : Word := BitVec.ofNat 64 (bits x (lo + 63) lo)
  let b (i : Nat) : Bool := decide (bits x i i = 1)
  { Ctx.reset with
    mode := match bits x 519 512 with
      | 0 => .free
      | 3 => .halted
      | _ => .ready
    regs := regs, pc := w 0, npc := w 64, nnpc := w 128, nul0 := b 520, nul1 := b 521, sl0 := b 522, sl1 := b 523,
    fresh := b 449, xpc := w 192, xnpc := w 256, xnnpc := w 320,
    xnul := BitVec.ofNat 5 (bits x 527 524 + 16 * bits x 448 448), tl := b 528, chbind := w 384,
    poolSel := BitVec.ofNat 6 (bits x 535 530), timerPend := b 529,
    barResult := if b 579 then
        some { bar := 128, flags := BitVec.ofNat 11 (bits x 578 568), vote := BitVec.ofNat 32 (bits x 567 536) }
      else none }

/-- LAUNCH of the core record (R350). -/
def Core.launchField (c : Core) : Nat :=
  match c.unit with
  | none => 2 ^ 64 - 1
  | some u =>
    match u.launch with
    | none => 2 ^ 63
    | some (i, g) => i + g.toNat * 2 ^ 12

/-- The core record (R350). -/
def Core.image (c : Core) : Nat :=
  c.late.length * 2 ^ 368 + c.fab.claim.toNat * 2 ^ 352 + c.units % 256 * 2 ^ 344 + c.launchField * 2 ^ 256 +
  c.seq.toNat * 2 ^ 192 + c.share.toNat * 2 ^ 128 + c.fstat.toNat * 2 ^ 64 + c.fmode.toNat

/-- The field rules of R350 and of the registers it copies (R302 to R304). -/
def coreOk (x : Nat) : Bool :=
  let l := bits x 319 256
  decide (bits x 1023 384 = 0) && decide (bits x 343 320 = 0) && decide (bits x 255 208 = 0) &&
  decide (1 ≤ bits x 191 128) && decide (bits x 191 128 ≤ 8) && decide (bits x 127 75 = 0) && decide (bits x 71 69 = 0) &&
  !fmodeBad (bits x 63 0) && (decide (l < 2 ^ 32) || decide (l = 2 ^ 63) || decide (l = 2 ^ 64 - 1))

/-- The late faults that a core's LATEP counts: those that their own block has named, then the faulted entries with the
highest sequence numbers, whose INFO and FADDR are free values (log entry 11). -/
def Core.lateOf (c : Core) (n draws : Nat) : List LatePend :=
  let fill (e : DEntry) (l : LatePend) : LatePend :=
    { l with code := e.fault, addr := e.addr, queue := if keepsEffect e.fault then none else queueOf e.word }
  let open_ (e : DEntry) : Bool := e.st == .faulted && e.fault != 0x0041
  let named := (c.late.filter fun l => (c.entry l.seq).seq == l.seq && open_ (c.entry l.seq)).map fun l => fill (c.entry l.seq) l
  let back := ((upTo 64).map fun i => c.entry (c.seq - 1 - BitVec.ofNat 16 i)).filter fun e =>
    open_ e && !(named.any fun l => l.seq == e.seq)
  (named ++ back.zipIdx.map fun e =>
    fill e.1 { seq := e.1.seq, code := 0, info := Config.freeWord (draws + 2 * e.2),
               faddr := Config.freeWord (draws + 2 * e.2 + 1), addr := 0, queue := none }).take n

/-- The core record loads after the queues and the dispatch ring: what they decide by is found (R335, R344). -/
def State.loadCore (s : State) (core x : Nat) : State :=
  let units := 256 + bits x 351 344
  let l := bits x 319 256
  let runs := decide (l ≠ 2 ^ 64 - 1)
  let launch : LaunchId := if l < 2 ^ 32 then some (l % 4096, BitVec.ofNat 20 (l / 4096)) else none
  let n0 := s.draws
  let s := s.modCore core fun c =>
    let c := { c with
      fmode := BitVec.ofNat 64 (bits x 63 0), fstat := BitVec.ofNat 11 (bits x 127 64), share := BitVec.ofNat 4 (bits x 191 128),
      seq := BitVec.ofNat 16 (bits x 255 192), units := units
      unit := if runs then some { launch := launch, tag := 0, flagMask := 0, trap := true, stopped := false } else none
      dring := c.dring.map fun (e : Nat × DEntry) =>
        let u := units - (units + 256 - e.2.unit) % 256
        (e.1, { e.2 with unit := u, inUnit := runs && decide (u = units), launch := if u = units then launch else none }) }
    let unitOf (q : QEntry) : Nat := if q.sys then units - runs.toNat else (c.entry q.seq).unit
    let fix (qs : List QEntry) : List QEntry := qs.map fun q => { q with unit := unitOf q }
    let late := c.lateOf (bits x 383 368) n0
    let cut (v : Bool) : Bool := late.any fun e => e.queue == some v
    { c with
      vq := fix c.vq, ru := fix c.ru, fq := fix c.fq
      copies := c.copies.map fun (r : CopyReq) => { r with unit := (c.entry r.seq).unit }
      late := late, flush := cut true, flushF := cut false
      halted := c.ctxs.any fun x => x.2.mode == .halted
      fab := { c.fab with claim := BitVec.ofNat 16 (bits x 367 352) } }
  { s with draws := s.draws + 2 * bits x 383 368 }

/-! ### The blocks of a core -/

/-- A vector register as a number. -/
def lanesNat (x : Lanes) : Nat := x.toList.foldr (fun l n => n * 2 ^ 32 + l.toNat) 0
/-- A number as a vector register. -/
def natLanes (n : Nat) : Lanes := Vector.ofFn fun i => BitVec.ofNat 32 (n / 2 ^ (32 * i.val))

/-- The dispatch-ring entry of 128 bits (R335); unit and launch are found when the core record loads. -/
def dentryOf (x : Nat) : DEntry :=
  { addr := BitVec.ofNat 64 (bits x 127 64), seq := BitVec.ofNat 16 (bits x 63 48), word := BitVec.ofNat 16 (bits x 47 32),
    ctx := bits x 31 28
    st := match bits x 27 26 with
      | 0 => .empty
      | 1 => .inFlight
      | 2 => .completed
      | _ => .faulted
    unit := bits x 23 16, fault := BitVec.ofNat 16 (bits x 15 0), launch := none, inUnit := false }

/-- The field rules of a dispatch-ring entry (R335): CTX names a context, and only a faulted entry has a fault. -/
def dentryOk (x : Nat) : Bool :=
  decide (bits x 25 24 = 0) && decide (bits x 31 28 ≤ 10) && (decide (bits x 15 0 = 0) || decide (bits x 27 26 = 3))

/-- A ring handle of 256 bits (R268); its translation is found afterwards. -/
def ringOf (x : Nat) : Ring :=
  { base := BitVec.ofNat 64 (bits x 255 192), runs := [], fill := BitVec.ofNat 32 (bits x 191 160),
    drain := BitVec.ofNat 32 (bits x 159 128), valid := decide (bits x 16 16 = 1), logSize := BitVec.ofNat 8 (bits x 15 8),
    logSlots := BitVec.ofNat 8 (bits x 7 0) }

/-- The field rules of a ring handle (R268). -/
def ringOk (x : Nat) : Bool :=
  decide (bits x 127 17 = 0) &&
  (decide (bits x 16 16 = 0) || (decide (5 ≤ bits x 15 8) && decide (bits x 15 8 ≤ 16) && decide (bits x 7 0 ≤ 8)))

/-- STAGE of a copy in its record. -/
def CopyStage.num : CopyStage → Nat
  | .queued => 0 | .moving => 1 | .ended => 2 | .posting => 3

/-- A copy request as 64 bytes (R343), with a window check that failed at dispatch (log entry 130). -/
def CopyReq.image (r : CopyReq) : Nat :=
  let early := r.early.getD (0, 0)
  2 ^ 511 + r.done * 2 ^ 448 + r.fault.toNat * 2 ^ 432 + r.down.toNat * 2 ^ 425 + r.stage.num * 2 ^ 423 + r.ctx * 2 ^ 419 +
  r.ch.toNat * 2 ^ 417 + r.seq.toNat * 2 ^ 400 + early.1.toNat * 2 ^ 384 + early.2.toNat * 2 ^ 320 + r.id * 2 ^ 256 +
  r.lw.toNat * 2 ^ 128 + r.src.toNat * 2 ^ 64 + r.dst.toNat

/-- The copy request of a record: one that was moving goes on from its next chunk with its translation made anew. -/
def copyOf (x : Nat) : CopyReq :=
  { early := if bits x 399 384 = 0 then none else some (BitVec.ofNat 16 (bits x 399 384), BitVec.ofNat 64 (bits x 383 320))
    buf := [], whole := false, id := bits x 319 256, ch := BitVec.ofNat 2 (bits x 418 417), dst := BitVec.ofNat 64 (bits x 63 0),
    src := BitVec.ofNat 64 (bits x 127 64), lw := BitVec.ofNat 64 (bits x 191 128), seq := BitVec.ofNat 16 (bits x 415 400),
    ctx := bits x 422 419, unit := 0
    stage := match bits x 424 423 with
      | 2 => .ended
      | 3 => .posting
      | _ => .queued
    down := decide (bits x 425 425 = 1), done := bits x 495 448, srcRuns := [], dstRuns := [],
    fault := BitVec.ofNat 16 (bits x 447 432) }

/-- The rules of a copy's record. -/
def copyOk (x : Nat) : Bool :=
  decide (bits x 511 496 = 2 ^ 15) && decide (bits x 431 426 = 0) && decide (bits x 416 416 = 0) &&
  decide (bits x 255 192 = 0)

/-- Words of an endpoint's first message that have been popped. -/
def Endpoint.poppedWords (e : Endpoint) : Nat := e.words - (e.msgs.headD []).length

/-- The serial number of the next collective that a rank starts (R400). -/
def State.collSerial (s : State) (part group rank : Nat) : BitVec 32 :=
  Sparse.get 0 (Sparse.get Group.reset (s.getPart part).groups group).serials rank

/-- The number that an endpoint's record holds: of the channel's next message (R397), or of its rank's next collective
(R404). -/
def State.epNumber (s : State) (e : Endpoint) : Nat :=
  match e.peer with
  | .exchange part group rank => (s.collSerial part group rank).toNat
  | _ => e.seqno.toNat

/-- What an endpoint's record says of the collective that its rank has pending: that there is one, whether its unit lives, its
launch and the low bits of its unit (R404). -/
def State.collBits (s : State) (e : Endpoint) : Nat :=
  match e.peer with
  | .exchange part group rank =>
    if !e.send then 0
    else
      match (Sparse.get Group.reset (s.getPart part).groups group).pending.find? fun r => r.rank == rank with
      | none => 0
      | some r =>
        (match r.launch with | none => 0 | some (i, g) => g.toNat * 2 ^ 107 + 2 ^ 96 + i * 2 ^ 16) +
        r.unit % 256 * 2 ^ 99 + 2 ^ 98 + r.live.toNat * 2 ^ 97
  | _ => e.unacked.toNat * 2 ^ 96

/-- An endpoint as 16 bytes; cores by their index. A message that arrived ahead of its turn is not acknowledged, so its
sender sends it again (log entry 11). -/
def State.epImage (s : State) (e : Endpoint) : Nat :=
  let (kind, peer) :=
    match e.peer with
    | .core c ep => (0, s.indexOf c * 64 + ep)
    | .module _ chan _ _ _ => (1, chan)
    | .exchange _ group rank => (2, group * 256 + rank)
  if !e.declared then 0
  else
    s.collBits e + s.epNumber e * 2 ^ 64 + peer * 2 ^ 43 + (if e.msgs.isEmpty then 0 else e.poppedWords) * 2 ^ 38 +
    e.msgs.length * 2 ^ 33 + e.grants * 2 ^ 28 + e.launch * 2 ^ 16 + e.haltedBit.toNat * 2 ^ 15 + e.byXchan.toNat * 2 ^ 14 +
    e.live.toNat * 2 ^ 13 + kind * 2 ^ 11 + (e.slots - 1) * 2 ^ 7 + (e.words - 1) * 2 ^ 2 + e.send.toNat * 2 + 1

/-- The endpoint of a record. A peer module is the one that the module already has declared for the channel. -/
def State.epOf (s : State) (part core ep x : Nat) : Endpoint :=
  let p := bits x 58 43
  let here := s.getEp core ep
  let peer : EpPeer :=
    match bits x 12 11 with
    | 0 => .core (s.coreAt part (p / 64)) (p % 64)
    | 1 =>
      match here.peer with
      | .module q c m pc r => if c = p then .module q c m pc r else .module part p 0 0 0
      | _ => .module part p 0 0 0
    | _ => .exchange part (p / 256) (p % 256)
  let words := bits x 6 2 + 1
  let n := bits x 37 33
  { declared := true, send := decide (bits x 1 1 = 1), words := words, slots := bits x 10 7 + 1, peer := peer,
    live := decide (bits x 13 13 = 1), byXchan := decide (bits x 14 14 = 1), launch := bits x 27 16,
    grants := bits x 32 28
    msgs := (upTo n).map fun i => List.replicate (if i = 0 then words - bits x 42 38 else words) 0
    early := [], seqno := BitVec.ofNat 32 (bits x 95 64),
    unacked := if bits x 12 11 = 2 then 0#11 else BitVec.ofNat 11 (bits x 106 96), haltedBit := decide (bits x 15 15 = 1) }

/-- The rank of a sending endpoint numbers its collectives on from its record, and has the one pending that the record says,
where the group is declared (R404). Its words and its unit are found once the slots and the core are there. -/
def State.loadRank (s : State) (core x : Nat) (e : Endpoint) : State :=
  match e.peer with
  | .exchange part group rank =>
    if e.send && Sparse.has (s.getPart part).groups group then
      let r : CollReq :=
        { rank := rank, serial := e.seqno - 1, words := [], core := core, unit := bits x 106 99,
          launch := if bits x 96 96 = 1 then some (bits x 27 16, BitVec.ofNat 20 (bits x 126 107)) else none
          live := decide (bits x 97 97 = 1), ended := none }
      s.modPart part fun p =>
        let g := Sparse.get Group.reset p.groups group
        let g := { g with serials := g.serials.set rank e.seqno }
        { p with groups := p.groups.set group (if bits x 98 98 = 1 then { g with pending := g.pending ++ [r] } else g) }
    else s
  | _ => s

/-- The receive-slot buffer. -/
def Core.slotMem (c : Core) : Memory :=
  let put (m : Memory) (x : Nat × Endpoint) : Memory :=
    x.2.msgs.zipIdx.foldl (fun (m : Memory) y =>
      let skip := x.2.words - y.1.length
      Memory.putAll m (c.slotAt x.1 + 8 * (x.2.words * y.2 + skip)) (y.1.flatMap fun w => bytesOf 8 w.toNat)) m
  Memory.slice (c.eps.foldl put []) 0 0x2000

/-- The messages of the endpoints from the receive-slot buffer. -/
def Core.loadSlots (c : Core) (m : Memory) : Core :=
  { c with eps := c.eps.map fun (x : Nat × Endpoint) =>
      (x.1, { x.2 with msgs := x.2.msgs.zipIdx.map fun (y : List Word × Nat) =>
        let skip := x.2.words - y.1.length
        (upTo y.1.length).map fun i => BitVec.ofNat 64 (m.num (c.slotAt x.1 + 8 * (x.2.words * y.2 + skip + i)) 8) }) }

/-- The slots that the launch engine has reserved at a core and not yet published, in order (R98). -/
def State.reservedAt (s : State) (core : Nat) : List Nat :=
  ((s.getPart (s.partOf core)).held.filter fun d => d.core == core && d.placed).map fun d => d.k.toNat

/-- Bits of a predicate. -/
def bitsWhere (n : Nat) (f : Nat → Bool) : Nat := ((upTo n).map fun i => (f i).toNat * 2 ^ i).foldl Nat.add 0

/-- The port block of a core (R346): the port registers, the counts of the event queue and inbox, then what the model adds:
from bit 832 on, which of the counts after the first reserved one are reserved (log entry 11). -/
def State.portImage (s : State) (core : Nat) : Nat :=
  let c := s.getCore core
  let ks := s.reservedAt core
  let mine := c.job == (s.getPart (s.partOf core)).jobs
  natOf (([c.port.tail.toNat, c.port.head.toNat, c.port.resv.toNat, c.port.stat, c.port.traceCount.toNat, c.eventCount,
    c.events.length, c.port.marks.toNat, c.port.seq.toNat, mine.toNat, ks.headD 0, c.pass.toNat,
    c.last + c.copyTurn.toNat * 256] : List Nat).flatMap (bytesOf 8)) +
  bitsWhere 1216 (fun i => ks.contains (ks.headD 0 + i)) * 2 ^ 832

/-- The deliveries to a core that hold a slot take their counts, in order; one whose count the image has no place for takes
the next. -/
def giveSlots (core : Nat) : List Nat → Nat → List Delivery → List Delivery
  | _, _, [] => []
  | ks, n, d :: ds =>
    if d.core = core ∧ d.placed then
      { d with k := BitVec.ofNat 64 (ks.headD n) } :: giveSlots core ks.tail (ks.headD n + 1) ds
    else d :: giveSlots core ks n ds

/-- The rules of a port block: PORTSTAT (R96), and an event queue of at most 256 records (R290). -/
def portBlockOk (x : Nat) : Bool :=
  decide (bits x 255 194 = 0) && decide (bits x 447 384 ≤ 256) && decide (bits x 639 576 ≤ 1)

/-- The port block is loaded, after the event queue and the held deliveries. The trace ring restarts empty (R344). -/
def State.loadPort (s : State) (core x : Nat) : State :=
  let w (i : Nat) : Nat := bits x (64 * i + 63) (64 * i)
  let part := s.partOf core
  let jobs := (s.getPart part).jobs
  let ks := ((upTo 1216).filter fun i => decide (bits x (832 + i) (832 + i) = 1)).map fun i => w 10 + i
  (s.modCore core fun c =>
    { c with
      port := { c.port with
        tail := BitVec.ofNat 64 (w 0), head := BitVec.ofNat 64 (w 1), resv := BitVec.ofNat 64 (w 2),
        ovr := decide (bits (w 3) 0 0 = 1), wrap := true, traceCount := BitVec.ofNat 64 (w 4),
        marks := BitVec.ofNat 64 (w 7), seq := BitVec.ofNat 20 (w 8), trace := [] }
      eventCount := w 5
      events := (upTo (min (w 6) 256)).map fun i =>
        let n := w 5 - w 6 + i
        ({ n := n, bits := ((c.events.find? fun e => e.n == n % 256).map fun e => e.bits).getD 0 } : EventRec)
      job := if w 9 = 1 then jobs else jobs - 1
      pass := BitVec.ofNat 32 (w 11), last := w 12 % 256, copyTurn := BitVec.ofNat 2 (w 12 / 256) }).modPart part fun p =>
    { p with held := giveSlots core ks (w 2) p.held }

/-- The 16 bytes of a slot of the event queue. -/
def Core.eventSlot (c : Core) (i : Nat) : Nat :=
  ((c.events.find? fun e => e.n % 256 == i).map fun e => e.bits.toNat).getD 0

/-- The blocks of a core (R346), in the order in which a restore takes them. -/
def coreBlocks (base core part pools : Nat) : List Block :=
  let reg (f : Core → Nat) (s : State) : Nat := f (s.getCore core)
  let any (_ _ : Nat) : Bool := true
  let mod (f : Core → Core) (s : State) : State := s.modCore core f
  [.raw base 0x40000 (fun s => (s.getCore core).scratch) fun m => mod fun c => { c with scratch := m },
   .array (base + 0x40000) 512 32 (fun s i => lanesNat ((s.getCore core).getV i)) (fun i x => mod fun c => c.setV i (natLanes x))
     any,
   .array (base + 0x44000) 16 8 (fun s i => ((s.getCore core).getK i).toNat) (fun i x => mod fun c => c.setK i (BitVec.ofNat 128 x))
     any,
   .array (base + 0x44100) 8 352 (fun s i => (Sparse.get (0 : Word) (s.getCtx core (i / 32)).regs (i % 32)).toNat)
     (fun i x s => s.modCtx core (i / 32) fun c => { c with regs := c.regs.set (i % 32) (BitVec.ofNat 64 x) })
     fun i x => decide (i % 32 ≠ 0) || decide (x = 0)] ++
  ((upTo 11).map fun k =>
    .num (base + 0x44C00 + 0x80 * k) 128 (fun s => (s.getCtx core k).image)
      (fun x s => s.modCtx core k fun c => ctxOf x c.regs) (ctxOk pools k)) ++
  [.array (base + 0x45200) 32 16 (fun s i => ((s.getCore core).getRing (BitVec.ofNat 4 i)).bits)
     (fun i x s => s.modRing core (BitVec.ofNat 4 i) fun _ => ringOf x) fun _ => ringOk,
   .array (base + 0x46000) 16 256 (fun s i => (s.getCore core).eventSlot i)
     (fun i x => mod fun c => { c with events := c.events ++ [{ n := i, bits := BitVec.ofNat 128 x }] }) any,
   .num (base + 0x45400) 0x100 (fun s => s.portImage core) (fun x s => s.loadPort core x) portBlockOk,
   .raw (base + 0x47000) 0x1000 (fun s => (s.getCore core).port.inbox)
     fun m => mod fun c => { c with port := { c.port with inbox := m } },
   .array (base + 0x48000) 16 64 (fun s i => (Sparse.get DEntry.reset (s.getCore core).dring i).bits)
     (fun i x => mod fun c => { c with dring := c.dring.set i (dentryOf x) }) fun _ => dentryOk,
   .list (base + 0x48400) 64 48
     (fun s => ((s.getCore core).ru.foldl (fun l q => insertSeq q l) (s.getCore core).vq).map QEntry.image)
     (fun xs => mod fun c =>
       let qs := xs.filterMap imageEntry
       { c with vq := qs.filter fun q => !q.ofRing, ru := qs.filter QEntry.ofRing }) queueOk,
   .array (base + 0x49000) 8 8
     (fun s i => Sparse.get 0 (if i % 2 = 0 then (s.getCore core).issued else (s.getCore core).completed) (i / 2))
     (fun i x => mod fun c =>
       if i % 2 = 0 then { c with issued := c.issued.set (i / 2) x } else { c with completed := c.completed.set (i / 2) x }) any,
   .list (base + 0x49040) 64 8 (fun s => (s.getCore core).copies.map CopyReq.image)
     (fun xs => mod fun c => { c with copies := xs.map copyOf }) copyOk,
   .list (base + 0x49400) 64 8 (fun s => (s.getCore core).fq.map QEntry.image)
     (fun xs => mod fun c => { c with fq := xs.filterMap imageEntry }) queueOk,
   { Block.array (base + 0x49600) 16 64 (fun s i => s.epImage (s.getEp core i)) (fun _ _ s => s)
       fun _ x => decide (x = 0) || (decide (x % 2 = 1) && decide (bits x 12 11 ≤ 2) && decide (bits x 63 59 = 0)) with
     load := fun m s => (upTo 64).foldl (fun s i =>
       let x := m.num (16 * i) 16
       if x = 0 then s.modCore core fun c => { c with eps := Sparse.del c.eps i }
       else
        let e := s.epOf part core i x
        (s.modEp core i fun _ => e).loadRank core x e) s },
   .raw (base + 0x4A000) 0x2000 (fun s => (s.getCore core).slotMem) fun m => mod fun c => c.loadSlots m,
   .num (base + 0x45180) 128 (reg Core.image) (fun x s => s.loadCore core x) coreOk]

/-! ### The blocks of a grove -/

/-- Array state (R346): ACTIVE, widths, ORDERED, standing requests, the last holder, then core and bank of each accepted
command. A lease that a switch ends counts its holder as the last (R343). -/
def Grove.stateNum (g : Grove) : Nat :=
  let tab (i : Nat) : Table := Sparse.get Table.reset g.tabs i
  let last := g.holder.getD g.last
  natOf ([BitVec.ofNat 8 g.active.toNat] ++ ((upTo 4).map fun i => BitVec.ofNat 8 (tab i).width) ++
    [BitVec.ofNat 8 (((upTo 4).map fun i => (tab i).ordered.toNat * 2 ^ i).foldl Nat.add 0), BitVec.ofNat 8 g.requests.toNat,
     BitVec.ofNat 8 last.val] ++ List.replicate 56 0 ++
    (g.accepted.map fun a => BitVec.ofNat 8 (a.core % 4 + 4 * a.bank.toNat)))

/-- The array state is loaded, after the tables and the accepted commands. -/
def Grove.loadState (g : Grove) (grove x : Nat) : Grove :=
  let byte (i : Nat) : Nat := bits x (8 * i + 7) (8 * i)
  { g with
    active := BitVec.ofNat 1 (byte 0)
    tabs := (upTo 4).foldl (fun (m : Sparse Table) i =>
      Sparse.set m i { Sparse.get Table.reset m i with width := byte (1 + i), ordered := decide (bits (byte 5) i i = 1) }) g.tabs
    requests := BitVec.ofNat 4 (byte 6), last := ⟨byte 7 % 4, Nat.mod_lt _ (by decide)⟩, holder := none, used := 0
    accepted := g.accepted.zipIdx.map fun (a : Accepted × Nat) =>
      { a.1 with core := 4 * grove + byte (64 + a.2) % 4, bank := BitVec.ofNat 1 (byte (64 + a.2) / 4) } }

/-- The rules of the array state: a table's width is one that mload.t may give it (R285). -/
def groveOk (x : Nat) : Bool :=
  decide (x < 2 ^ (8 * 96)) && decide (bits x 7 0 ≤ 1) &&
  ((upTo 4).all fun i => decide (1 ≤ bits x (15 + 8 * i) (8 + 8 * i)) && decide (bits x (15 + 8 * i) (8 + 8 * i) ≤ 8)) &&
  decide (bits x 47 44 = 0) && decide (bits x 55 52 = 0) && decide (bits x 63 56 ≤ 3) && decide (bits x 511 64 = 0)

/-- The blocks of a grove (R346). -/
def groveBlocks (base grove : Nat) : List Block :=
  let mod (f : Grove → Grove) (s : State) : State := s.modGrove grove f
  ((upTo 4).map fun t =>
    .raw (base + 0x10000 * t) 0x10000 (fun s => lanesMem (Sparse.get [] (s.getGrove grove).tiles t))
      fun m => mod fun g => { g with tiles := g.tiles.set t (memLanes m) }) ++
  ((upTo 2).map fun b =>
    .raw (base + 0x40000 + 0x18000 * b) 0x18000 (fun s => Sparse.get [] (s.getGrove grove).banks b)
      fun m => mod fun g => { g with banks := g.banks.set b m }) ++
  ((upTo 4).map fun t =>
    .raw (base + 0x70000 + 0x400 * t) 0x400 (fun s => lanesMem (Sparse.get Table.reset (s.getGrove grove).tabs t).entries)
      fun m => mod fun g => { g with tabs := g.tabs.set t { Table.reset with entries := memLanes m } }) ++
  [.list (base + 0x71100) 64 32 (fun s => (s.getGrove grove).accepted.map fun a => a.entry.image)
     (fun xs => mod fun g =>
       { g with accepted := (xs.filterMap imageEntry).map fun (q : QEntry) => ({ core := 0, entry := q, bank := 0, group := [] } : Accepted) }) queueOk,
   .num (base + 0x71000) 0x100 (fun s => (s.getGrove grove).stateNum) (fun x => mod fun g => g.loadState grove x) groveOk]

/-! ### The blocks of a die -/

/-- The operation of a barrier as a number (R44). -/
def voteNum : VoteOp → Nat
  | .or => 0 | .and => 1 | .max => 2

/-- A barrier's header (R346). -/
def Barrier.image (b : Barrier) : Nat :=
  b.arrivals.length * 2 ^ 192 + b.gen.toNat * 2 ^ 128 + voteNum b.op * 2 ^ 64 + b.count

/-- A recorded arrival in 16 bytes, its core by index. -/
def State.arrivalImage (s : State) (a : Arrival) : Nat :=
  2 ^ 127 + a.vote.toNat * 2 ^ 32 + a.flags.toNat * 2 ^ 16 + a.ctx * 2 ^ 12 + s.indexOf a.core

/-- The arrival of 16 bytes. -/
def State.arrivalOf (s : State) (part x : Nat) : Arrival :=
  { core := s.coreAt part (bits x 11 0), ctx := bits x 15 12, flags := BitVec.ofNat 11 (bits x 31 16),
    vote := BitVec.ofNat 32 (bits x 63 32) }

/-- A launch as a number. -/
def launchNum : LaunchId → Nat
  | none => 0
  | some (i, g) => 2 ^ 32 + g.toNat * 2 ^ 12 + i

/-- The launch of a number. -/
def launchOf (x : Nat) : LaunchId := if bits x 32 32 = 1 then some (bits x 11 0, BitVec.ofNat 20 (bits x 31 12)) else none

/-- A window piece in 128 bytes: its data in the upper half. -/
def State.pieceImage (s : State) (p : Piece) : Nat :=
  natOf p.bytes * 2 ^ 512 + launchNum p.launch * 2 ^ 192 + bitsWhere 64 (fun i => p.skip.contains i) * 2 ^ 128 + 2 ^ 127 +
  p.engine.toNat * 2 ^ 80 + p.bytes.length * 2 ^ 64 + p.off * 2 ^ 40 + s.indexOf p.dst * 2 ^ 28 + p.ctx * 2 ^ 20 +
  p.agent.toNat * 2 ^ 12 + (if p.src < 512 then s.indexOf p.src else p.src)

/-- The rules of a piece's record in a partition of `cores` cores. -/
def pieceOk (cores x : Nat) : Bool :=
  decide (bits x 127 127 = 1) && decide (bits x 126 81 = 0) && decide (bits x 511 225 = 0) && decide (bits x 39 28 < cores) &&
  decide (bits x 79 64 ≤ 64) && (decide (bits x 11 0 < cores) || decide (512 ≤ bits x 11 0))

/-- The window piece of a record. -/
def State.pieceOf (s : State) (part x : Nat) : Piece :=
  let src := bits x 11 0
  { src := if src < 512 then s.coreAt part src else src, agent := BitVec.ofNat 5 (bits x 19 12), ctx := bits x 27 20,
    dst := s.coreAt part (bits x 39 28), off := bits x 63 40, bytes := bytesOf (bits x 79 64) (bits x 1023 512),
    engine := decide (bits x 80 80 = 1), skip := (upTo 64).filter fun i => decide (bits x (128 + i) (128 + i) = 1)
    launch := launchOf (bits x 224 192) }

/-- A held delivery in 64 bytes: the task record, whose bits [63:56] of the word at 0x10 name the core of the die, and
whose bits [5:4] there say whether its slot is reserved, or written, or the record is a mark that waits at the port (log entry
11). -/
def Delivery.image (d : Delivery) : Nat := natOf d.bytes + (128 + d.core % 128) * 2 ^ 184 + d.stage * 2 ^ 132

/-- The held delivery of a record; the count of its slot comes with the port block. -/
def deliveryOf (die x : Nat) : Delivery :=
  { idx := bits x 127 116, core := 128 * die + bits x 190 184, stage := bits x 133 132, k := 0,
    bytes := bytesOf 64 (x - bits x 191 184 * 2 ^ 184 - bits x 133 132 * 2 ^ 132) }

/-- An integrator's codes in 40 bytes (R135). -/
def Integ.image (x : Integ) : Nat :=
  let inp (i : Nat) : Nat :=
    let y := Sparse.get Input.reset x.inputs i
    y.enabled.toNat * 2 ^ 30 + y.mult.toNat * 2 ^ 22 + y.source.toNat * 2 ^ 12 + y.coef.toNat
  natOf (bytesOf 8 (x.active.toNat * 2 ^ 32 + x.bias.toNat * 2 ^ 16 + x.init.toNat) ++
    (upTo 8).flatMap fun i => bytesOf 4 (inp i))

/-- The integrator of 40 bytes. -/
def integOf (x : Nat) : Integ :=
  { active := decide (bits x 32 32 = 1), bias := BitVec.ofNat 12 (bits x 27 16), init := BitVec.ofNat 14 (bits x 13 0)
    inputs := (upTo 8).map fun i =>
      let y := bits x (64 + 32 * i + 31) (64 + 32 * i)
      (i, { enabled := decide (bits y 30 30 = 1), mult := BitVec.ofNat 8 (bits y 29 22), source := BitVec.ofNat 10 (bits y 21 12),
            coef := BitVec.ofNat 12 (bits y 11 0) }) }

/-- A stand's first 24 bytes: the core that claims it, the parameters in the layout of afscale (R125, R295), and whether
a run was abandoned, or a replay had completed one (R135), with the run's duration (R127). -/
def State.standImage (s : State) (die st : Nat) : Nat :=
  match (s.getDie die).owner.find? fun o => o.1 == st with
  | none => 0
  | some o =>
    let f := (s.getCore o.2).fab
    let run := if f.status = .notStarted then 0 else if f.status = .settled ∧ f.codes.isEmpty then 2 else 1
    min f.duration 0xFFFFFFFF * 2 ^ 160 + run * 2 ^ 128 +
    (f.normq.toNat * 2 ^ 34 + f.timeout.toNat * 2 ^ 18 + f.window.toNat * 2 ^ 10 + f.thresh.toNat * 2 ^ 5 + f.tau.toNat) * 2 ^ 64 +
    s.indexOf o.2 + 1

/-- A claimed stand is loaded: the gang is configured as saved, and a run that was abandoned is CUT (R135). -/
def State.loadStand (s : State) (part die st x : Nat) : State :=
  let core := s.coreAt part (bits x 63 0 - 1)
  let w := bits x 127 64
  let s := s.modDie die fun d => { d with owner := d.owner.set st core }
  s.modCore core fun c =>
    { c with fab := { c.fab with
        normq := BitVec.ofNat 4 (bits w 37 34), timeout := BitVec.ofNat 16 (bits w 33 18), window := BitVec.ofNat 8 (bits w 17 10),
        thresh := BitVec.ofNat 5 (bits w 9 5), tau := BitVec.ofNat 2 (bits w 1 0), duration := bits x 191 160
        status := match bits x 159 128 with
          | 0 => .notStarted
          | 1 => .cut
          | _ => .settled } }

/-- The blocks of die `n` of a partition (R346). -/
def dieBlocks (n die part cores pools : Nat) : List Block :=
  let base := 0x111000 + 0x3550000 * n
  let bar (b : Nat) (s : State) : Barrier := Sparse.get Barrier.reset (s.getDie die).barriers b
  let setBar (b : Nat) (f : Barrier → Barrier) (s : State) : State :=
    s.modDie die fun d => { d with barriers := d.barriers.set b (f (Sparse.get Barrier.reset d.barriers b)) }
  ((upTo 32).flatMap fun b =>
    [.num (base + 0x2100 * b) 64 (fun s => (bar b s).image)
       (fun x => setBar b fun y =>
         { y with count := bits x 63 0, op := if bits x 127 64 = 0 then .or else if bits x 127 64 = 1 then .and else .max,
                  gen := BitVec.ofNat 32 (bits x 191 128) })
       fun x => decide (bits x 63 0 ≤ 512) && decide (bits x 127 64 ≤ 2) && decide (bits x 191 160 = 0) && decide (bits x 511 192 ≤ 512),
     .list (base + 0x2100 * b + 0x40) 16 512 (fun s => (bar b s).arrivals.map s.arrivalImage)
       (fun xs s => setBar b (fun y => { y with arrivals := xs.map (s.arrivalOf part) }) s)
       fun x => decide (bits x 127 64 = 2 ^ 63) && decide (bits x 31 27 = 0) && decide (bits x 15 12 ≤ 10) && decide (bits x 11 0 < cores)]) ++
  [.list (base + 0x80000) 128 2048 (fun s => (s.pieces.filter fun p => dieOf p.dst == die).map s.pieceImage)
     (fun xs s => { s with pieces := s.pieces ++ xs.map (s.pieceOf part) })
     (pieceOk cores),
   .list (base + 0xC0000) 64 4096 (fun s => ((s.getPart part).held.filter fun d => dieOf d.core == die).map Delivery.image)
     (fun xs s => s.modPart part fun p => { p with held := p.held ++ xs.map (deliveryOf die) })
     fun x => decide (bits x 191 191 = 1)] ++
  ((upTo 16).flatMap fun st =>
    let integ (s : State) (j : Nat) : Integ := Sparse.get Integ.reset (Sparse.get [] (s.getDie die).stands st) j
    [.num (base + 0x100000 + 0x1000 * st) 24 (fun s => s.standImage die st)
       (fun x s => if x = 0 then s else s.loadStand part die st x)
       fun x => decide (bits x 63 0 ≤ cores) && decide (bits x 127 102 = 0) && decide (bits x 159 128 ≤ 2),
     .array (base + 0x100000 + 0x1000 * st + 0x100) 40 64 (fun s j => (integ s j).image)
       (fun j x s => s.modDie die fun d =>
         { d with stands := Sparse.set d.stands st (Sparse.set (Sparse.get [] d.stands st) j (integOf x)) })
       fun _ x => decide (bits x 63 33 = 0) && decide (bits x 31 28 = 0) && decide (bits x 15 14 = 0)]) ++
  (upTo 32).flatMap fun g =>
    groveBlocks (base + 0x110000 + 0x1A2000 * g) (32 * die + g) ++
    (upTo 4).flatMap fun c => coreBlocks (base + 0x110000 + 0x1A2000 * g + 0x72000 + 0x4C000 * c) (128 * die + 4 * g + c) part pools

/-! ### Partition control and the backlog -/

/-- An event of the graph engine in 16 bytes. A put of the engine that waits for a place has kind 5 (log entry 11). -/
def GraphEvent.image : GraphEvent → Nat
  | .token slot node => 1 * 2 ^ 120 + slot * 2 ^ 32 + node
  | .provisional tag => 2 * 2 ^ 120 + tag.toNat
  | .confirm tag => 3 * 2 ^ 120 + tag.toNat
  | .fault tag code => 4 * 2 ^ 120 + code.toNat * 2 ^ 64 + tag.toNat

/-- The event of 16 bytes. -/
def eventOf (x : Nat) : GraphEvent :=
  let tag := BitVec.ofNat 64 (bits x 63 0)
  match bits x 127 120 with
  | 1 => .token (bits x 63 32) (bits x 31 0)
  | 2 => .provisional tag
  | 3 => .confirm tag
  | _ => .fault tag (BitVec.ofNat 16 (bits x 79 64))

/-- A phase in 16 bytes: its entry (R380), then whether it is the job's and whether it was cancelled. -/
def Job.phaseImage (j : Job) (p : Nat) : Nat :=
  let x := j.phase p
  if Sparse.has j.phases p then
    2 ^ 64 + x.cancel.toNat * 2 ^ 65 + x.signal.toNat * 2 ^ 48 + x.state * 2 ^ 46 + x.graphs
  else 0

/-- The phase of 16 bytes. -/
def phaseOf (x : Nat) : Phase :=
  { state := bits x 47 46, signal := BitVec.ofNat 16 (bits x 63 48), graphs := bits x 31 0, cancel := decide (bits x 65 65 = 1) }

/-- BOUND and LIMIT of a pool of `n` shards are ones that a cput may write (R306). -/
def poolOk (n x : Nat) : Bool :=
  decide (x < 2 ^ 32) && decide (bits x 15 0 ≠ 0) && !(decide (2 ≤ bits x 15 0) && decide (bits x 15 0 < n)) &&
  decide (64 ≤ bits x 31 16)

/-- The record of a pending late fault: its core's index, sequence number, INFO and FADDR (log entry 11). -/
def State.lateImages (s : State) (part cores : Nat) : List Nat :=
  (upTo cores).flatMap fun i => (s.getCore (s.coreAt part i)).late.map fun l =>
    2 ^ 255 + i * 2 ^ 192 + l.seq.toNat * 2 ^ 128 + l.faddr.toNat * 2 ^ 64 + l.info.toNat

/-- The late fault of a record, before its dispatch-ring entry gives it the rest. -/
def lateOfRecord (x : Nat) : LatePend :=
  { seq := BitVec.ofNat 16 (bits x 143 128), code := 0, info := BitVec.ofNat 64 (bits x 63 0),
    faddr := BitVec.ofNat 64 (bits x 127 64), addr := 0, queue := none }

/-- The descriptors of pending collectives that the receive-slot buffers have no room for, in 64 bytes each: endpoint, core by its
index, and the four words (R404, log entry 11). -/
def State.strayImages (s : State) (part cores : Nat) : List Nat :=
  (upTo cores).flatMap fun i =>
    let core := s.coreAt part i
    ((s.getCore core).eps.filter fun e => e.2.declared && e.2.send && e.2.isExchange && !e.2.msgs.isEmpty &&
        !(s.getCore core).slotFits e.1).map fun e =>
      2 ^ 511 + e.1 * 2 ^ 320 + i * 2 ^ 288 + natOf (((e.2.msgs.headD []).take 4).flatMap fun w => bytesOf 8 w.toNat)

/-- The rules of such a record. -/
def strayOk (cores x : Nat) : Bool :=
  decide (bits x 511 326 = 2 ^ 185) && decide (bits x 319 288 < cores) && decide (bits x 287 256 = 0)

/-- The descriptors go back to their slots, and every pending collective takes its words from there, and its unit from its
core's count (R404). -/
def State.loadStrays (s : State) (part : Nat) (xs : List Nat) : State :=
  let s := xs.foldl (fun s x =>
    s.modEp (s.coreAt part (bits x 319 288)) (bits x 325 320) fun e =>
      { e with msgs := [(upTo 4).map fun i => BitVec.ofNat 64 (bits x (64 * i + 63) (64 * i))] }) s
  let fix (g : Group) (r : CollReq) : CollReq :=
    let c := s.getCore r.core
    let ep := (g.ranks[r.rank]?).elim 0 fun x => x.sendEp
    { r with words := (Sparse.get Endpoint.reset c.eps ep).msgs.headD [], unit := c.units - (c.units + 256 - r.unit) % 256 }
  s.modPart part fun p =>
    { p with groups := p.groups.map fun (g : Nat × Group) => (g.1, { g.2 with pending := g.2.pending.map (fix g.2) }) }

/-- The barriers of a core's pending results, one byte for each context: the barrier's number in the partition, plus 1. -/
def State.barImage (s : State) (core : Nat) : Nat :=
  natOf ((upTo 11).map fun k =>
    match (s.getCtx core k).barResult with
    | some r => if r.bar < 128 then BitVec.ofNat 8 (r.bar - 32 * lowDie s.cut (s.partOf core) + 1) else 0
    | none => 0)

/-- The pending results of a core take their barriers. -/
def State.loadBars (s : State) (core x : Nat) : State :=
  (upTo 11).foldl (fun s k =>
    let b := bits x (8 * k + 7) (8 * k)
    if b = 0 then s
    else s.modCtx core k fun c =>
      { c with barResult := c.barResult.map fun r => { r with bar := 32 * lowDie s.cut (s.partOf core) + b - 1 } }) s

/-- The blocks of partition control and backlog (R346): job, phase and pending-cancel state, pool parameters and take
counts, JOURNAL and its count, replay positions. -/
def partBlocks (part cores pools : Nat) : List Block :=
  let mod (f : Part → Part) (s : State) : State := s.modPart part f
  let pool (s : State) (i : Nat) : Pool := s.getPool part i
  [.num 0x1000 16 (fun s => (s.getPart part).job.cancel.toNat * 2 ^ 64 + (s.getPart part).job.record)
     (fun x => mod fun p => { p with job :=
       { p.job with state := bits x 63 62, left := bits x 39 32, signal := BitVec.ofNat 16 (bits x 31 16),
                    cancel := decide (bits x 64 64 = 1) } })
     fun x => decide (bits x 127 65 = 0) && decide (bits x 61 40 = 0) && decide (bits x 15 0 = 0),
   .array 0x1010 16 252 (fun s i => (s.getPart part).job.phaseImage i)
     (fun i x => mod fun p => { p with job := { p.job with phases := p.job.phases.set i (phaseOf x) } })
     fun _ x => decide (x = 0) || (decide (bits x 127 66 = 0) && decide (bits x 64 64 = 1) && decide (bits x 45 32 = 0)),
   .array 0x2000 32 64 (fun s i => if i < pools then (pool s i).limit.toNat * 2 ^ 16 + (pool s i).bound.toNat else 0)
     (fun i x s => s.modPool part i fun p => { p with bound := BitVec.ofNat 16 x, limit := BitVec.ofNat 16 (bits x 31 16) })
     (fun i x => if i < pools then poolOk (cores / 128) x else decide (x = 0)),
   .array 0x2800 8 64 (fun s i => if i < pools then (pool s i).takes else 0)
     (fun i x s => s.modPool part i fun p => { p with takes := x }) fun _ _ => true,
   .num 0x2A00 16 (fun s => (s.getPart part).jcount * 2 ^ 64 + (s.getPart part).journal.toNat)
     (fun x => mod fun p => { p with journal := BitVec.ofNat 64 x, jcount := bits x 127 64 })
     fun x => !journalBad (BitVec.ofNat 64 (bits x 63 0)),
   .array 0x2B00 8 512 (fun s i => if i < cores then (s.getCore (s.coreAt part i)).jpos else 0)
     (fun i x s => s.modCore (s.coreAt part i) fun c => { c with jpos := x }) fun i x => decide (i < cores) || decide (x = 0),
   .num 0x3B00 4 (fun s => (s.getPart part).gang.toNat) (fun x => mod fun p => { p with gang := BitVec.ofNat 32 x }) fun _ => true,
   .num 0x3B40 64 (fun s => bitsWhere cores fun i => (s.getCore (s.coreAt part i)).cancelPend)
     (fun x s => (upTo cores).foldl (fun s i => s.modCore (s.coreAt part i) fun c => { c with cancelPend := decide (bits x i i = 1) }) s)
     fun _ => true,
   .num 0x3C00 512 (fun s => bitsWhere 4096 fun i => (s.getLaunch part i).stopped)
     (fun x s => (upTo 4096).foldl (fun s i =>
       if bits x i i = 1 then s.modLaunch part i fun l => { l with stopped := true } else s) s) fun _ => true,
   .num 0x3E00 512 (fun s => bitsWhere 4096 fun i => (s.getGraph part i).cancel)
     (fun x s => (upTo 4096).foldl (fun s i =>
       if bits x i i = 1 then s.modGraph part i fun g => { g with cancel := true } else s) s) fun _ => true,
   .num 0x4000 512 (fun s => bitsWhere 4096 fun i => (s.getGraph part i).armed)
     (fun x s => (upTo 4096).foldl (fun s i =>
       if bits x i i = 1 then s.modGraph part i fun g => { g with armed := true } else s) s) fun _ => true,
   .num 0x4200 512 (fun s => bitsWhere 4096 fun i => (s.getGraph part i).counted)
     (fun x s => (upTo 4096).foldl (fun s i =>
       if bits x i i = 1 then s.modGraph part i fun g => { g with counted := true } else s) s) fun _ => true,
   .list 0x6800 32 1088 (fun s => s.lateImages part cores)
     (fun xs s => xs.foldl (fun s x => s.modCore (s.coreAt part (bits x 207 192)) fun c =>
       { c with late := c.late ++ [lateOfRecord x] }) s)
     fun x => decide (bits x 255 208 = 2 ^ 47) && decide (bits x 207 192 < cores) && decide (bits x 191 144 = 0),
   .list 0x11000 16 65536 (fun s => ((s.getPart part).backlog ++ (s.getPart part).overdue).map GraphEvent.image ++
       (((pool s 0).shard 0).pend.filter fun q => q.core == 512).map fun q => 5 * 2 ^ 120 + q.payload.toNat)
     (fun xs s => (mod (fun p =>
         let es := (xs.filter fun x => bits x 127 120 != 5).map eventOf
         { p with backlog := es, replays := es.length }) s).modPool part 0
       fun p => p.modShard 0 fun y =>
         { y with pend := y.pend ++ (xs.filter fun x => bits x 127 120 == 5).map fun (x : Nat) =>
             ({ key := 0, payload := BitVec.ofNat 64 (bits x 63 0), core := 512, ctx := 0, serial := 0 } : PendPut) })
     fun x => decide (1 ≤ bits x 127 120) && decide (bits x 127 120 ≤ 5)]

/-- The blocks of partition control that load once every core is there. -/
def lastBlocks (part cores : Nat) : List Block :=
  [.array 0x4800 16 512 (fun s i => if i < cores then s.barImage (s.coreAt part i) else 0)
     (fun i x s => s.loadBars (s.coreAt part i) x) fun i x => decide (x = 0) || (decide (i < cores) && decide (x < 2 ^ 88)),
   .list 0xF000 64 128 (fun s => s.strayImages part cores) (fun xs s => s.loadStrays part xs) (strayOk cores)]

/-- Every block of the image of a partition but the header, in the order of loading (R346). -/
def State.blocks (s : State) (part : Nat) : List Block :=
  partBlocks part s.coresPer s.poolsPer ++
  ((upTo s.k).flatMap fun n => dieBlocks n (lowDie s.cut part + n) part s.coresPer s.poolsPer) ++ lastBlocks part s.coresPer

/-- The size of an image of `k` dies (R346). -/
def imageSize (k : Nat) : Nat := 0x111000 + k * 0x3550000

/-- The header with DIGEST 0 (R348). -/
def imageHeader (k : Nat) (instant : Word) : Nat :=
  instant.toNat * 2 ^ 128 + imageSize k * 2 ^ 64 + k * 2 ^ 48 + 4 * 2 ^ 32 + 0x39444C56

/-- The image as the switch writes it, its DIGEST 0: every byte without content is 0. -/
def State.writeImage (s : State) (part base : Nat) (instant : Word) : State :=
  let t := { s with mem := Memory.clear s.mem base (base + imageSize s.k) }
  let t := (s.blocks part).foldl (fun t b =>
    { t with mem := ((b.save s).slice 0 b.len).foldl (fun m c => Memory.put m (base + b.off + c.1) c.2) t.mem }) t
  t.writeLlc base (bytesOf 64 (imageHeader s.k instant))

/-- The image at a base, addressed from 0. -/
def State.imageAt (s : State) (base : Nat) : Memory := s.mem.slice base (imageSize s.k)

/-- Every block is loaded in order. -/
def State.loadImage (s : State) (part : Nat) (m : Memory) : State :=
  (s.blocks part).foldl (fun s b => b.load (m.slice b.off b.len) s) s

/-- Every block keeps its rules, and no byte outside them has content (R346). -/
def State.imageOk (s : State) (part : Nat) (m : Memory) : Bool :=
  let bs := s.blocks part
  (bs.all fun b => b.ok (m.slice b.off b.len)) &&
  m.all fun c => decide (c.1 < 64) || bs.any fun b => decide (b.off ≤ c.1) && decide (c.1 < b.off + b.len)

end Sys2Proof.Machine
end

