-- ==== Sys2Proof/Machine/Switch.lean ====
section
/-! DEFINITION. Gang switch, image transfer and restore (R343, R344, R415 to R421). -/

namespace Sys2Proof.Machine

/-! ### The point that every engine reaches (R343) -/

/-- Waits of engine-bound instructions and of takes are withdrawn; the contexts stay WAITING and issue afresh on restore
(R43, R433). -/
def State.withdrawWaits (s : State) (core : Nat) : State := (upTo 11).foldl (fun s k => s.leaveWait core k) s

/-- A fabric run is abandoned, and so is a latch that is held; its afrun has completed, and the run's duration stays (R127,
R135). -/
def State.abandonRun (s : State) (core : Nat) : State :=
  let f := (s.getCore core).fab
  let s := if f.status = .running then s.complete core f.runSeq else s
  if f.status = .running ∨ !f.codes.isEmpty then
    s.modCore core fun c =>
      { c with fab := { c.fab with
          status := .cut, codes := []
          duration := if f.status = .running then (s.time - f.start).toNat else f.duration } }
  else s

/-- An afsamp whose journal entry is on its way completes; what else an instruction at the head of a queue has done so far it does
again after the restore (R112, R343). -/
def State.restHeads (s : State) (core : Nat) : State :=
  let c := s.getCore core
  let s :=
    match c.fwork, c.fq with
    | some (.entry v g), q :: _ =>
      match q.instr with
      | .afsamp d a _ =>
        let s := if (s.getCtx core 0).waitsFor q.seq then (s.on core 0).retire else s
        match (s.sampleWrite core q.ctx d a v g).fabEnd core q with
        | .did t => t
        | _ => s
      | _ => s
    | _, _ => s
  s.modCore core fun c => { c with vload := none, fwork := none }

/-- A copy stands within what it is to move whole: a chunk that it has begun to read, or, when no direction would do, the
rest of its source (R288, log entry 11). -/
def CopyReq.midway (r : CopyReq) : Bool := r.stage == .moving && (if r.whole then decide (0 < r.done) else !r.buf.isEmpty)

/-- A copy under way completes its current chunk, as far as its source is ready. -/
def State.restCopy (s : State) (core : Nat) (seq : BitVec 16) : Nat → State
  | 0 => s
  | n + 1 =>
    match (s.getCore core).copies.find? fun r => r.seq == seq && r.midway with
    | none => s
    | some r =>
      match s.copyGo core r with
      | some t => State.restCopy t core seq n
      | none => s

/-- The copies of a core complete their chunks; each goes on from its next chunk, with its checks made anew. -/
def State.restCopies (s : State) (core : Nat) : State :=
  let s := (s.getCore core).copies.foldl (fun s r => s.restCopy core r.seq (r.len / 64 + 65)) s
  s.modCore core fun c =>
    { c with copies := c.copies.map fun (r : CopyReq) =>
        if r.stage = .moving then { r with stage := .queued, srcRuns := [], dstRuns := [], buf := [], whole := false } else r }

/-- A core comes to rest: store buffer and cache maintenance drained, its copies at the end of a chunk, the run abandoned. -/
def State.restCore (s : State) (core : Nat) : State :=
  (((((s.restHeads core).withdrawWaits core).cmoDrain core).drainAll core).restCopies core).abandonRun core

/-- The matrix command in flight completes. -/
def State.restGrove (s : State) (grove : Nat) : State :=
  match (s.getGrove grove).accepted with
  | [] => s
  | a :: _ => (s.matrixRun a).modGrove grove fun g => { g with accepted := g.accepted.drop 1 }

/-- Puts and takes of a pool that are under way complete (R324). -/
def State.restPool (s : State) (part i : Nat) : State :=
  let p := s.getPool part i
  let s := p.shards.foldl (fun s x =>
    let mine := x.2.pend.filter fun q => q.core < 512
    let s := mine.foldl (fun s q => s.modPool part i fun p => p.insert s.time.toNat x.1 q.key q.payload) s
    s.modPool part i fun p => p.modShard x.1 fun y => { y with pend := y.pend.filter fun q => !decide (q.core < 512) }) s
  let s := p.arb.foldl (fun s r =>
    match (s.getPool part i).arbitrate with
    | some e => (s.modPool part i fun p => p.taken e).takeWrite r e.key e.payload
    | none => s.takeWrite r ones64 0) s
  s.modPool part i fun p => { p with arb := [], sweep := none }

/-- Inserts in insertion order (R74). -/
def insertOrder (e : Elem) : List Elem → List Elem
  | [] => [e]
  | x :: xs => if e.earlier x then e :: x :: xs else x :: insertOrder e xs

/-- The place of an element in its pool's store: key, payload, insertion order, stamp (R434, log entry 11). -/
def Elem.place (e : Elem) (n : Nat) : Nat :=
  2 ^ 255 + e.stamp % 2 ^ 63 * 2 ^ 192 + n * 2 ^ 128 + e.payload.toNat * 2 ^ 64 + e.key.toNat

/-- The base of a pool's store (R434). -/
def State.poolStore (s : State) (part i : Nat) : Nat :=
  let d := (s.getPart part).desc
  d.poolBase.toNat + 32 * d.poolCap.toNat * i

/-- A pool's elements are written to its store. -/
def State.savePool (s : State) (part i : Nat) : State :=
  let cap := (s.getPart part).desc.poolCap.toNat
  let base := s.poolStore part i
  let es := (s.getPool part i).present.foldr insertOrder []
  let s := { s with mem := Memory.clear s.mem base (base + 32 * cap) }
  (es.take cap).zipIdx.foldl (fun s e => s.writeLlc (base + 32 * e.2) (bytesOf 32 (e.1.place e.2))) s

/-- The trace rings go to the save area (R421). -/
def State.saveTrace (s : State) (part base : Nat) : State :=
  (upTo s.coresPer).foldl (fun s i =>
    let at_ := base + 0x10000 * i
    let s := { s with mem := Memory.clear s.mem at_ (at_ + 0x10000) }
    (s.getCore (s.coreAt part i)).port.trace.foldl (fun s e => s.writeLlc (at_ + 16 * e.1) (bytesOf 16 e.2.toNat)) s) s

/-- The pieces of the partition arrive, each sender's in order, as far as their ports admit them (R343): at a switch, and
from the drain buffers before any core issues. -/
def State.reinject (s : State) (part : Nat) : State :=
  (s.pieces.filter fun p => s.partOf p.dst == part).foldl (fun s p => s.arrive p.dst p.src) s

/-- What the drain buffers of a die have no place for is performed at its port, the oldest first, but for what a replay queue holds
(R422, log entry 11). -/
def State.spillPieces (s : State) (die : Nat) : State :=
  let mine := s.pieces.filter fun p => dieOf p.dst == die
  (mine.take (mine.length - 2048)).foldl (fun s p =>
    if s.inReplay p then ({ s with pieces := s.pieces.erase p }).perform p else s) s

/-- The pieces of the partition that have not arrived are in the drain buffers alone. -/
def State.dropPieces (s : State) (part : Nat) : State :=
  { s with pieces := s.pieces.filter fun p => s.partOf p.dst != part }

/-- The partition comes to rest (R343), and its L1 data and pools are in module memory (R417). -/
def State.rest (s : State) (part : Nat) : State :=
  let s := (s.coresOf part).foldl State.restCore s
  let s := (s.diesOf part).foldl (fun s d => (upTo 32).foldl (fun s g => s.restGrove (32 * d + g)) s) s
  let s := (s.diesOf part).foldl State.spillPieces (s.reinject part)
  let s := (upTo s.poolsPer).foldl (fun s i => s.restPool part i) s
  let s := (s.diesOf part).foldl State.flushDie s
  (upTo s.poolsPer).foldl (fun s i => s.savePool part i) s

/-- The command is an OWN that the module is to perform and has not. -/
def State.owes (s : State) : Instr → Bool
  | .own h first count o => decide (count ≠ 0) && (s.frontCheck h ownCmd).isNone && s.ownFits first count o
  | _ => false

/-- An OWN that has arrived and is not answered does its work, in its turn or behind a command that waits; what is left of it for
its turn is the answer, that of an OWN of no frames (R416). -/
def State.settleOwn (s : State) (conn : Nat) (e : BitVec 16 × Instr) : State :=
  match e.2 with
  | .own h first count o =>
    if s.owes e.2 then
      let (done, s) := s.ownWork first count o
      if done then
        s.modConn conn fun c => { c with early := c.early.map fun x => if x = e then (e.1, .own h first 0 o) else x }
      else s
    else s
  | _ => s

/-- Every OWN that has arrived is carried on with (R416). -/
def State.settleOwns (s : State) : State :=
  s.conns.foldl (fun s c => c.2.early.foldl (fun s e => s.settleOwn c.1 e) s) s

/-- Some OWN is not done. -/
def State.owesAny (s : State) : Bool := s.conns.any fun c => c.2.early.any fun e => s.owes e.2

/-- The longest stop-to-image time is a free value within the bound of R417 (R429, log entry 3). -/
def State.switchTime (s : State) : Nat := (Config.freeWord s.draws).toNat % 180001

/-- The partition stops, once: it comes to rest and is switched out (R343, R417, R418). -/
def State.stopPart (s : State) (part : Nat) (gang : BitVec 32) : State :=
  if (s.getPart part).out then s else ((s.modPart part fun p => { p with gang := gang }).rest part).modPart part fun p => { p with out := true }

/-- The image of a partition at rest is complete but for its DIGEST (R417, R421). -/
def State.takeImage (s : State) (part : Nat) (r : SwitchReq) : State :=
  let s := (s.saveTrace part r.trace.toNat).writeImage part r.image.toNat r.instant
  let s := (s.dropPieces part).modPart part fun p =>
    { p with switch := none, imaged := some r.image
             groups := p.groups.map fun g => (g.1, { g.2 with pending := [], serials := [] }) }
  let ns := s.switchTime
  s.drawn.count part fun t => { t with switches := satAdd 32 t.switches 1, swmaxns := Nat.max t.swmaxns ns }

/-- SWITCH_INSTANT (R343, R416, R417, R421): the partition stops; once every OWN is done, its image is written. -/
def execSwitchInstant (part : Nat) (s : State) : Result :=
  .next (match (s.getPart part).switch with
    | none => s
    | some r =>
      if s.time.toNat < r.instant.toNat then s
      else
        let s := (s.stopPart part r.gang).settleOwns
        if s.owesAny then s else (s.conns.map fun c => c.1).foldl State.nextHeld (s.takeImage part r))

/-- The digest of an image of `n` bytes, its DIGEST field taken as 0 (R348). -/
def State.imageDigest (s : State) (base n : Nat) : List Byte :=
  sha3 (Memory.getAll s.mem base 32 ++ List.replicate 32 0 ++ Memory.getAll s.mem (base + 64) (n - 64))

/-- DIGEST_WRITE (R418); commands that waited for it are performed. In a module that has FAILED it does not come (R425). -/
def execDigestWrite (part : Nat) (s : State) : Result :=
  .next (match (s.getPart part).imaged with
    | none => s
    | some b =>
      if s.tap.state = .failed then s
      else
        let s := s.writeLlc (b.toNat + 32) (s.imageDigest b.toNat (imageSize s.k))
        let s := s.modPart part fun p => { p with imaged := none }
        (s.conns.map fun c => c.1).foldl State.nextHeld s)

/-! ### SWITCH and IMGXFER (R415, R416, R419) -/

/-- The ranges of image and trace area are aligned and owned 0xFE (R415). -/
def State.rangesOk (s : State) (image trace : Word) : Bool :=
  decide (image.toNat % 4096 = 0) && s.owns 0xFE image.toNat (imageSize s.k) && s.owns 0xFE trace.toNat (0x10000 * s.coresPer)

/-- INSTANT is less than 2 ms ahead (R415). -/
def State.tooSoon (s : State) (instant : Word) : Bool := decide (instant.toNat < s.time.toNat + 2000000)

/-- A withdrawal comes early enough (R416). -/
def State.canWithdraw (s : State) (r : SwitchReq) : Bool := decide (s.time.toNat + 500000 < r.instant.toNat)

/-- SWITCH (R415, R416). -/
def execSwitch (h : Hdr) (at_ image trace : Word) (gang rsv : BitVec 32) (s : State) : Result :=
  s.ncp (.switch h at_ image trace gang rsv) h (toPart 0x30) fun s =>
    let part := h.part.toNat
    let p := s.getPart part
    if at_ = 0 then
      match p.switch with
      | none => ans s 0
      | some r => if s.canWithdraw r then ans (s.modPart part fun p => { p with switch := none }) 0 else ans s stBusy
    else if s.tooSoon at_ then ans s stBadField
    else if p.switch.isSome then ans s stBusy
    else if !s.sync then ans s stSync
    else if rsv ≠ 0 ∨ !s.rangesOk image trace then ans s stBadField
    else
      ans (s.modPart part fun p =>
        { p with switch := some { instant := at_, image := image, trace := trace, gang := gang } }) 0

/-- IMGXFER (R419): the range leaves over a port, and the answer waits until the peer has acknowledged every byte. -/
def execImgxfer (h : Hdr) (src len : Word) (peer : BitVec 32) (dst : Word) (route : BitVec 16) (s : State) : Result :=
  s.ncp (.imgxfer h src len peer dst route) h { toPart 0x32 with outOk := true } fun s =>
    let part := h.part.toNat
    match (s.getConn h.conn).acked with
    | some true => ans s 0
    | some false => waits s
    | none =>
      if len.toNat % 4096 ≠ 0 then ans s stBadField
      else if !s.reachable part src.toNat len.toNat then ans (s.logPart part 2 0 src.toNat 2) stBadField
      else
        match s.portFor route peer with
        | none => ans s stLinkDown
        | some n =>
          if s.imageOpen src.toNat len.toNat then waits s
          else waits ((s.send (.peerWrite n peer dst (Memory.getAll s.mem src.toNat len.toNat))).modConn h.conn fun c =>
            { c with acked := some false })

/-! ### RESTORE (R420) -/

/-- What the module finds when it checks an image (R420): 0, or the reason. -/
def State.checkImage (s : State) (part base : Nat) : Nat :=
  let h := natOf (Memory.getAll s.mem base 64)
  let size := bits h 127 64
  if bits h 47 32 ≠ 4 then 1
  else if Memory.getAll s.mem (base + 32) 32 ≠ s.imageDigest base (min size (imageSize 4)) then 2
  else if bits h 51 48 ≠ s.k ∨ size ≠ imageSize s.k then 3
  else if bits h 31 0 ≠ 0x39444C56 ∨ bits h 63 52 ≠ 0 ∨ bits h 255 192 ≠ 0 ∨ !s.imageOk part (s.imageAt base) then 4
  else 0

/-- The RESTORE of a partition that waits for DIGEST: its connection, its place there and its command. -/
def State.waitingRestore (s : State) (part : Nat) : Option (Nat × BitVec 16 × Hdr × Word) :=
  s.conns.findSome? fun c =>
    if !c.2.checks then none
    else
      c.2.early.findSome? fun e =>
        match e.2 with
        | .restore h _ _ at_ => if e.1 = c.2.next ∧ h.part.toNat = part then some (c.1, e.1, h, at_) else none
        | _ => none

/-- A RESTORE with INSTANT 0 (R420): it withdraws the accepted restore, or one that still waits for DIGEST, which is then
answered 0 as itself a withdrawal (log entry 149). -/
def State.withdrawRestore (s : State) (part : Nat) : Answer :=
  match (s.getPart part).restore, s.waitingRestore part with
  | some r, _ => if s.canWithdraw r then ans (s.modPart part fun p => { p with restore := none }) 0 else ans s stBusy
  | none, some (conn, seq, h, at_) =>
    if s.canWithdraw { instant := at_, image := 0, trace := 0, gang := 0 } then
      ans (s.modConn conn fun c =>
        { c with checks := false, early := c.early.map fun e => if e.1 = seq then (seq, .restore h 0 0 0) else e }) 0
    else ans s stBusy
  | none, none => ans s 0

/-- RESTORE (R420): the checks are made on arrival, or once DIGEST is written when they have to wait for it (R418), which
may be LATE. A refusal is logged (R430). -/
def execRestore (h : Hdr) (image trace at_ : Word) (s : State) : Result :=
  s.ncp (.restore h image trace at_) h { toPart 0x31 with outOk := true } fun s =>
    let part := h.part.toNat
    let p := s.getPart part
    let checks := (s.getConn h.conn).checks
    let refuse (st : Nat) : Answer := ans (s.logPart part 6 st image.toNat 0) st
    if at_ = 0 then s.withdrawRestore part
    else if checks && decide (at_.toNat ≤ s.time.toNat) then refuse 5
    else if !checks && s.tooSoon at_ then ans s stBadField
    else if s.runsUnit part ∨ p.switch.isSome ∨ p.restore.isSome then ans s stBusy
    else if !s.sync then ans s stSync
    else if !s.rangesOk image trace then ans s stBadField
    else if s.imageOpen image.toNat (imageSize s.k) then waits (s.modConn h.conn fun c => { c with checks := true })
    else
      let st := s.checkImage part image.toNat
      if st ≠ 0 then refuse st
      else
        ans (s.modPart part fun p =>
          { p with restore := some { instant := at_, image := image, trace := trace, gang := p.gang } }) 0

/-- Every core, grove and stand of the partition is cleared, and its next job's state is to come (R391, R420). A channel that
XCHAN has declared keeps its declaration, which names the peer module; a group of COLLGRP keeps its ranks. -/
def State.clearPart (s : State) (part : Nat) : State :=
  let s := (s.diesOf part).foldl State.flushDie s
  let mine (die : Nat) : Bool := partOfDie s.cut die == part
  let s := { s with
    cores := s.cores.map fun (c : Nat × Core) =>
      (c.1, if mine (dieOf c.1) then { Core.reset with eps := c.2.eps.filter fun (e : Nat × Endpoint) => e.2.byXchan } else c.2)
    groves := s.groves.filter fun g => !mine (g.1 / 32)
    dies := s.dies.map fun (d : Nat × Die) => (d.1, if mine d.1 then Die.reset else d.2)
    pieces := s.pieces.filter fun p => s.partOf p.dst != part }
  s.modPart part fun p =>
    { p with pools := [], launches := [], held := [], graphs := [], gtab := [], backlog := [], overdue := [], replays := 0
             job := Job.reset, jobs := p.jobs + 1
             groups := p.groups.map fun g => (g.1, { g.2 with pending := [], serials := [] }) }

/-- A pool's elements come back from its store, at the first shard (R83, R434). -/
def State.loadPool (s : State) (part i : Nat) : State :=
  let base := s.poolStore part i
  let es := (upTo (s.getPart part).desc.poolCap.toNat).filterMap fun j =>
    let x := natOf (Memory.getAll s.mem (base + 32 * j) 32)
    if bits x 255 255 = 1 then
      some ({ key := BitVec.ofNat 64 x, payload := BitVec.ofNat 64 (bits x 127 64), time := 0, shard := 0,
              ord := bits x 191 128, stamp := bits x 254 192 } : Elem)
    else none
  if es.isEmpty then s
  else s.modPool part i fun p => p.modShard 0 fun x => { x with elems := es }

/-- The translation of each valid ring of a core is made anew. -/
def State.loadRings (s : State) (core : Nat) : State :=
  (upTo 16).foldl (fun s i =>
    let h : HReg := BitVec.ofNat 4 i
    let r := (s.getCore core).getRing h
    let n := r.size * r.slots
    if !r.valid then s
    else
      match s.xlateRange core .atomic (n / 65536 + 2) r.base n with
      | .error _ => s
      | .ok (rs, s) => s.modRing core h fun r => { r with runs := rs.filterMap (scratchRun core) }) s

/-- The accepted commands of a core's grove read their group slots anew, each behind those that earlier ones are to drain
(R282, log entry 11). -/
def State.loadGroups (s : State) (grove : Nat) : State :=
  let read (done : List Accepted) (a : Accepted) : List Nat :=
    match a.entry.instr with
    | .mgrp _ _ _ gr =>
      let ahead := ((done.filter fun b => b.core == a.core).map fun b => b.takes gr).foldl Nat.add 0
      groupEntries (s.scratchRead a.core (((s.getCore a.core).getRing gr).drainSlot ahead) 64)
    | _ => []
  s.modGrove grove fun g =>
    { g with accepted := g.accepted.foldl (fun done a => done ++ [{ a with group := read done a }]) [] }

/-- The destination lines that a copy has still to write are the engine's (R108). -/
def State.loadOwned (s : State) (core : Nat) : State :=
  (s.getCore core).copies.foldl (fun s r =>
    if r.stage ≠ .queued then s
    else
      match s.copyChecks core r with
      | .error _ => s
      | .ok (_, dst, s) =>
        s.takeLines core r.seq (if r.down then sliceRuns dst 0 (r.len - r.done) else sliceRuns dst r.done (r.len - r.done))) s

/-- The fault that a context at trap level 1 handles is the one of its trap record (R330, R333). -/
def State.loadHandling (s : State) (core : Nat) : State :=
  (upTo 11).foldl (fun s k =>
    if !(s.getCtx core k).tl then s
    else
      match s.engRuns (s.partOf core) .read 2 ((s.on core k).recordVa + 8) 2 with
      | none => s
      | some rs =>
        let code := natOf (rs.flatMap fun r => Memory.getAll s.mem r.1 r.2)
        s.modCtx core k fun x => { x with handling := BitVec.ofNat 16 code }) s

/-- The state of a number (R376). -/
def nodeStateOf : Nat → NodeState
  | 0 => .idle | 1 => .armed | 2 => .ready | 3 => .running | 4 => .doneProvisional | 5 => .confirmed | 6 => .faulted
  | 7 => .cancelling | _ => .cancelled

/-- The bytes of a record that the graph or launch engine left in module memory, when it can be read. -/
def State.recordAt (s : State) (part : Nat) (va : Word) (n : Nat) : Option Nat :=
  (s.engRuns part .read (n / 65536 + 2) va n).map fun rs => natOf (rs.flatMap fun r => Memory.getAll s.mem r.1 r.2)

/-- A node with the fields that the graph engine had written back (R376). -/
def State.loadNode (s : State) (part : Nat) (va : Word) (n : Node) : Node :=
  match s.recordAt part (va + 54) 10 with
  | none => n
  | some x =>
    { n with fault := BitVec.ofNat 16 (bits x 15 0), state := nodeStateOf (bits x 27 24), level := BitVec.ofNat 2 (bits x 29 28),
             budget := BitVec.ofNat 8 (bits x 39 32), gen := BitVec.ofNat 20 (bits x 59 40), pending := bits x 79 60 }

/-- A graph of the graph table comes back from its records, which the graph engine has kept up (R73, R376, R377). A cancel that
drains still had a root when it has a cause, which CURROOT names (R71). -/
def State.loadGraph (s : State) (part slot : Nat) : State :=
  match s.recordAt part ((s.getPart part).desc.gtab + BitVec.ofNat 64 (8 * slot)) 8 with
  | none | some 0 => s
  | some a =>
    let addr := BitVec.ofNat 64 a
    match s.recordAt part addr 256, (s.readGraph part addr).1 with
    | some x, some g =>
      let saved := s.getGraph part slot
      let nodes := g.nodes.map fun (n : Nat × Node) =>
        (n.1, s.loadNode part (g.nodesVa + BitVec.ofNat 64 (128 * n.1)) n.2)
      let g := { g with nodes := nodes }
      let stopped (st : NodeState) : List (Nat × BitVec 20) :=
        (nodes.filter fun n => n.2.state == st && (s.getLaunch part n.2.launch).stopped).filterMap fun n =>
          (s.recordAt part (s.launchVa part n.2.launch) 512).map fun y => (n.2.launch, BitVec.ofNat 20 (bits y 207 188))
      let phase : WalkPhase :=
        match bits x 791 790 with
        | 1 => .marking
        | 2 => .recount
        | _ => .idle
      let cause := BitVec.ofNat 16 (bits x 783 768)
      let root := (nodes.filter fun n => n.1 == bits x 811 792 && phase != .idle).filterMap fun n =>
        if (s.getLaunch part n.2.launch).stopped then
          (s.recordAt part (s.launchVa part n.2.launch) 512).map fun y => (n.2.launch, BitVec.ofNat 20 (bits y 207 188))
        else none
      let m (i : Nat) : Nat := bits x (1024 + 64 * i + 63) (1024 + 64 * i)
      s.modPart part fun p =>
        { p with
          gtab := p.gtab.set slot addr
          graphs := p.graphs.set slot
            { g with
              retries := bits x 959 928, walks := bits x 927 896
              phase := phase, root := bits x 811 792, next := bits x 832 812, stopped := root ++ stopped .cancelling
              merge := (upTo (bits x 789 785)).map fun i =>
                (bits (m i) 63 44, BitVec.ofNat 20 (bits (m i) 43 24), BitVec.ofNat 16 (bits (m i) 23 8))
              cause := cause, causeRoot := if cause = 0 then 0xFFFFFFFF else BitVec.ofNat 32 (bits x 811 792), armed := saved.armed,
              cancel := saved.cancel, counted := saved.counted, cancelled := (nodes.filter fun n => n.2.state == .cancelled).length
              draining := if saved.armed && saved.cancel then stopped .cancelled else [] } }
    | _, _ => s

/-- The core runs a unit of the arming, or holds a record of it that is not released. -/
def State.holdsUnit (s : State) (part i : Nat) (gen : BitVec 20) (tag : Word) (core : Nat) : Bool :=
  let c := s.getCore core
  (c.unit.any fun u => u.launch == some (i, gen)) ||
  ((upTo 64).any fun j =>
    c.port.marks.getLsbD j && c.slotTag j == tag && !(Memory.get c.port.inbox (64 * j + 0x10)).getLsbD 7) ||
  (s.getPart part).held.any fun d => d.core == core && d.idx == i

/-- A launch record in use comes back from memory (R373): what the launch engine adds to it is found from the cores, the
held deliveries and the pending-cancel state (log entry 11). -/
def State.loadLaunch (s : State) (part i : Nat) : State :=
  match s.recordAt part (s.launchVa part i) 512 with
  | none => s
  | some x =>
    match (s.readLaunch part i).1 with
    | none => s
    | some r =>
      let gen := BitVec.ofNat 20 (bits x 207 188)
      let remain := bits x 383 352
      let n := (s.getGraph part r.graph).node r.node
      let tag := BitVec.ofNat 64 (i * 2 ^ 52 + if r.bound then gen.toNat * 2 ^ 32 + r.graph * 2 ^ 20 + r.node else 0)
      let window := s.windowOpen part i gen
      let waits := r.bound && n.gen == gen && n.state == .doneProvisional
      if remain = 0 ∧ !window ∧ !waits then s
      else
        let mask := BitVec.ofNat 512 (bitsWhere s.coresPer fun j => s.holdsUnit part i gen tag (s.coreAt part j))
        let stopped := (s.getLaunch part i).stopped
        let held := decide (remain ≠ 0) && mask == 0 && !stopped
        let armed := decide (remain ≠ 0) || window
        let s := s.modLaunch part i fun _ =>
          { remain := BitVec.ofNat 32 remain, cancelled := BitVec.ofNat 32 (bits x 351 320),
            faults := BitVec.ofNat 16 (bits x 319 304), first := BitVec.ofNat 16 (bits x 303 288), gen := gen, tag := tag,
            level := if r.bound then n.level else 0, bound := r.bound, trap := r.trap, flagMask := r.flagMask,
            signal := r.signal, mask := if held then r.mask else mask, entry := r.entry, regmap := r.regmap,
            args := (upTo 5).map fun k => BitVec.ofNat 64 (bits x (2048 + 64 * k + 63) (2048 + 64 * k)), chans := r.chans,
            held := held, armed := armed, provisional := decide (remain = 0) && !stopped, stopped := stopped }
        if waits && !armed && !((s.getPart part).backlog.contains (.confirm tag)) then
          s.modGraph part r.graph fun g => { g with nodes := g.nodes.set r.node { n with ready := true } }
        else s

/-- A running unit decides by its launch record (R336, R340, R350). -/
def State.loadUnit (s : State) (core : Nat) : State :=
  match (s.getCore core).unit with
  | some { launch := some (i, g), .. } =>
    let l := s.getLaunch (s.partOf core) i
    let known := l.gen == g
    let u : UnitRec :=
      { launch := some (i, g), tag := if known then l.tag else BitVec.ofNat 64 (i * 2 ^ 52 + g.toNat * 2 ^ 32),
        flagMask := if known then l.flagMask else 0, trap := known && l.trap,
        stopped := (known && l.stopped) || (s.getCore core).cancelPend }
    s.modCore core fun c => { c with unit := some u }
  | _ => s

/-- The graph engine's puts that wait for a place take the keys of their nodes. -/
def State.loadPuts (s : State) (part : Nat) : State :=
  let key (tag : Word) : Word := ((s.getGraph part (bits tag.toNat 31 20)).node (bits tag.toNat 19 0)).key
  s.modPool part 0 fun p => p.modShard 0 fun x =>
    { x with pend := x.pend.map fun (q : PendPut) =>
        if q.core = 512 then { q with key := if key q.payload = ones64 then ones64 - 1 else key q.payload } else q }

/-- What the loaded blocks do not hold themselves is found, and the partition runs. -/
def State.settleImage (s : State) (part : Nat) : State :=
  let cores := (upTo s.coresPer).map fun i => s.coreAt part i
  let s := (upTo s.poolsPer).foldl (fun s i => s.loadPool part i) s
  let s := (upTo 4096).foldl (fun s i => s.loadGraph part i) s
  let s := (upTo 4096).foldl (fun s i => s.loadLaunch part i) s
  let s := cores.foldl (fun s c => s.loadRings c) (s.loadPuts part)
  let s := (s.diesOf part).foldl (fun s d => (upTo 32).foldl (fun s g => s.loadGroups (32 * d + g)) s) s
  let s := cores.foldl (fun s c => ((s.loadUnit c).loadOwned c).loadHandling c) s
  s.reinject part

/-- RESTORE_INSTANT (R343, R344, R420). -/
def execRestoreInstant (part : Nat) (s : State) : Result :=
  .next (match (s.getPart part).restore with
    | none => s
    | some r =>
      if s.time.toNat < r.instant.toNat then s
      else
        let m := s.imageAt r.image.toNat
        (((s.clearPart part).loadImage part m).settleImage part).modPart part fun p =>
          { p with restore := none, out := false })

end Sys2Proof.Machine
end

