-- ==== Sys2Proof/Machine/Dispatch.lean ====
section
/-! DEFINITION. The dispatch: one arm per row of the opcode table. -/

namespace Sys2Proof.Machine

/-- What an instruction of the acting context, or an event, does. -/
def exec (i : Instr) (s : State) : Host.Outcome State Fault Refusal :=
  match i with
  | .vaddF32 d a b m => Sys2Proof.Machine.execVaddF32 d a b m s
  | .vsubF32 d a b m => Sys2Proof.Machine.execVsubF32 d a b m s
  | .vmulF32 d a b m => Sys2Proof.Machine.execVmulF32 d a b m s
  | .vfmaF32 d a b m => Sys2Proof.Machine.execVfmaF32 d a b m s
  | .vminF32 d a b m => Sys2Proof.Machine.execVminF32 d a b m s
  | .vmaxF32 d a b m => Sys2Proof.Machine.execVmaxF32 d a b m s
  | .vdivF32 d a b m => Sys2Proof.Machine.execVdivF32 d a b m s
  | .vsqrtF32 d a m => Sys2Proof.Machine.execVsqrtF32 d a m s
  | .vaddF64 d a b m => Sys2Proof.Machine.execVaddF64 d a b m s
  | .vsubF64 d a b m => Sys2Proof.Machine.execVsubF64 d a b m s
  | .vmulF64 d a b m => Sys2Proof.Machine.execVmulF64 d a b m s
  | .vfmaF64 d a b m => Sys2Proof.Machine.execVfmaF64 d a b m s
  | .vminF64 d a b m => Sys2Proof.Machine.execVminF64 d a b m s
  | .vmaxF64 d a b m => Sys2Proof.Machine.execVmaxF64 d a b m s
  | .vdivF64 d a b m => Sys2Proof.Machine.execVdivF64 d a b m s
  | .vsqrtF64 d a m => Sys2Proof.Machine.execVsqrtF64 d a m s
  | .vaddI32 d a b m => Sys2Proof.Machine.execVaddI32 d a b m s
  | .vsubI32 d a b m => Sys2Proof.Machine.execVsubI32 d a b m s
  | .vmulI32 d a b m => Sys2Proof.Machine.execVmulI32 d a b m s
  | .vand d a b m => Sys2Proof.Machine.execVand d a b m s
  | .vor d a b m => Sys2Proof.Machine.execVor d a b m s
  | .vxor d a b m => Sys2Proof.Machine.execVxor d a b m s
  | .vsllI32 d a b m => Sys2Proof.Machine.execVsllI32 d a b m s
  | .vsrlI32 d a b m => Sys2Proof.Machine.execVsrlI32 d a b m s
  | .vsraI32 d a b m => Sys2Proof.Machine.execVsraI32 d a b m s
  | .vminI32 d a b m => Sys2Proof.Machine.execVminI32 d a b m s
  | .vmaxI32 d a b m => Sys2Proof.Machine.execVmaxI32 d a b m s
  | .vminuI32 d a b m => Sys2Proof.Machine.execVminuI32 d a b m s
  | .vmaxuI32 d a b m => Sys2Proof.Machine.execVmaxuI32 d a b m s
  | .vaddsI32 d a b m => Sys2Proof.Machine.execVaddsI32 d a b m s
  | .vsubsI32 d a b m => Sys2Proof.Machine.execVsubsI32 d a b m s
  | .vmulhI32 d a b m => Sys2Proof.Machine.execVmulhI32 d a b m s
  | .vaddI64 d a b m => Sys2Proof.Machine.execVaddI64 d a b m s
  | .vsubI64 d a b m => Sys2Proof.Machine.execVsubI64 d a b m s
  | .vmulI64 d a b m => Sys2Proof.Machine.execVmulI64 d a b m s
  | .vsllI64 d a b m => Sys2Proof.Machine.execVsllI64 d a b m s
  | .vsrlI64 d a b m => Sys2Proof.Machine.execVsrlI64 d a b m s
  | .vsraI64 d a b m => Sys2Proof.Machine.execVsraI64 d a b m s
  | .vminI64 d a b m => Sys2Proof.Machine.execVminI64 d a b m s
  | .vmaxI64 d a b m => Sys2Proof.Machine.execVmaxI64 d a b m s
  | .vceqF32 d a b m => Sys2Proof.Machine.execVceqF32 d a b m s
  | .vcltF32 d a b m => Sys2Proof.Machine.execVcltF32 d a b m s
  | .vcleF32 d a b m => Sys2Proof.Machine.execVcleF32 d a b m s
  | .vceqI32 d a b m => Sys2Proof.Machine.execVceqI32 d a b m s
  | .vcltI32 d a b m => Sys2Proof.Machine.execVcltI32 d a b m s
  | .vcltuI32 d a b m => Sys2Proof.Machine.execVcltuI32 d a b m s
  | .vceqF64 d a b m => Sys2Proof.Machine.execVceqF64 d a b m s
  | .vcltF64 d a b m => Sys2Proof.Machine.execVcltF64 d a b m s
  | .kand d a b => Sys2Proof.Machine.execKand d a b s
  | .kor d a b => Sys2Proof.Machine.execKor d a b s
  | .kxor d a b => Sys2Proof.Machine.execKxor d a b s
  | .kandn d a b => Sys2Proof.Machine.execKandn d a b s
  | .vsel d a b m => Sys2Proof.Machine.execVsel d a b m s
  | .vbcast d a m => Sys2Proof.Machine.execVbcast d a m s
  | .vmovs d a b m => Sys2Proof.Machine.execVmovs d a b m s
  | .kpop d a m => Sys2Proof.Machine.execKpop d a m s
  | .vldW d a m imm => Sys2Proof.Machine.execVldW d a m imm s
  | .vldD d a m imm => Sys2Proof.Machine.execVldD d a m imm s
  | .vstW d a m imm => Sys2Proof.Machine.execVstW d a m imm s
  | .vstD d a m imm => Sys2Proof.Machine.execVstD d a m imm s
  | .vldxW d a b m => Sys2Proof.Machine.execVldxW d a b m s
  | .vstxW d a b m => Sys2Proof.Machine.execVstxW d a b m s
  | .kld d a => Sys2Proof.Machine.execKld d a s
  | .kst d a => Sys2Proof.Machine.execKst d a s
  | .vredsumF32 d a m => Sys2Proof.Machine.execVredsumF32 d a m s
  | .vredmaxF32 d a m => Sys2Proof.Machine.execVredmaxF32 d a m s
  | .vredminF32 d a m => Sys2Proof.Machine.execVredminF32 d a m s
  | .vredsumF64 d a m => Sys2Proof.Machine.execVredsumF64 d a m s
  | .vredsumI32 d a m => Sys2Proof.Machine.execVredsumI32 d a m s
  | .vredmaxI32 d a m => Sys2Proof.Machine.execVredmaxI32 d a m s
  | .vredsumI64 d a m => Sys2Proof.Machine.execVredsumI64 d a m s
  | .vredor d a m => Sys2Proof.Machine.execVredor d a m s
  | .vperm d a b => Sys2Proof.Machine.execVperm d a b s
  | .vslide d a b => Sys2Proof.Machine.execVslide d a b s
  | .vfsl d a b c => Sys2Proof.Machine.execVfsl d a b c s
  | .vfsr d a b c => Sys2Proof.Machine.execVfsr d a b c s
  | .vlut3 d a b c => Sys2Proof.Machine.execVlut3 d a b c s
  | .vrng d a b => Sys2Proof.Machine.execVrng d a b s
  | .vcvtF32I32 d a => Sys2Proof.Machine.execVcvtF32I32 d a s
  | .vcvtI32F32 d a => Sys2Proof.Machine.execVcvtI32F32 d a s
  | .vcvtF64F32 d a => Sys2Proof.Machine.execVcvtF64F32 d a s
  | .vcvtF32F64 d a => Sys2Proof.Machine.execVcvtF32F64 d a s
  | .vcvtF16F32 d a => Sys2Proof.Machine.execVcvtF16F32 d a s
  | .vcvtF32F16 d a => Sys2Proof.Machine.execVcvtF32F16 d a s
  | .vcvtBf16F32 d a => Sys2Proof.Machine.execVcvtBf16F32 d a s
  | .vcvtF32Bf16 d a => Sys2Proof.Machine.execVcvtF32Bf16 d a s
  | .vscanF32 d a m => Sys2Proof.Machine.execVscanF32 d a m s
  | .vscanI32 d a m => Sys2Proof.Machine.execVscanI32 d a m s
  | .vsortxF32 d a m => Sys2Proof.Machine.execVsortxF32 d a m s
  | .vexp2F32 d a m => Sys2Proof.Machine.execVexp2F32 d a m s
  | .venc d a b => Sys2Proof.Machine.execVenc d a b s
  | .vdec d a b => Sys2Proof.Machine.execVdec d a b s
  | .vectorInstructionExecute core => Sys2Proof.Machine.execVectorInstructionExecute core s
  | .mlease => Sys2Proof.Machine.execMlease s
  | .mleaseRel => Sys2Proof.Machine.execMleaseRel s
  | .mloadW bank h => Sys2Proof.Machine.execMloadW bank h s
  | .mswap => Sys2Proof.Machine.execMswap s
  | .mmac tile h b => Sys2Proof.Machine.execMmac tile h b s
  | .mgrp tile h b g => Sys2Proof.Machine.execMgrp tile h b g s
  | .mst h tile => Sys2Proof.Machine.execMst h tile s
  | .mzero tile => Sys2Proof.Machine.execMzero tile s
  | .mloadT table h b => Sys2Proof.Machine.execMloadT table h b s
  | .matrixCommandAccept core => Sys2Proof.Machine.execMatrixCommandAccept core s
  | .matrixCommandComplete grove => Sys2Proof.Machine.execMatrixCommandComplete grove s
  | .leaseGrant grove => Sys2Proof.Machine.execLeaseGrant grove s
  | .leaseExpiry grove => Sys2Proof.Machine.execLeaseExpiry grove s
  | .cpq ch d a b c => Sys2Proof.Machine.execCpq ch d a b c s
  | .cpwait ch a => Sys2Proof.Machine.execCpwait ch a s
  | .copyChunk core ch => Sys2Proof.Machine.execCopyChunk core ch s
  | .copyComplete core ch => Sys2Proof.Machine.execCopyComplete core ch s
  | .eventRecordPost core ch => Sys2Proof.Machine.execEventRecordPost core ch s
  | .hset d a b => Sys2Proof.Machine.execHset d a b s
  | .hget d a field => Sys2Proof.Machine.execHget d a field s
  | .evwait d a => Sys2Proof.Machine.execEvwait d a s
  | .evtry d a => Sys2Proof.Machine.execEvtry d a s
  | .hwaitF d a imm => Sys2Proof.Machine.execHwaitF d a imm s
  | .hwaitE d a imm => Sys2Proof.Machine.execHwaitE d a imm s
  | .hadvP d a imm => Sys2Proof.Machine.execHadvP d a imm s
  | .hadvC d a imm => Sys2Proof.Machine.execHadvC d a imm s
  | .ringUnitPerform core ctx => Sys2Proof.Machine.execRingUnitPerform core ctx s
  | .afcfgClaim d a => Sys2Proof.Machine.execAfcfgClaim d a s
  | .afcfgRel => Sys2Proof.Machine.execAfcfgRel s
  | .afcfg a b => Sys2Proof.Machine.execAfcfg a b s
  | .afscale a => Sys2Proof.Machine.execAfscale a s
  | .afrun => Sys2Proof.Machine.execAfrun s
  | .afwait d => Sys2Proof.Machine.execAfwait d s
  | .afwaitTry d => Sys2Proof.Machine.execAfwaitTry d s
  | .afsamp d a imm => Sys2Proof.Machine.execAfsamp d a imm s
  | .fabricInstructionPerform core => Sys2Proof.Machine.execFabricInstructionPerform core s
  | .runSettled core => Sys2Proof.Machine.execRunSettled core s
  | .runTimeout core => Sys2Proof.Machine.execRunTimeout core s
  | .runSaturated core => Sys2Proof.Machine.execRunSaturated core s
  | .attach h lo hi => Sys2Proof.Machine.execAttach h lo hi s
  | .detach h => Sys2Proof.Machine.execDetach h s
  | .setpart h desc => Sys2Proof.Machine.execSetpart h desc s
  | .graphload h slot addr => Sys2Proof.Machine.execGraphload h slot addr s
  | .grapharm h slot => Sys2Proof.Machine.execGrapharm h slot s
  | .launcharm h tag => Sys2Proof.Machine.execLauncharm h tag s
  | .launchpatch h idx word value => Sys2Proof.Machine.execLaunchpatch h idx word value s
  | .cancelCommand h level target => Sys2Proof.Machine.execCancelCommand h level target s
  | .sigreg h sig entry => Sys2Proof.Machine.execSigreg h sig entry s
  | .rdmem h addr len host => Sys2Proof.Machine.execRdmem h addr len host s
  | .halt h idx => Sys2Proof.Machine.execHalt h idx s
  | .resume h idx => Sys2Proof.Machine.execResume h idx s
  | .jobstart h => Sys2Proof.Machine.execJobstart h s
  | .jobstat h => Sys2Proof.Machine.execJobstat h s
  | .setxlate h root waitlim ways => Sys2Proof.Machine.execSetxlate h root waitlim ways s
  | .inval h base len => Sys2Proof.Machine.execInval h base len s
  | .own h first count owner => Sys2Proof.Machine.execOwn h first count owner s
  | .cut h n => Sys2Proof.Machine.execCut h n s
  | .portcfg h port desc => Sys2Proof.Machine.execPortcfg h port desc s
  | .xchan h decl => Sys2Proof.Machine.execXchan h decl s
  | .collgrp h group n ranks => Sys2Proof.Machine.execCollgrp h group n ranks s
  | .identity h => Sys2Proof.Machine.execIdentity h s
  | .quote h nonce mask => Sys2Proof.Machine.execQuote h nonce mask s
  | .extend h reg digest => Sys2Proof.Machine.execExtend h reg digest s
  | .fwstage h addr commit => Sys2Proof.Machine.execFwstage h addr commit s
  | .fwstageRecovery h off bytes last commit => Sys2Proof.Machine.execFwstageRecovery h off bytes last commit s
  | .switch h at_ image trace gang rsv => Sys2Proof.Machine.execSwitch h at_ image trace gang rsv s
  | .restore h image trace at_ => Sys2Proof.Machine.execRestore h image trace at_ s
  | .imgxfer h src len peer dst route => Sys2Proof.Machine.execImgxfer h src len peer dst route s
  | .replaytrace h idx count addr => Sys2Proof.Machine.execReplaytrace h idx count addr s
  | .stats h clear => Sys2Proof.Machine.execStats h clear s
  | .powercap h watts => Sys2Proof.Machine.execPowercap h watts s
  | .errlog h first count => Sys2Proof.Machine.execErrlog h first count s
  | .ncpUnsupportedOpcode h op => Sys2Proof.Machine.execNcpUnsupportedOpcode h op s
  | .add d a b => Sys2Proof.Machine.execAdd d a b s
  | .sub d a b => Sys2Proof.Machine.execSub d a b s
  | .and d a b => Sys2Proof.Machine.execAnd d a b s
  | .or d a b => Sys2Proof.Machine.execOr d a b s
  | .xor d a b => Sys2Proof.Machine.execXor d a b s
  | .sll d a b => Sys2Proof.Machine.execSll d a b s
  | .srl d a b => Sys2Proof.Machine.execSrl d a b s
  | .sra d a b => Sys2Proof.Machine.execSra d a b s
  | .mul d a b => Sys2Proof.Machine.execMul d a b s
  | .mulh d a b => Sys2Proof.Machine.execMulh d a b s
  | .mulhu d a b => Sys2Proof.Machine.execMulhu d a b s
  | .div d a b => Sys2Proof.Machine.execDiv d a b s
  | .divu d a b => Sys2Proof.Machine.execDivu d a b s
  | .rem d a b => Sys2Proof.Machine.execRem d a b s
  | .remu d a b => Sys2Proof.Machine.execRemu d a b s
  | .addw d a b => Sys2Proof.Machine.execAddw d a b s
  | .subw d a b => Sys2Proof.Machine.execSubw d a b s
  | .sllw d a b => Sys2Proof.Machine.execSllw d a b s
  | .srlw d a b => Sys2Proof.Machine.execSrlw d a b s
  | .sraw d a b => Sys2Proof.Machine.execSraw d a b s
  | .mulw d a b => Sys2Proof.Machine.execMulw d a b s
  | .madd d a b c => Sys2Proof.Machine.execMadd d a b c s
  | .addi d a imm => Sys2Proof.Machine.execAddi d a imm s
  | .andi d a imm => Sys2Proof.Machine.execAndi d a imm s
  | .ori d a imm => Sys2Proof.Machine.execOri d a imm s
  | .xori d a imm => Sys2Proof.Machine.execXori d a imm s
  | .slli d a imm => Sys2Proof.Machine.execSlli d a imm s
  | .srli d a imm => Sys2Proof.Machine.execSrli d a imm s
  | .srai d a imm => Sys2Proof.Machine.execSrai d a imm s
  | .muli d a imm => Sys2Proof.Machine.execMuli d a imm s
  | .slt d a b => Sys2Proof.Machine.execSlt d a b s
  | .sltu d a b => Sys2Proof.Machine.execSltu d a b s
  | .seq d a b => Sys2Proof.Machine.execSeq d a b s
  | .sel d a b c => Sys2Proof.Machine.execSel d a b c s
  | .min d a b => Sys2Proof.Machine.execMin d a b s
  | .max d a b => Sys2Proof.Machine.execMax d a b s
  | .minu d a b => Sys2Proof.Machine.execMinu d a b s
  | .maxu d a b => Sys2Proof.Machine.execMaxu d a b s
  | .clz d a => Sys2Proof.Machine.execClz d a s
  | .ctz d a => Sys2Proof.Machine.execCtz d a s
  | .popc d a => Sys2Proof.Machine.execPopc d a s
  | .rev8 d a => Sys2Proof.Machine.execRev8 d a s
  | .rol d a b => Sys2Proof.Machine.execRol d a b s
  | .ror d a b => Sys2Proof.Machine.execRor d a b s
  | .andn d a b => Sys2Proof.Machine.execAndn d a b s
  | .orn d a b => Sys2Proof.Machine.execOrn d a b s
  | .ldB d a imm => Sys2Proof.Machine.execLdB d a imm s
  | .ldH d a imm => Sys2Proof.Machine.execLdH d a imm s
  | .ldW d a imm => Sys2Proof.Machine.execLdW d a imm s
  | .ldD d a imm => Sys2Proof.Machine.execLdD d a imm s
  | .ldBu d a imm => Sys2Proof.Machine.execLdBu d a imm s
  | .ldHu d a imm => Sys2Proof.Machine.execLdHu d a imm s
  | .ldWu d a imm => Sys2Proof.Machine.execLdWu d a imm s
  | .ldAcq scope size d a imm => Sys2Proof.Machine.execLdAcq scope size d a imm s
  | .ldlD d imm => Sys2Proof.Machine.execLdlD d imm s
  | .stB d a imm => Sys2Proof.Machine.execStB d a imm s
  | .stH d a imm => Sys2Proof.Machine.execStH d a imm s
  | .stW d a imm => Sys2Proof.Machine.execStW d a imm s
  | .stD d a imm => Sys2Proof.Machine.execStD d a imm s
  | .stRel scope size d a imm => Sys2Proof.Machine.execStRel scope size d a imm s
  | .brEq form a imm => Sys2Proof.Machine.execBrEq form a imm s
  | .brNe form a imm => Sys2Proof.Machine.execBrNe form a imm s
  | .brLt form a imm => Sys2Proof.Machine.execBrLt form a imm s
  | .brGe form a imm => Sys2Proof.Machine.execBrGe form a imm s
  | .brEqTwoReg form a b imm => Sys2Proof.Machine.execBrEqTwoReg form a b imm s
  | .brNeTwoReg form a b imm => Sys2Proof.Machine.execBrNeTwoReg form a b imm s
  | .brLtTwoReg form a b imm => Sys2Proof.Machine.execBrLtTwoReg form a b imm s
  | .brGeTwoReg form a b imm => Sys2Proof.Machine.execBrGeTwoReg form a b imm s
  | .brLtu form a b imm => Sys2Proof.Machine.execBrLtu form a b imm s
  | .brGeu form a b imm => Sys2Proof.Machine.execBrGeu form a b imm s
  | .j imm => Sys2Proof.Machine.execJ imm s
  | .jal imm => Sys2Proof.Machine.execJal imm s
  | .jr a imm => Sys2Proof.Machine.execJr a imm s
  | .jalr a imm => Sys2Proof.Machine.execJalr a imm s
  | .faddD d a b => Sys2Proof.Machine.execFaddD d a b s
  | .fsubD d a b => Sys2Proof.Machine.execFsubD d a b s
  | .fmulD d a b => Sys2Proof.Machine.execFmulD d a b s
  | .fdivD d a b => Sys2Proof.Machine.execFdivD d a b s
  | .fminD d a b => Sys2Proof.Machine.execFminD d a b s
  | .fmaxD d a b => Sys2Proof.Machine.execFmaxD d a b s
  | .fsqrtD d a => Sys2Proof.Machine.execFsqrtD d a s
  | .fmaddD d a b c => Sys2Proof.Machine.execFmaddD d a b c s
  | .faddS d a b => Sys2Proof.Machine.execFaddS d a b s
  | .fsubS d a b => Sys2Proof.Machine.execFsubS d a b s
  | .fmulS d a b => Sys2Proof.Machine.execFmulS d a b s
  | .fdivS d a b => Sys2Proof.Machine.execFdivS d a b s
  | .fminS d a b => Sys2Proof.Machine.execFminS d a b s
  | .fmaxS d a b => Sys2Proof.Machine.execFmaxS d a b s
  | .fsqrtS d a => Sys2Proof.Machine.execFsqrtS d a s
  | .fmaddS d a b c => Sys2Proof.Machine.execFmaddS d a b c s
  | .feqD d a b => Sys2Proof.Machine.execFeqD d a b s
  | .fltD d a b => Sys2Proof.Machine.execFltD d a b s
  | .fleD d a b => Sys2Proof.Machine.execFleD d a b s
  | .feqS d a b => Sys2Proof.Machine.execFeqS d a b s
  | .fltS d a b => Sys2Proof.Machine.execFltS d a b s
  | .fleS d a b => Sys2Proof.Machine.execFleS d a b s
  | .fclassD d a => Sys2Proof.Machine.execFclassD d a s
  | .fclassS d a => Sys2Proof.Machine.execFclassS d a s
  | .fcvtDS d a => Sys2Proof.Machine.execFcvtDS d a s
  | .fcvtSD d a => Sys2Proof.Machine.execFcvtSD d a s
  | .fcvtLD d a => Sys2Proof.Machine.execFcvtLD d a s
  | .fcvtLuD d a => Sys2Proof.Machine.execFcvtLuD d a s
  | .fcvtDL d a => Sys2Proof.Machine.execFcvtDL d a s
  | .fcvtDLu d a => Sys2Proof.Machine.execFcvtDLu d a s
  | .fcvtWS d a => Sys2Proof.Machine.execFcvtWS d a s
  | .fcvtSW d a => Sys2Proof.Machine.execFcvtSW d a s
  | .fcvtWD d a => Sys2Proof.Machine.execFcvtWD d a s
  | .fcvtWuD d a => Sys2Proof.Machine.execFcvtWuD d a s
  | .fcvtLS d a => Sys2Proof.Machine.execFcvtLS d a s
  | .fcvtLuS d a => Sys2Proof.Machine.execFcvtLuS d a s
  | .fcvtSL d a => Sys2Proof.Machine.execFcvtSL d a s
  | .fcvtSLu d a => Sys2Proof.Machine.execFcvtSLu d a s
  | .fcvtWuS d a => Sys2Proof.Machine.execFcvtWuS d a s
  | .fcvtSWu d a => Sys2Proof.Machine.execFcvtSWu d a s
  | .amoAdd d a b => Sys2Proof.Machine.execAmoAdd d a b s
  | .amoAnd d a b => Sys2Proof.Machine.execAmoAnd d a b s
  | .amoOr d a b => Sys2Proof.Machine.execAmoOr d a b s
  | .amoXor d a b => Sys2Proof.Machine.execAmoXor d a b s
  | .amoMin d a b => Sys2Proof.Machine.execAmoMin d a b s
  | .amoMax d a b => Sys2Proof.Machine.execAmoMax d a b s
  | .amoSwap d a b => Sys2Proof.Machine.execAmoSwap d a b s
  | .amoCas d a b c => Sys2Proof.Machine.execAmoCas d a b c s
  | .amoAddScoped scope d a b => Sys2Proof.Machine.execAmoAddScoped scope d a b s
  | .amoAndScoped scope d a b => Sys2Proof.Machine.execAmoAndScoped scope d a b s
  | .amoOrScoped scope d a b => Sys2Proof.Machine.execAmoOrScoped scope d a b s
  | .amoXorScoped scope d a b => Sys2Proof.Machine.execAmoXorScoped scope d a b s
  | .amoMinScoped scope d a b => Sys2Proof.Machine.execAmoMinScoped scope d a b s
  | .amoMaxScoped scope d a b => Sys2Proof.Machine.execAmoMaxScoped scope d a b s
  | .amoSwapScoped scope d a b => Sys2Proof.Machine.execAmoSwapScoped scope d a b s
  | .amoCasScoped scope d a b c => Sys2Proof.Machine.execAmoCasScoped scope d a b c s
  | .fence scope cls => Sys2Proof.Machine.execFence scope cls s
  | .chbind r endpoint => Sys2Proof.Machine.execChbind r endpoint s
  | .chsend a b => Sys2Proof.Machine.execChsend a b s
  | .cmoCleanL1 a d imm => Sys2Proof.Machine.execCmoCleanL1 a d imm s
  | .cmoCleanLlc a d imm => Sys2Proof.Machine.execCmoCleanLlc a d imm s
  | .cmoCleanMem a d imm => Sys2Proof.Machine.execCmoCleanMem a d imm s
  | .cmoInvL1 a d imm => Sys2Proof.Machine.execCmoInvL1 a d imm s
  | .cmoInvLlc a d imm => Sys2Proof.Machine.execCmoInvLlc a d imm s
  | .cmoInvMem a d imm => Sys2Proof.Machine.execCmoInvMem a d imm s
  | .cmoClinvL1 a d imm => Sys2Proof.Machine.execCmoClinvL1 a d imm s
  | .cmoClinvLlc a d imm => Sys2Proof.Machine.execCmoClinvLlc a d imm s
  | .cmoClinvMem a d imm => Sys2Proof.Machine.execCmoClinvMem a d imm s
  | .cmoLineOperationsDone core => Sys2Proof.Machine.execCmoLineOperationsDone core s
  | .cget d imm => Sys2Proof.Machine.execCget d imm s
  | .cput a imm => Sys2Proof.Machine.execCput a imm s
  | .poolboundSelect a => Sys2Proof.Machine.execPoolboundSelect a s
  | .poolboundWrite a => Sys2Proof.Machine.execPoolboundWrite a s
  | .journalWrite a => Sys2Proof.Machine.execJournalWrite a s
  | .trap imm => Sys2Proof.Machine.execTrap imm s
  | .eret => Sys2Proof.Machine.execEret s
  | .hstart d a imm => Sys2Proof.Machine.execHstart d a imm s
  | .hexit => Sys2Proof.Machine.execHexit s
  | .hjoin a imm => Sys2Proof.Machine.execHjoin a imm s
  | .gdone => Sys2Proof.Machine.execGdone s
  | .gcancel level a => Sys2Proof.Machine.execGcancel level a s
  | .garm d a => Sys2Proof.Machine.execGarm d a s
  | .larm d a => Sys2Proof.Machine.execLarm d a s
  | .lpatch a b c => Sys2Proof.Machine.execLpatch a b c s
  | .pput d a imm => Sys2Proof.Machine.execPput d a imm s
  | .ptake d a imm => Sys2Proof.Machine.execPtake d a imm s
  | .ptakeW d a imm => Sys2Proof.Machine.execPtakeW d a imm s
  | .pcancel d a imm => Sys2Proof.Machine.execPcancel d a imm s
  | .barInit bar a op => Sys2Proof.Machine.execBarInit bar a op s
  | .barWait bar d => Sys2Proof.Machine.execBarWait bar d s
  | .barVote bar d a b => Sys2Proof.Machine.execBarVote bar d a b s
  | .itake d => Sys2Proof.Machine.execItake d s
  | .irel d => Sys2Proof.Machine.execIrel d s
  | .iwait d => Sys2Proof.Machine.execIwait d s
  | .iwaitP d a => Sys2Proof.Machine.execIwaitP d a s
  | .faultTrapEntry code info faddr => Sys2Proof.Machine.execFaultTrapEntry code info faddr s
  | .lateFaultReport core seq code info faddr => Sys2Proof.Machine.execLateFaultReport core seq code info faddr s
  | .lateTrapEntry core => Sys2Proof.Machine.execLateTrapEntry core s
  | .tick part => Sys2Proof.Machine.execTick part s
  | .timerTrapEntry core => Sys2Proof.Machine.execTimerTrapEntry core s
  | .waitTimeout core ctx => Sys2Proof.Machine.execWaitTimeout core ctx s
  | .wake core ctx => Sys2Proof.Machine.execWake core ctx s
  | .cancel core => Sys2Proof.Machine.execCancel core s
  | .channelGrant source ep => Sys2Proof.Machine.execChannelGrant source ep s
  | .channelMessageArrival core ep seqno words => Sys2Proof.Machine.execChannelMessageArrival core ep seqno words s
  | .windowPieceArrival dst src => Sys2Proof.Machine.execWindowPieceArrival dst src s
  | .windowRegisterWrite core ctx off bytes => Sys2Proof.Machine.execWindowRegisterWrite core ctx off bytes s
  | .tail core w => Sys2Proof.Machine.execTail core w s
  | .resv core w => Sys2Proof.Machine.execResv core w s
  | .portstat core w => Sys2Proof.Machine.execPortstat core w s
  | .heldInboxDelivery core => Sys2Proof.Machine.execHeldInboxDelivery core s
  | .armingRelease part idx => Sys2Proof.Machine.execArmingRelease part idx s
  | .launchConfirm part idx => Sys2Proof.Machine.execLaunchConfirm part idx s
  | .graphToken part slot node => Sys2Proof.Machine.execGraphToken part slot node s
  | .graphProvisionalReport part tag => Sys2Proof.Machine.execGraphProvisionalReport part tag s
  | .graphConfirmReport part tag => Sys2Proof.Machine.execGraphConfirmReport part tag s
  | .graphFaultReport part tag code => Sys2Proof.Machine.execGraphFaultReport part tag code s
  | .walkMarkStep part slot => Sys2Proof.Machine.execWalkMarkStep part slot s
  | .walkRecountStep part slot => Sys2Proof.Machine.execWalkRecountStep part slot s
  | .graphCancel part slot => Sys2Proof.Machine.execGraphCancel part slot s
  | .poolSummary part pool shard => Sys2Proof.Machine.execPoolSummary part pool shard s
  | .poolSummaryAck part pool src dst => Sys2Proof.Machine.execPoolSummaryAck part pool src dst s
  | .pputLinearize part pool shard => Sys2Proof.Machine.execPputLinearize part pool shard s
  | .poolRebalance part pool src dst => Sys2Proof.Machine.execPoolRebalance part pool src dst s
  | .poolArbiterTake part pool => Sys2Proof.Machine.execPoolArbiterTake part pool s
  | .poolEmptinessSweep part pool => Sys2Proof.Machine.execPoolEmptinessSweep part pool s
  | .collectiveStart core ep words => Sys2Proof.Machine.execCollectiveStart core ep words s
  | .collectiveComplete part group peers => Sys2Proof.Machine.execCollectiveComplete part group peers s
  | .hostRemoteWrite part pa bytes => Sys2Proof.Machine.execHostRemoteWrite part pa bytes s
  | .unsupportedPacket port kind => Sys2Proof.Machine.execUnsupportedPacket port kind s
  | .flitReplay port => Sys2Proof.Machine.execFlitReplay port s
  | .portTrainingLost port => Sys2Proof.Machine.execPortTrainingLost port s
  | .portUp port lo hi => Sys2Proof.Machine.execPortUp port lo hi s
  | .portFailed port => Sys2Proof.Machine.execPortFailed port s
  | .timeStampExchange port peerTime => Sys2Proof.Machine.execTimeStampExchange port peerTime s
  | .outOfStep => Sys2Proof.Machine.execOutOfStep s
  | .switchInstant part => Sys2Proof.Machine.execSwitchInstant part s
  | .digestWrite part => Sys2Proof.Machine.execDigestWrite part s
  | .restoreInstant part => Sys2Proof.Machine.execRestoreInstant part s
  | .moduleReset => Sys2Proof.Machine.execModuleReset s
  | .heartbeat => Sys2Proof.Machine.execHeartbeat s
  | .taprootWatchdog => Sys2Proof.Machine.execTaprootWatchdog s
  | .replayQueueTimeout core => Sys2Proof.Machine.execReplayQueueTimeout core s
  | .powerPeriod fixedMw demands => Sys2Proof.Machine.execPowerPeriod fixedMw demands s
  | .tokenTake grove need => Sys2Proof.Machine.execTokenTake grove need s
  | .thermalThrottle cause => Sys2Proof.Machine.execThermalThrottle cause s
  | .thermalTrip cause => Sys2Proof.Machine.execThermalTrip cause s
  | .softError pa place corrected => Sys2Proof.Machine.execSoftError pa place corrected s
  | .stagingPowerLoss => Sys2Proof.Machine.execStagingPowerLoss s
  | .storeBufferDrain core => Sys2Proof.Machine.execStoreBufferDrain core s
  | .l1Eviction die line => Sys2Proof.Machine.execL1Eviction die line s
  | .nullifiedInstruction => Sys2Proof.Machine.execNullifiedInstruction s
  | .peerRemoteWrite port pa bytes => Sys2Proof.Machine.execPeerRemoteWrite port pa bytes s
  | .backInStep => Sys2Proof.Machine.execBackInStep s
  | .throttleCleared => Sys2Proof.Machine.execThrottleCleared s

end Sys2Proof.Machine
end

