-- ==== Sys2Proof/Machine/Fetch.lean ====
section
/-! DEFINITION. A step of a context: the chain it forms, and the instruction it executes or skips (R35, R153 to R155,
R432). -/

namespace Sys2Proof.Machine

/-- A chain that is not yet formed is formed (R432). -/
def State.formChain (s : State) : Except AFault State :=
  if !s.cx.fresh then .ok s
  else
    match s.fetchNext s.cx.pc with
    | .error f => .error f
    | .ok (npc, s) =>
      match s.fetchNext npc with
      | .error f => .error f
      | .ok (nnpc, s) => .ok (s.modCx fun x => { x with npc := npc, nnpc := nnpc, fresh := false })

/-- A branch whose sources are there is known not to be taken; until they are, no word after NNPC is needed. -/
def State.falls (s : State) (srcs : List SReg) (taken : Bool) : Bool := !(srcs.any s.busy || srcs.any s.starved) && !taken

/-- A taken branch, j, jr and what replaces the chain whole, a gcancel of the issuing unit among them, do not need the address after
NNPC (R153, R155, R299, R316). -/
def State.needsNext (s : State) (i : Instr) : Bool :=
  match i with
  | .j _ | .jr _ _ | .eret | .hexit | .gdone => false
  | .gcancel level a => s.busy a || s.starved a || !s.cancelsSelf level (s.rd a)
  | .brEq _ a _ => s.falls [a] (s.rd a == 0)
  | .brNe _ a _ => s.falls [a] (s.rd a != 0)
  | .brLt _ a _ => s.falls [a] ((s.rd a).slt 0)
  | .brGe _ a _ => s.falls [a] (!(s.rd a).slt 0)
  | .brEqTwoReg _ a b _ => s.falls [a, b] (s.rd a == s.rd b)
  | .brNeTwoReg _ a b _ => s.falls [a, b] (s.rd a != s.rd b)
  | .brLtTwoReg _ a b _ => s.falls [a, b] ((s.rd a).slt (s.rd b))
  | .brGeTwoReg _ a b _ => s.falls [a, b] (!(s.rd a).slt (s.rd b))
  | .brLtu _ a b _ => s.falls [a, b] ((s.rd a).ult (s.rd b))
  | .brGeu _ a b _ => s.falls [a, b] (!(s.rd a).ult (s.rd b))
  | _ => true

/-- The instruction at PC is executed, or skipped when it is nullified (R153, R154). One that its context may not issue
traps ILLEGAL (R35) and needs no word after NNPC. `fresh`: this step has formed the chain. -/
noncomputable def State.runChain (s : State) (fresh : Bool) : Result :=
  if s.cx.nul0 then exec .nullifiedInstruction s
  else
    match s.fetchWords 5 s.cx.pc with
    | .error f => .next (s.fetchFault fresh f)
    | .ok (ws, s) =>
      match decodeWords ws with
      | .error _ => .next s.illegal
      | .ok i =>
        let s := s.modCx fun x => { x with words := ws }
        if s.ctx ≠ 0 ∧ !i.helperMay then .next s.illegal
        else if s.needsNext i then
          match s.withNext with
          | .error f => .next (s.fetchFault fresh f)
          | .ok s => exec i s
        else exec i s

/-- A step of the acting context. -/
noncomputable def State.issue (s : State) : Result :=
  match s.formChain with
  | .error f => .next (s.fetchFault true f)
  | .ok t => t.runChain s.cx.fresh

end Sys2Proof.Machine
end

