-- ==== Sys2Proof/Machine/Schedule.lean ====
section
/-! DEFINITION. What moves next when the agenda is empty, and the clock (R5, R25, R36, R42, R332, R414). The spec states
no latency and leaves the order of independent moves open (R5, R6): the agenda of a state may hold any order, and this
file is the order the model takes when it holds none (log entry 2). -/

namespace Sys2Proof.Machine

/-! ### The clock (R25, R42, R307, R332, R414) -/

/-- Nanoseconds that the clock may still move before a switch or restore whose INSTANT is set has to be over (R417, R420). -/
def State.room (s : State) : Option Nat :=
  let ends := s.parts.flatMap fun p => (p.2.switch.toList ++ p.2.restore.toList).map fun r => r.instant.toNat + 180000 - s.time.toNat
  ends.foldl (fun acc n => some ((acc.map (Nat.min n)).getD n)) none

/-- At most the room that there is. -/
def State.within (s : State) (dt : Nat) : Nat := (s.room.map (Nat.min dt)).getD dt

/-- The correction of TIME in a step of `dt` nanoseconds: a change of rate, never a step backwards (R414). -/
def State.correction (s : State) (dt : Nat) : Int := max (-((dt : Int) / 2)) (min (dt : Int) s.rate)

/-- The nanoseconds of global time that the next move of the clock takes. -/
def State.tickLength (s : State) : Nat :=
  let dt := Config.elapsedNs s.draws
  s.within ((dt : Int) + s.correction dt).toNat

/-- Watchdogs of WAITING contexts and of replay queues count (R42, R422). -/
def State.countWaits (s : State) (dt : Nat) : State :=
  { s with cores := s.cores.map fun (c : Nat × Core) =>
      (c.1, { c.2 with
        ctxs := c.2.ctxs.map fun (x : Nat × Ctx) =>
          (x.1, if x.2.mode = .waiting ∧ !s.watchPaused c.1 x.1 then { x.2 with waited := x.2.waited + dt } else x.2)
        port := if c.2.port.replay.isEmpty then c.2.port else { c.2.port with replayWait := c.2.port.replayWait + dt } }) }

/-- Acknowledgements of a peer module arrive at a time that the spec leaves open, of messages and of what IMGXFER has written
(R397, R419, log entry 3). -/
def State.acknowledge (s : State) : State :=
  let now (n : Nat) : Bool := (Config.freeWord s.draws).getLsbD (n % 64)
  { s with
    cores := s.cores.map fun (c : Nat × Core) =>
      (c.1, { c.2 with eps := c.2.eps.map fun (e : Nat × Endpoint) =>
        (e.1, if e.2.unacked ≠ 0 ∧ now e.1 then { e.2 with unacked := 0#11 } else e.2) })
    conns := s.conns.map fun (c : Nat × Conn) => (c.1, if c.2.acked = some false ∧ now c.1 then { c.2 with acked := some true } else c.2) }

/-- How long a port of the gang has been up, or none has: after 50 ms without one the module is out of step, until one has been up
again for 10 ms (R414). -/
def State.countGang (s : State) (dt : Nat) : State :=
  if s.gangPort then
    { s with gangUp := s.gangUp + dt, gangDown := 0, sync := s.sync || decide (10000000 ≤ s.gangUp + dt) }
  else { s with gangUp := 0, gangDown := s.gangDown + dt, sync := s.sync && decide (s.gangDown + dt < 50000000) }

/-- The counters of the taproot move on: the time that the module is DEGRADED (R429), and the time since the firmware last
wrote its kick register, which it does at instants that are a free value (R426). Without firmware nothing counts for it
(log entry 138). -/
def State.countModule (s : State) (dt : Nat) : State :=
  let kicked := (Config.freeWord (s.draws + 59)).getLsbD 0 || s.tap.booted.isNone
  { s with
    stats := { s.stats with since := s.stats.since + dt, hot := s.stats.hot + if s.tap.state = .degraded then dt else 0 }
    tap := { s.tap with kick := if kicked then 0 else s.tap.kick + dt } }

/-- Multiples of a period that TIME passes. -/
def crossings (old new period : Nat) : Nat := new / period - old / period

/-- TIME passes a multiple of a period. -/
def passes (old new period : Nat) : Bool := period != 0 && old / period != new / period

/-- The exchange of time stamps over a port of the gang: what the peer's TIME reads is a free value within 200 ns of this
module's (R414, log entry 3). -/
noncomputable def State.stampMove (s : State) (port : Nat) : Move :=
  .act (.timeStampExchange port (s.time - 200 + BitVec.ofNat 64 ((Config.freeWord (s.draws + port)).toNat % 401)))

/-- Moves that the passing of time brings: TICK (R332), summaries every 256 core cycles of 0.5 ns (R78), time stamps every
10 µs over each port of the gang that is up (R414), heartbeats (R423), and, by a free value, the physical ends of runs (R127)
and of leases (R20). -/
noncomputable def State.timed (s : State) (old : Nat) : List Move :=
  let new := s.time.toNat
  let free (i : Nat) : Bool := (Config.freeWord s.draws).getLsbD (i % 64)
  (s.parts.flatMap fun p =>
    (if passes old new p.2.desc.tick.toNat then [Move.act (.tick p.1)] else []) ++
    if 1 < s.k && passes old new 128 then
      p.2.pools.flatMap fun q => (upTo s.k).map fun i => Move.act (.poolSummary p.1 q.1 i)
    else []) ++
  (s.cores.flatMap fun c =>
    if c.2.fab.status = .running then
      (if free c.1 then [Move.act (.runSettled c.1)] else []) ++ (if free (c.1 + 7) then [Move.act (.runSaturated c.1)] else [])
    else []) ++
  (s.groves.flatMap fun g => if g.2.holder.isSome && free (g.1 + 13) then [Move.act (.leaseExpiry g.1)] else []) ++
  ((upTo (crossings old new 10000)).flatMap fun _ => ((upTo 16).filter s.gangUpAt).map s.stampMove) ++
  List.replicate (crossings old new 100000000) (Move.act .heartbeat)

/-- The power periods of 100 µs that have passed, with the sensors as last read; without firmware there are none (R428). -/
def State.powerPeriods (s : State) (old : Nat) : State :=
  if s.tap.booted.isNone then s else (upTo (crossings old s.time.toNat 100000)).foldl (fun s _ => s.powerPeriod) s

/-- The clock moves (log entry 2). A firmware store that was under way is over (R411), and what waited for the end of a
switch takes effect (R428). -/
noncomputable def State.elapse (s : State) : State :=
  let n := s.tickLength
  let old := s.time.toNat
  let corr : Int := (n : Int) - s.within (Config.elapsedNs s.draws)
  let s := { s with time := s.time + BitVec.ofNat 64 n, rate := s.rate - corr, tickDue := false, tap := s.tap.landed }
  let s := (((s.countWaits n).countGang n).countModule n).settlePower.acknowledge.powerPeriods old
  { s with agenda := s.agenda ++ s.timed old, draws := s.draws + 60 }

/-! ### Moves that are due -/

/-- A copy of the core can move on: it is queued, or its chunk is read, or the next piece of its source is ready. One that is
not ready only passes its turn on, which is no move by itself. -/
def State.copyWorks (s : State) (core : Nat) : Bool :=
  (upTo 4).any fun ch =>
    match (s.getCore core).copyHead (BitVec.ofNat 2 ch) with
    | some r => r.stage == .queued || r.stage == .moving && s.noPieces core Piece.byCopy && (decide (r.want ≤ r.buf.length) || (s.copyRead core r).isSome)
    | none => false

/-- Moves of a core that may be due. Traps come before wakes and watchdogs (R331). -/
noncomputable def State.coreMoves (s : State) (c : Nat) (x : Core) : List Instr :=
  [.lateTrapEntry c, .timerTrapEntry c] ++
  ((upTo 11).flatMap fun k => if (x.getCtx k).wait.isSome then [Instr.wake c k, .waitTimeout c k] else []) ++
  [.heldInboxDelivery c, .storeBufferDrain c, .cmoLineOperationsDone c, .vectorInstructionExecute c, .matrixCommandAccept c,
   .fabricInstructionPerform c, .runTimeout c, .replayQueueTimeout c] ++
  ((upTo 11).map fun k => Instr.ringUnitPerform c k) ++
  (if s.copyWorks c then (upTo 4).map fun ch => Instr.copyChunk c (BitVec.ofNat 2 ch) else []) ++
  ((upTo 4).flatMap fun ch => [Instr.copyComplete c (BitVec.ofNat 2 ch), .eventRecordPost c (BitVec.ofNat 2 ch)]) ++
  x.eps.flatMap fun e =>
    [Instr.channelGrant (.local c) e.1] ++
    match e.2.peer, e.2.msgs with
    | .exchange _ _ _, ws :: _ => if e.2.send then [Instr.collectiveStart c e.1 ws] else []
    | _, _ => []

/-- Moves of the engines of a partition that may be due. -/
noncomputable def State.partMoves (s : State) (p : Nat) (x : Part) : List Instr :=
  let shards := upTo s.k
  (x.backlog.map fun e =>
    match e with
    | .token slot node => Instr.graphToken p slot node
    | .provisional t => .graphProvisionalReport p t
    | .confirm t => .graphConfirmReport p t
    | .fault t code => .graphFaultReport p t code) ++
  (x.graphs.flatMap fun g =>
    match g.2.phase with
    | .marking => [Instr.walkMarkStep p g.1]
    | .recount => [Instr.walkRecountStep p g.1]
    | .idle => if g.2.armed ∧ g.2.left = 0 then [Instr.graphCancel p g.1] else []) ++
  (x.launches.flatMap fun l => [Instr.armingRelease p l.1, .launchConfirm p l.1]) ++
  (x.pools.flatMap fun q =>
    ((q.2.spreads s.k).map fun y => Instr.poolRebalance p q.1 y.1 y.2) ++ [Instr.poolArbiterTake p q.1] ++ (if q.2.sweep.isSome then [Instr.poolEmptinessSweep p q.1] else []) ++
    (shards.flatMap fun i => Instr.pputLinearize p q.1 i :: shards.map fun j => .poolSummaryAck p q.1 i j)) ++
  x.groups.filterMap fun g =>
    if (g.2.ranks.all fun r => r.isLocal) || g.2.pending.any fun r => r.ended.isSome then some (.collectiveComplete p g.1 []) else none

/-- Moves that may be due, in the model's order. -/
noncomputable def State.moves (s : State) : List Instr :=
  (s.conns.flatMap fun c => (c.2.early.filter fun e => e.1 == c.2.next).map fun e => e.2) ++
  (s.parts.flatMap fun p => [Instr.switchInstant p.1, .restoreInstant p.1, .digestWrite p.1]) ++
  (s.pieces.map fun p => Instr.windowPieceArrival p.dst p.src) ++
  (s.parts.flatMap fun p => s.partMoves p.1 p.2) ++
  (s.cores.flatMap fun c => s.coreMoves c.1 c.2) ++
  (s.groves.flatMap fun g => [Instr.leaseGrant g.1, .matrixCommandComplete g.1]) ++ [.outOfStep, .backInStep, .taprootWatchdog]

/-! ### A partition that has stopped (R343, R417, R418) -/

/-- The partition has stopped: it is switched out, or the INSTANT of a switch or a restore of it has come. -/
def State.stopped (s : State) (part : Nat) : Bool :=
  let p := s.getPart part
  p.out || s.reached p.switch || s.reached p.restore

/-- The partition whose engines or contexts an event moves; none for the rest: commands, ports, the taproot, and a switch and
a restore themselves. -/
def State.mover (s : State) (i : Instr) : Option Nat :=
  match i with
  | .vectorInstructionExecute c | .matrixCommandAccept c | .copyChunk c _ | .copyComplete c _ | .eventRecordPost c _
  | .ringUnitPerform c _ | .fabricInstructionPerform c | .runSettled c | .runTimeout c | .runSaturated c
  | .cmoLineOperationsDone c | .lateFaultReport c _ _ _ _ | .lateTrapEntry c | .timerTrapEntry c | .waitTimeout c _ | .wake c _
  | .cancel c | .channelGrant (.local c) _ | .channelMessageArrival c _ _ _ | .windowPieceArrival c _
  | .windowRegisterWrite c _ _ _ | .tail c _ | .resv c _ | .portstat c _ | .heldInboxDelivery c | .storeBufferDrain c
  | .replayQueueTimeout c | .collectiveStart c _ _ => some (s.partOf c)
  | .matrixCommandComplete g | .leaseGrant g | .leaseExpiry g | .tokenTake g _ => some (partOfDie s.cut (g / 32))
  | .tick p | .armingRelease p _ | .launchConfirm p _ | .graphToken p _ _ | .graphProvisionalReport p _ | .graphConfirmReport p _
  | .graphFaultReport p _ _ | .walkMarkStep p _ | .walkRecountStep p _ | .graphCancel p _ | .poolSummary p _ _
  | .poolSummaryAck p _ _ _ | .pputLinearize p _ _ | .poolRebalance p _ _ _ | .poolArbiterTake p _ | .poolEmptinessSweep p _
  | .collectiveComplete p _ _ => some p
  | .faultTrapEntry _ _ _ | .nullifiedInstruction => some s.part
  | _ => none

/-- The event happens in a partition that has stopped: it does not. -/
def State.stands (s : State) (i : Instr) : Bool := (s.mover i).any s.stopped

/-- The move changes the state: its condition holds. -/
def State.moves? (s : State) (i : Instr) : Bool :=
  !s.stands i &&
  match exec i s with
  | .next t => t != s
  | _ => false

/-- The first move that is due. -/
noncomputable def State.due (s : State) : Option Instr := s.moves.find? s.moves?

/-! ### Issue (R34, R36) -/

/-- The context may make a step: it is READY, no trap comes first (R34, R331), its partition has not stopped (R417, R418), and
the module is not in recovery (R405). -/
def State.mayIssue (s : State) (core ctx : Nat) : Bool :=
  (s.getCtx core ctx).mode == .ready && !s.tap.recovery && !s.stopped (s.partOf core) && !s.trapDue core ctx

/-- The READY context that comes next after the one that issued last (R36). -/
def State.nextCtx (s : State) (core : Nat) : Option Nat :=
  ((upTo 11).map fun i => ((s.getCore core).last + 1 + i) % 11).find? fun k => s.mayIssue core k

/-- The next core, in ascending order, with a context that may issue; partitions without a descriptor run nothing
(R371). -/
def State.nextReady (s : State) : Option (Nat × Nat) :=
  ((upTo Config.cores).map fun i => (s.core + 1 + i) % Config.cores).findSome? fun c =>
    if (s.getPart (s.partOf c)).set then (s.nextCtx c).map fun k => (c, k) else none

/-- The context issues: it is the last of its core, and the clock moves afterwards. -/
noncomputable def State.issueOf (s : State) (core ctx : Nat) : Result :=
  (({ s with tickDue := true }.modCore core fun c => { c with last := ctx }).on core ctx).issue

/-- A move of the agenda: the step of the context whose turn it is (R36), a step that a wake completes (R41), the clock, or an
event that is no instruction of a program. -/
noncomputable def State.perform? (s : State) : Move → Result
  | .issue core ctx =>
    if Config.cores ≤ core ∨ 11 ≤ ctx then .fault .badMove
    else if s.nextCtx core = some ctx then s.issueOf core ctx
    else .next s
  | .resume core ctx =>
    if Config.cores ≤ core ∨ 11 ≤ ctx then .fault .badMove
    else if s.mayIssue core ctx && (s.getCtx core ctx).waking then (s.on core ctx).issue
    else .next s
  | .elapse => .next s.elapse
  | .act i => if i.fields.isSome then .fault .badMove else if s.stands i then .next s else exec i s

/-- The next move. -/
noncomputable def State.nextMove (s : State) : Result :=
  match s.agenda with
  | m :: rest => { s with agenda := rest }.perform? m
  | [] =>
    if s.tickDue then .next s.elapse
    else
      match s.due with
      | some i => exec i s
      | none =>
        match s.nextReady with
        | some (c, k) => s.issueOf c k
        | none => .next s.elapse

/-! ### A program for the first step (log entry 5) -/

/-- The page that holds the instruction of `withFetchWord`. -/
def loadBase : Nat := 0x10000

/-- Words as bytes in memory order (R3). -/
def wordBytes (ws : List (BitVec 16)) : List Byte := ws.flatMap fun w => bytesOf 2 w.toNat

/-- The control context of core 0 stands at words placed in a page of module memory that its core translates, and issues
next: the module has booted, and its partition is not switched out. -/
def State.placeWords (s : State) (ws : List (BitVec 16)) : State :=
  let bs := wordBytes (ws ++ List.replicate (5 - ws.length) 0)
  let len := 2 * lengthWords (ws ++ List.replicate (5 - ws.length) 0)
  let pc := BitVec.ofNat 64 loadBase
  let t : TlbEntry := { part := 0, va := loadBase, log := 16, pa := loadBase, level := 3, r := false, w := false, x := true }
  let s := { s with mem := Memory.putAll s.mem loadBase bs, agenda := [.issue 0 0]
                    tap := { s.tap with recovery := false, booted := some .a } }
  let s := s.modDie 0 fun d => { d with l1 := d.l1.filter fun l => !(linesOf loadBase 16).contains l.1 }
  let s := s.modPart 0 fun p => { p with out := false, switch := none, restore := none, desc := { p.desc with codeLen := 0 } }
  let s := s.modCore 0 fun c =>
    { c with last := 10, late := [], itlb := t :: c.itlb, icache := c.icache.filter fun l => !(linesOf loadBase 16).contains l }
  s.modCtx 0 0 fun x =>
    { x with mode := .ready, wait := none, timerPend := false, pc := pc, npc := pc + BitVec.ofNat 64 len,
             nnpc := pc + BitVec.ofNat 64 (len + 2), nul0 := false, nul1 := false, sl0 := false, sl1 := false, fresh := false }

end Sys2Proof.Machine
end

