-- ==== Sys2Proof/Machine/Step.lean ====
section
/-! DEFINITION. The step of the machine, and the placing of an instruction where the next step fetches it. -/

namespace Sys2Proof.Machine

/-- One step: the agenda's first move, or the next move when it is empty. -/
noncomputable def step (s : State) : Host.Outcome State Fault Refusal := s.nextMove

/-- The state with the opcode table's number `w` of `nbits` bits stored where the next step fetches its instruction. -/
def State.withFetchWord (s : State) (nbits w : Nat) : State := s.placeWords (tableWords nbits w)

end Sys2Proof.Machine
end

