-- ==== Sys2Proof/Safety.lean ====
section
/-! DEFINITION. The vocabulary of claims: what a safe run keeps, when an instruction begins at once, and where a memory
access is performed at once. -/

namespace Sys2Proof.Machine

/-- The module is cut into one, two or four partitions (R13). -/
def State.cutOk (s : State) : Bool := s.cut == 1 || s.cut == 2 || s.cut == 4

/-- Each die lists its coherent copies by line in rising order. -/
def State.copiesOk (s : State) : Bool := s.dies.all fun d => Sparse.sorted d.2.l1

/-- Module memory and the owner table are in canonical form, the dies' copies are in order and the cut is legal: what
every step keeps. -/
def State.safe (s : State) : Bool := Memory.wf s.mem && Memory.wf s.owners && s.cutOk && s.copiesOk

/-- The memories that the machine holds beside module memory are in canonical form (scratchpads, inbox slots, weight
banks, the taproot's TCM, what GDDR 7 holds), each die lists its claimed stands and each LLC slice its lines in rising order: what
every step keeps too. -/
def State.storesOk (s : State) : Bool :=
  (s.cores.all fun c => Memory.wf c.2.scratch && Memory.wf c.2.port.inbox) &&
  (s.groves.all fun g => g.2.banks.all fun b => Memory.wf b.2) && Memory.wf s.tap.tcm &&
  (s.mems.all fun m => Memory.wf m.2.gddr && Sparse.sorted m.2.llc) &&
  s.dies.all fun d => Sparse.sorted d.2.owner

/-! ### Beginning at once (R41, R49, R50, R211, R238) -/

/-- No register that the instruction names is still to be written, and each bound source holds a word. -/
def State.canStart (s : State) (srcs dests : List SReg) : Bool :=
  !(srcs ++ dests).any s.busy && !srcs.any s.starved

/-- The instruction can start, and each bound destination holds a grant. -/
def State.canBegin (s : State) (srcs dests : List SReg) : Bool := s.canStart srcs dests && !dests.any s.ungranted

/-- The endpoints whose word the instruction pops once when it retires: those that its sources are bound to (R50). -/
def State.receives (s : State) (srcs : List SReg) : List Nat :=
  ((srcs.filter fun r => s.isBound r && !(s.getEp s.core (s.cx.boundEp r.toNat)).send).map
    fun r => s.cx.boundEp r.toNat).eraseDups

/-- The instruction has begun. -/
def State.started (s : State) (srcs : List SReg) : State := s.modCx fun x => { x with popped := s.receives srcs }

/-! ### Accesses performed at once (R92, R94, R108, R112, R212, R233, R241) -/

/-- The runs that an access covers and the state in which it is performed, when every check of R212 passes and nothing
makes it wait: each bound destination holds a grant, no engine owns a line of it, no earlier vector access may overlap it, a window is ready, and an earlier
invalidation that covers it can reach its end. -/
def State.accessNow (s : State) (acc : Access) (va : Word) (n : Nat) (dests : List SReg) : Option (State × Runs) :=
  match s.access s.core acc va n with
  | .error _ => none
  | .ok (rs, s') =>
    if dests.any s'.ungranted || s'.ownedIn s'.die rs || s'.vecBusy va n then none
    else
      match rs with
      | (p, _) :: _ =>
        if inWindow p then
          let s'' := s'.deliverTo (winCore p)
          if ((acc = .write) ∧ winCore p ≠ s.core) ∨
            (s''.winReady (winCore p) (winOff p) n ∧ s''.noPieces s.core (fun q => q.dst == winCore p)) then
            some (s'', rs)
          else none
        else (s'.settleInv s'.core s'.ctx s'.me.seq rs).map fun t => (t, rs)
      | [] => some (s', rs)

/-- The fault that the checks of R212 after alignment find. -/
def State.accessFault (s : State) (acc : Access) (va : Word) (n : Nat) : Option AFault :=
  match s.access s.core acc va n with
  | .error f => some f
  | .ok _ => none

/-- The context's earlier accesses of the classes are complete for the scope, in the state given: a fence does not wait
(R103, R232). -/
def State.fencedNow (s : State) (r w : Bool) (scope : Scope) : Option State :=
  if r && !s.readsDone then none
  else if w then
    match s.writesDone scope with
    | none => none
    | some t => if scope = .y ∧ t.unacked then none else some t
  else some s

end Sys2Proof.Machine
end

