-- ==== Sys2Proof/Certificates/Slice0/Obligations.lean ====
section
/-! DEFINITION. The statements for the provers, from the spec's numbered rules. A statement of an instruction's result has
the next state as its conclusion, under conditions on the state and the operands alone. -/

open Sys2Proof Sys2Proof.Machine

/-! ### The integer instructions (R214 to R217) -/


/-- Results of R214 but for the divisions: the constructor and the number that rule writes for it. -/
noncomputable def Claims.tableR214 : List ((SReg → SReg → SReg → Instr) × (Word → Word → Word)) :=
  [(.add, fun x y => BitVec.ofInt 64 (x.toInt + y.toInt)),
   (.sub, fun x y => BitVec.ofInt 64 (x.toInt - y.toInt)),
   (.and, fun x y => x &&& y),
   (.or, fun x y => x ||| y),
   (.xor, fun x y => x ^^^ y),
   (.sll, fun x y => BitVec.ofNat 64 (x.toNat * 2 ^ (y.toNat % 64))),
   (.srl, fun x y => BitVec.ofNat 64 (x.toNat / 2 ^ (y.toNat % 64))),
   (.sra, fun x y => BitVec.ofInt 64 (x.toInt / 2 ^ (y.toNat % 64))),
   (.mul, fun x y => BitVec.ofInt 64 (x.toInt * y.toInt)),
   (.mulh, fun x y => BitVec.ofInt 64 (x.toInt * y.toInt / 2 ^ 64)),
   (.mulhu, fun x y => BitVec.ofNat 64 (x.toNat * y.toNat / 2 ^ 64)),
   (.addw, fun x y => (BitVec.ofInt 32 (x.toInt + y.toInt)).signExtend 64),
   (.subw, fun x y => (BitVec.ofInt 32 (x.toInt - y.toInt)).signExtend 64),
   (.sllw, fun x y => (BitVec.ofNat 32 (x.toNat % 2 ^ 32 * 2 ^ (y.toNat % 32))).signExtend 64),
   (.srlw, fun x y => (BitVec.ofNat 32 (x.toNat % 2 ^ 32 / 2 ^ (y.toNat % 32))).signExtend 64),
   (.sraw, fun x y => (BitVec.ofInt 32 ((x.setWidth 32).toInt / 2 ^ (y.toNat % 32))).signExtend 64),
   (.mulw, fun x y => (BitVec.ofInt 32 (x.toInt * y.toInt)).signExtend 64)]

/-- R214: each function of major 0x0 but the divisions writes its result and retires; the machine's word operations give
the numbers of the rule's table. -/
def Claims.AluRegisterResult : Prop :=
  (∀ p ∈ Claims.tableR214, ∀ (d a b : SReg) (s : State), s.canBegin [a, b] [d] = true →
    exec (p.1 d a b) s = .next ((s.started [a, b]).result d (p.2 (s.rd a) (s.rd b)))) ∧
  ∀ (d a b : SReg) (c : CReg) (s : State), s.canBegin [a, b, c.setWidth 5] [d] = true →
    exec (.madd d a b c) s =
      .next ((s.started [a, b, c.setWidth 5]).result d
        (BitVec.ofInt 64 ((s.rd a).toInt * (s.rd b).toInt + (s.rdC c).toInt)))

/-- R215: the four divisions in the three cases of the rule's table. -/
def Obligations.DivisionResult : Prop :=
  ∀ (d a b : SReg) (s : State), s.canBegin [a, b] [d] = true →
    let x := s.rd a
    let y := s.rd b
    let q : Word :=
      if y = 0 then BitVec.allOnes 64
      else if x = BitVec.intMin 64 ∧ y = BitVec.allOnes 64 then BitVec.intMin 64
      else BitVec.ofInt 64 (x.toInt.tdiv y.toInt)
    let r : Word :=
      if y = 0 then x
      else if x = BitVec.intMin 64 ∧ y = BitVec.allOnes 64 then 0
      else BitVec.ofInt 64 (x.toInt - x.toInt.tdiv y.toInt * y.toInt)
    let qu : Word := if y = 0 then BitVec.ofNat 64 (2 ^ 64 - 1) else BitVec.ofNat 64 (x.toNat / y.toNat)
    let ru : Word := if y = 0 then x else BitVec.ofNat 64 (x.toNat - x.toNat / y.toNat * y.toNat)
    let done (v : Word) : Result := .next ((s.started [a, b]).result d v)
    exec (.div d a b) s = done q ∧ exec (.rem d a b) s = done r ∧ exec (.divu d a b) s = done qu ∧
    exec (.remu d a b) s = done ru

/-- R216: the results of the immediate instructions; a shift immediate is at most 63. -/
def Claims.AluImmediateResult : Prop :=
  ∀ (d a : SReg) (imm : Word) (s : State), s.canBegin [a] [d] = true →
    let x := s.rd a
    let done (v : Word) : Result := .next ((s.started [a]).result d v)
    exec (.addi d a imm) s = done (BitVec.ofInt 64 (x.toInt + imm.toInt)) ∧
    exec (.andi d a imm) s = done (x &&& imm) ∧ exec (.ori d a imm) s = done (x ||| imm) ∧
    exec (.xori d a imm) s = done (x ^^^ imm) ∧
    exec (.muli d a imm) s = done (BitVec.ofInt 64 (x.toInt * imm.toInt)) ∧
    (imm.toNat ≤ 63 →
      exec (.slli d a imm) s = done (BitVec.ofNat 64 (x.toNat * 2 ^ imm.toNat)) ∧
      exec (.srli d a imm) s = done (BitVec.ofNat 64 (x.toNat / 2 ^ imm.toNat)) ∧
      exec (.srai d a imm) s = done (BitVec.ofInt 64 (x.toInt / 2 ^ imm.toNat)))

/-- Results of R217's functions of two registers. -/
noncomputable def Claims.tableR217 : List ((SReg → SReg → SReg → Instr) × (Word → Word → Word)) :=
  [(.slt, fun x y => if x.toInt < y.toInt then 1 else 0),
   (.sltu, fun x y => if x.toNat < y.toNat then 1 else 0),
   (.seq, fun x y => if x = y then 1 else 0),
   (.min, fun x y => if x.toInt ≤ y.toInt then x else y),
   (.max, fun x y => if x.toInt ≤ y.toInt then y else x),
   (.minu, fun x y => if x.toNat ≤ y.toNat then x else y),
   (.maxu, fun x y => if x.toNat ≤ y.toNat then y else x),
   (.rol, fun x y => x.rotateLeft (y.toNat % 64)),
   (.ror, fun x y => x.rotateRight (y.toNat % 64)),
   (.andn, fun x y => x &&& ~~~y),
   (.orn, fun x y => x ||| ~~~y)]

/-- R217: comparisons, selection and bit operations. -/
def Claims.CompareSelectResult : Prop :=
  (∀ p ∈ Claims.tableR217, ∀ (d a b : SReg) (s : State), s.canBegin [a, b] [d] = true →
    exec (p.1 d a b) s = .next ((s.started [a, b]).result d (p.2 (s.rd a) (s.rd b)))) ∧
  ∀ (d a b : SReg) (c : CReg) (s : State), s.canBegin [a, b, c.setWidth 5] [d] = true →
    exec (.sel d a b c) s =
      .next ((s.started [a, b, c.setWidth 5]).result d (if s.rdC c ≠ 0 then s.rd a else s.rd b))

/-- R217: the counts of leading, trailing and one bits, and the bytes in reverse order. -/
def Claims.BitCountResult : Prop :=
  ∀ (d a : SReg) (s : State), s.canBegin [a] [d] = true →
    let x := s.rd a
    let done (v : Word) : Result := .next ((s.started [a]).result d v)
    (∃ v : Word, exec (.clz d a) s = done v ∧ v.toNat ≤ 64 ∧ x.toNat < 2 ^ (64 - v.toNat) ∧
      (x ≠ 0 → 2 ^ (63 - v.toNat) ≤ x.toNat)) ∧
    (∃ v : Word, exec (.ctz d a) s = done v ∧ v.toNat ≤ 64 ∧ (x = 0 → v = 64) ∧
      (x ≠ 0 → 2 ^ v.toNat ∣ x.toNat ∧ ¬ 2 ^ (v.toNat + 1) ∣ x.toNat)) ∧
    (∃ v : Word, exec (.popc d a) s = done v ∧
      v.toNat = ((List.range 64).map fun i => x.toNat / 2 ^ i % 2).sum) ∧
    (∃ v : Word, exec (.rev8 d a) s = done v ∧
      ∀ i < 8, v.toNat / 2 ^ (8 * i) % 256 = x.toNat / 2 ^ (8 * (7 - i)) % 256)

/-! ### What writing a result does (R50, R147, R153, R165) -/

/-- The context after a sequential step: the chain has moved on and the context is READY (R153). -/
def Claims.steppedCtx (x : Ctx) : Ctx :=
  { x with pc := x.npc, npc := x.nnpc, nnpc := x.nextAddr, nul0 := x.nul1, nul1 := false, sl0 := x.sl1, sl1 := false,
           popped := [], mode := .ready, wait := none, waited := 0, woken := false, waking := false, latch := none }

/-- A result written to a register that is not bound, when no source was: the register takes it, s0 discards it, the
chain moves on, and nothing else of the module changes. -/
def Claims.ResultToRegister : Prop :=
  ∀ (s : State) (d : SReg) (v : Word), s.isBound d = false → s.cx.popped = [] →
    s.result d v =
      s.modCx fun x => Claims.steppedCtx (if d = 0 then x else { x with regs := x.regs.set d.toNat v })

/-- A result written to a register that is bound: a receive endpoint discards it; a send endpoint of a channel within the
module sends it as one message under one of its grants, to the receiver's stream. Either way the chain moves on and no
register changes. -/
def Claims.ResultToBoundRegister : Prop :=
  ∀ (s : State) (d : SReg) (v : Word), s.isBound d = true → s.cx.popped = [] →
    let e := s.cx.boundEp d.toNat
    ((s.getEp s.core e).send = false → s.result d v = s.modCx Claims.steppedCtx) ∧
    ∀ c' e', (s.getEp s.core e).send = true → (s.getEp s.core e).peer = .core c' e' → (c', e') ≠ (s.core, e) →
      let t := s.result d v
      t.cx = Claims.steppedCtx s.cx ∧
      t.getEp s.core e = { s.getEp s.core e with grants := (s.getEp s.core e).grants - 1,
                                                 seqno := (s.getEp s.core e).seqno + 1 } ∧
      t.getEp c' e' = { s.getEp c' e' with grants := (s.getEp c' e').grants - 1,
                                           msgs := (s.getEp c' e').msgs ++ [[v]] }



/-- R50: each endpoint that the instruction's sources are bound to loses the first word of its stream as the instruction
retires, once however often it is named; every other endpoint of the core keeps its state. -/
def Claims.RetirePopsOnce : Prop :=
  ∀ (s : State) (srcs dests : List SReg) (d : SReg) (v : Word),
    s.canBegin srcs dests = true → s.isBound d = false →
    let t := (s.started srcs).result d v
    ∀ e,
      (e ∈ s.receives srcs → (t.getEp s.core e).msgs.flatten = (s.getEp s.core e).msgs.flatten.tail) ∧
      (e ∉ s.receives srcs → t.getEp s.core e = s.getEp s.core e)

/-! ### Scalar floating point (R226 to R229) -/

/-- Results of R227 and R228 of two operands, under the control of FMODE. -/
noncomputable def Claims.tableFloat2 : List ((SReg → SReg → SReg → Instr) × (FCtl → Word → Word → FOut)) :=
  let op (f : Fmt) (g : FCtl → Machine.Num → Machine.Num → FRes) : FCtl → Word → Word → FOut := fun c x y =>
    (g c (f.reg c x) (f.reg c y)).out
  let cmp (f : Fmt) (g : Machine.Num → Machine.Num → CRes) : FCtl → Word → Word → FOut := fun c x y => (g (f.reg c x) (f.reg c y)).out
  [(.faddD, op fp64 fp64.add), (.fsubD, op fp64 fp64.sub), (.fmulD, op fp64 fp64.mul), (.fdivD, op fp64 fp64.div),
   (.fminD, op fp64 fp64.min), (.fmaxD, op fp64 fp64.max), (.faddS, op fp32 fp32.add), (.fsubS, op fp32 fp32.sub),
   (.fmulS, op fp32 fp32.mul), (.fdivS, op fp32 fp32.div), (.fminS, op fp32 fp32.min), (.fmaxS, op fp32 fp32.max),
   (.feqD, cmp fp64 cmpEq), (.fltD, cmp fp64 cmpLt), (.fleD, cmp fp64 cmpLe), (.feqS, cmp fp32 cmpEq),
   (.fltS, cmp fp32 cmpLt), (.fleS, cmp fp32 cmpLe)]

/-- Results of R227 to R229 of one operand. -/
noncomputable def Claims.tableFloat1 : List ((SReg → SReg → Instr) × (FCtl → Word → FOut)) :=
  let toI (f : Fmt) (lo hi : Int) : FCtl → Word → FOut := fun c x => intOut (toInt c.rm lo hi (f.reg c x))
  let ofI (f : Fmt) (v : Word → Int) : FCtl → Word → FOut := fun c x => (f.ofInt c (v x)).out
  [(.fsqrtD, fun c x => (fp64.sqrt c (fp64.reg c x)).out), (.fsqrtS, fun c x => (fp32.sqrt c (fp32.reg c x)).out),
   (.fclassD, fun _ x => { val := BitVec.ofNat 64 (fp64.classify x.toNat), flags := 0 }),
   (.fclassS, fun _ x => { val := BitVec.ofNat 64 (fp32.classify (x.toNat % 2 ^ 32)), flags := 0 }),
   (.fcvtDS, fun c x => (fp64.put c (fp32.reg c x)).out), (.fcvtSD, fun c x => (fp32.put c (fp64.reg c x)).out),
   (.fcvtLD, toI fp64 (-2 ^ 63) (2 ^ 63 - 1)), (.fcvtLuD, toI fp64 0 (2 ^ 64 - 1)),
   (.fcvtWD, toI fp64 (-2 ^ 31) (2 ^ 31 - 1)), (.fcvtWuD, toI fp64 0 (2 ^ 32 - 1)),
   (.fcvtLS, toI fp32 (-2 ^ 63) (2 ^ 63 - 1)), (.fcvtLuS, toI fp32 0 (2 ^ 64 - 1)),
   (.fcvtWS, toI fp32 (-2 ^ 31) (2 ^ 31 - 1)), (.fcvtWuS, toI fp32 0 (2 ^ 32 - 1)),
   (.fcvtDL, ofI fp64 fun x => x.toInt), (.fcvtDLu, ofI fp64 fun x => x.toNat), (.fcvtSL, ofI fp32 fun x => x.toInt),
   (.fcvtSLu, ofI fp32 fun x => x.toNat), (.fcvtSW, ofI fp32 fun x => (x.setWidth 32).toInt),
   (.fcvtSWu, ofI fp32 fun x => ((x.setWidth 32).toNat : Int))]

/-- R226 to R229: every scalar floating-point instruction computes under the mode and the DAZ and FZ bits that FMODE
holds, ORs its flags into FSTAT and writes its result as it retires. -/
def Claims.FloatResult : Prop :=
  (∀ p ∈ Claims.tableFloat2, ∀ (d a b : SReg) (s : State), s.canBegin [a, b] [d] = true →
    let r := p.2 (fctl s.me.fmode) (s.rd a) (s.rd b)
    exec (p.1 d a b) s = .next (((s.started [a, b]).orFlags r.flags).result d r.val)) ∧
  (∀ p ∈ Claims.tableFloat1, ∀ (d a : SReg) (s : State), s.canBegin [a] [d] = true →
    let r := p.2 (fctl s.me.fmode) (s.rd a)
    exec (p.1 d a) s = .next (((s.started [a]).orFlags r.flags).result d r.val)) ∧
  (∀ p ∈ [((Instr.fmaddD : SReg → SReg → SReg → CReg → Instr), fp64), (Instr.fmaddS, fp32)],
    ∀ (d a b : SReg) (c : CReg) (s : State), s.canBegin [a, b, c.setWidth 5] [d] = true →
    let m := fctl s.me.fmode
    let r := (p.2.fma m (p.2.reg m (s.rd a)) (p.2.reg m (s.rd b)) (p.2.reg m (s.rdC c))).out
    exec (p.1 d a b c) s = .next (((s.started [a, b, c.setWidth 5]).orFlags r.flags).result d r.val))

/-- R168: a value that is a number of the format rounds to that number in every mode and sets no flag, with FZ clear. -/
def Claims.RoundingIsExactOnNumbers : Prop :=
  ∀ f ∈ [fp64, fp32, fp16, bf16], ∀ (c : FCtl) (neg : Bool) (x : Nat), x < f.infMag → c.fz = false →
    match f.num false x with
    | .fin _ m e => f.round c neg m e = { val := f.pack neg x, flags := 0 }
    | _ => True

/-- R227: fmin and fmax return the other operand when exactly one is a NaN and the canonical NaN when both are; a
signalling NaN sets NV; -0 orders below +0. -/
def Claims.MinMaxOfNaNs : Prop :=
  ∀ f ∈ [fp64, fp32], ∀ (c : FCtl) (q : Bool) (n : Machine.Num),
    (n.isNan = false → (f.min c (.nan q) n).val = (f.put c n).val ∧
      (f.max c n (.nan q)).val = (f.put c n).val) ∧
    (∀ q', (f.min c (.nan q) (.nan q')).val = f.nan ∧ (f.max c (.nan q) (.nan q')).val = f.nan) ∧
    (f.min c (.nan true) n).flags &&& flagNV = flagNV ∧ (f.max c (.nan true) n).flags &&& flagNV = flagNV ∧
    (f.min c (.zero false) (.zero true)).val = f.signBit ∧ (f.max c (.zero true) (.zero false)).val = 0

/-! ### Scalar memory (R99, R212, R213, R218 to R221) -/

/-- The loads of R218: constructor, size exponent, and whether the value is sign-extended. -/
noncomputable def Claims.tableLoads : List ((SReg → SReg → Word → Instr) × Nat × Bool) :=
  [(.ldB, 0, true), (.ldH, 1, true), (.ldW, 2, true), (.ldD, 3, true), (.ldBu, 0, false), (.ldHu, 1, false),
   (.ldWu, 2, false)]

/-- The stores of R218. -/
noncomputable def Claims.tableStores : List ((SReg → SReg → Word → Instr) × Nat) :=
  [(.stB, 0), (.stH, 1), (.stW, 2), (.stD, 3)]

/-- The number that `n` loaded bytes hold as a 64-bit value, sign- or zero-extended (R218). -/
def Claims.extended (signed : Bool) (n x : Nat) : Word :=
  if signed then (BitVec.ofNat (8 * n) x).signExtend 64 else BitVec.ofNat 64 x

/-- R218, R221: a load reads its bytes at the address of the rule once its checks pass and nothing delays it, sign- or
zero-extends them, and retires; ldl.d counts from its own address, rounded down to 8. -/
def Claims.LoadResult : Prop :=
  (∀ p ∈ Claims.tableLoads, ∀ (d a : SReg) (imm : Word) (s t : State) (rs : Runs),
    s.canBegin [a] [d] = true →
    (s.started [a]).accessNow .read (s.rd a + imm * BitVec.ofNat 64 (2 ^ p.2.1)) (2 ^ p.2.1) [d] = some (t, rs) →
    let u := t.readIn rs
    exec (p.1 d a imm) s =
      .next (u.result d (Claims.extended p.2.2 (2 ^ p.2.1) (natOf (u.loadRuns rs))))) ∧
  ∀ (d : SReg) (imm : Word) (s t : State) (rs : Runs), s.canBegin [] [d] = true →
    (s.started []).accessNow .read ((s.cx.pc &&& ~~~7) + imm * 8) 8 [d] = some (t, rs) →
    let u := t.readIn rs
    exec (.ldlD d imm) s = .next (u.result d (BitVec.ofNat 64 (natOf (u.loadRuns rs))))

/-- R218: a store puts the low 2^z bytes of S(d) at the address of the rule, where its checks pass and nothing delays
it, and retires. -/
def Claims.StoreResult : Prop :=
  ∀ p ∈ Claims.tableStores, ∀ (d a : SReg) (imm : Word) (s t : State) (rs : Runs),
    s.canBegin [d, a] [] = true →
    (s.started [d, a]).accessNow .write (s.rd a + imm * BitVec.ofNat 64 (2 ^ p.2)) (2 ^ p.2) [] = some (t, rs) →
    exec (p.1 d a imm) s = .next ((t.storeRuns rs (bytesOf (2 ^ p.2) (s.rd d).toNat)).retire)

/-- R219: a load or a store whose access fails a check of R212 takes that fault, and nothing else happens. -/
def Claims.AccessFaults : Prop :=
  (∀ p ∈ Claims.tableLoads, ∀ (d a : SReg) (imm : Word) (s : State) (f : AFault), s.canStart [a] [d] = true →
    (s.started [a]).accessFault .read (s.rd a + imm * BitVec.ofNat 64 (2 ^ p.2.1)) (2 ^ p.2.1) = some f →
    exec (p.1 d a imm) s = .next ((s.started [a]).takeFault f.code f.info f.addr)) ∧
  ∀ p ∈ Claims.tableStores, ∀ (d a : SReg) (imm : Word) (s : State) (f : AFault), s.canBegin [d, a] [] = true →
    (s.started [d, a]).accessFault .write (s.rd a + imm * BitVec.ofNat 64 (2 ^ p.2)) (2 ^ p.2) = some f →
    exec (p.1 d a imm) s = .next ((s.started [d, a]).takeFault f.code f.info f.addr)

/-- R99: a store to memory is seen at once by the context that made it, and by no other; the bytes outside it, every
die's copy and the LLC are as before. This is the memory frame of the stores. -/
def Claims.StoreSeenByItsContext : Prop :=
  ∀ (s : State) (pa : Nat) (bs : List Byte), inWindow pa = false →
    let t := s.storeRuns [(pa, bs.length)] bs
    (∀ i, ∀ h : i < bs.length, t.loadByte s.core s.ctx (pa + i) = bs[i]) ∧
    (∀ a, a < pa ∨ pa + bs.length ≤ a → t.loadByte s.core s.ctx a = s.loadByte s.core s.ctx a) ∧
    (∀ c k a, (c ≠ s.core ∨ k ≠ s.ctx) → t.loadByte c k a = s.loadByte c k a) ∧
    (∀ d a, t.seen d a = s.seen d a) ∧ t.mem = s.mem

/-- The core's L1 takes the lines of a range without another line leaving it: it holds each, or its set has a free way (R16). -/
def Claims.roomFor (s : State) (core pa n : Nat) : Prop :=
  ∀ l ∈ linesOf pa n, l ∈ (s.getCore core).l1 ∨ ((s.getCore core).l1.filter fun x => x % 2048 == l % 2048).length < 12

/-- R99, R101: when the oldest buffered store leaves the buffer, the die's copy takes its bytes and no other byte that
the die sees changes; while the L1 has room for the lines, no byte of the LLC does. -/
def Claims.DrainedStoreIsSeen : Prop :=
  ∀ (core : Nat) (s : State) (e : SbEntry) (rest : List SbEntry), (s.getCore core).sb = e :: rest →
    s.mayDrain core = true →
    ∃ t, exec (.storeBufferDrain core) s = .next t ∧ (t.getCore core).sb = rest ∧
      (∀ i, ∀ h : i < e.bytes.length, t.seen (dieOf core) (e.pa + i) = e.bytes[i]) ∧
      (e.bytes.length ≤ 64 → Claims.roomFor s core e.pa e.bytes.length → t.mem = s.mem ∧
        ∀ a, a < e.pa ∨ e.pa + e.bytes.length ≤ a → t.seen (dieOf core) a = s.seen (dieOf core) a)

/-- R213, R220: an acquire load or a release store at an address that is no multiple of its size faults MISALIGNED with
the address. Aligned, once its checks pass and the fence that R220 names for its scope waits for nothing, the load reads (a
wide scope at the LLC, the die's dirty bytes written there first) and the store writes. -/
def Claims.AcquireReleaseForms : Prop :=
  ∀ (scope : Scope) (size : BitVec 2) (d a : SReg) (imm : Word) (s : State),
    let n := 2 ^ size.toNat
    let va := s.rd a + imm * BitVec.ofNat 64 n
    let win (rs : Runs) : Bool := rs.any fun r => inWindow r.1
    (va.toNat % n ≠ 0 → s.canStart [a] [d] = true →
      exec (.ldAcq scope size d a imm) s = .next ((s.started [a]).takeFault 0x0004 0 va)) ∧
    (va.toNat % n ≠ 0 → s.canBegin [d, a] [] = true →
      exec (.stRel scope size d a imm) s = .next ((s.started [d, a]).takeFault 0x0004 0 va)) ∧
    (∀ f, va.toNat % n = 0 → s.canStart [a] [d] = true → (s.started [a]).accessFault .read va n = some f →
      exec (.ldAcq scope size d a imm) s = .next ((s.started [a]).takeFault f.code f.info f.addr)) ∧
    (∀ f, va.toNat % n = 0 → s.canBegin [d, a] [] = true → (s.started [d, a]).accessFault .write va n = some f →
      exec (.stRel scope size d a imm) s = .next ((s.started [d, a]).takeFault f.code f.info f.addr)) ∧
    (∀ t v rs, va.toNat % n = 0 → s.canBegin [a] [d] = true → (s.started [a]).accessNow .read va n [d] = some (t, rs) →
      t.fencedNow (win rs || !scope.wide) false (if win rs then scope else .d) = some v →
      let w := (if scope.wide then v.onLines rs fun x l => x.flushLine x.die l else v).readIn rs
      exec (.ldAcq scope size d a imm) s = .next (w.result d (Claims.extended true n (natOf (w.loadRuns rs))))) ∧
    ∀ t u rs, va.toNat % n = 0 → s.canBegin [d, a] [] = true →
      (s.started [d, a]).accessNow .write va n [] = some (t, rs) →
      t.fencedNow scope.wide true (if scope.wide ∨ win rs then scope else .d) = some u →
      exec (.stRel scope size d a imm) s =
        .next ((if scope.wide then u.releaseRuns rs (bytesOf n (u.rd d).toNat)
          else u.storeRuns rs (bytesOf n (u.rd d).toNat)).retire)

/-- R102: a release of a wide scope writes its bytes at the LLC and in its die's copy; no other byte of the LLC changes and
none that the die sees. -/
def Claims.ReleaseWrites : Prop :=
  ∀ (s : State) (pa : Nat) (bs : List Byte), s.safe = true → inWindow pa = false → bs.length ≤ 64 →
    Claims.roomFor s s.core pa bs.length →
    let t := s.releaseRuns [(pa, bs.length)] bs
    (∀ i, ∀ h : i < bs.length, Memory.get t.mem (pa + i) = bs[i] ∧ t.seen s.die (pa + i) = bs[i]) ∧
    ∀ a, a < pa ∨ pa + bs.length ≤ a → Memory.get t.mem a = Memory.get s.mem a ∧ t.seen s.die a = s.seen s.die a

/-! ### Control transfers (R153, R222 to R225) -/

/-- R153: a transfer that pops nothing moves the chain to (NPC, NNPC, T), NUL to (NUL[1] or z, z) and SL to (1, 1); the
context stays READY and nothing else of the module changes. -/
def Claims.TransferMovesChain : Prop :=
  ∀ (s : State) (t : Word) (z : Bool), s.cx.popped = [] →
    s.retireTo t z = s.modCx fun x =>
      { x with pc := x.npc, npc := x.nnpc, nnpc := t, nul0 := x.nul1 || z, nul1 := z, sl0 := true, sl1 := true,
               popped := [], mode := .ready, wait := none, waited := 0, woken := false, waking := false, latch := none }

/-- Conditions of R222 against zero. -/
noncomputable def Claims.tableBranch1 : List ((BrForm → SReg → Word → Instr) × (Word → Prop)) :=
  [(.brEq, fun x => x = 0), (.brNe, fun x => x ≠ 0), (.brLt, fun x => x.toInt < 0), (.brGe, fun x => 0 ≤ x.toInt)]

/-- Conditions of R222 between two registers. -/
noncomputable def Claims.tableBranch2 : List ((BrForm → SReg → SReg → Word → Instr) × (Word → Word → Prop)) :=
  [(.brEqTwoReg, fun x y => x = y), (.brNeTwoReg, fun x y => x ≠ y), (.brLtTwoReg, fun x y => x.toInt < y.toInt),
   (.brGeTwoReg, fun x y => y.toInt ≤ x.toInt), (.brLtu, fun x y => x.toNat < y.toNat),
   (.brGeu, fun x y => y.toNat ≤ x.toNat)]

/-- R222: a taken branch transfers to its target, nullifying its slots in form .n; one that is not taken transfers to
NextAddr(NNPC), nullifying its slots in form .t. -/
def Obligations.BranchResult : Prop :=
  (∀ p ∈ Claims.tableBranch1, ∀ (form : BrForm) (a : SReg) (imm : Word) (s : State), s.canBegin [a] [] = true →
    (p.2 (s.rd a) →
      exec (p.1 form a imm) s = .next ((s.started [a]).retireTo (s.cx.pc + 2 * imm) (decide (form = .n)))) ∧
    (¬ p.2 (s.rd a) →
      exec (p.1 form a imm) s = .next ((s.started [a]).retireTo s.cx.nextAddr (decide (form = .t))))) ∧
  ∀ p ∈ Claims.tableBranch2, ∀ (form : BrForm) (a b : SReg) (imm : Word) (s : State), s.canBegin [a, b] [] = true →
    (p.2 (s.rd a) (s.rd b) →
      exec (p.1 form a b imm) s = .next ((s.started [a, b]).retireTo (s.cx.pc + 2 * imm) (decide (form = .n)))) ∧
    (¬ p.2 (s.rd a) (s.rd b) →
      exec (p.1 form a b imm) s = .next ((s.started [a, b]).retireTo s.cx.nextAddr (decide (form = .t))))

/-- R223, R224: the jumps and calls; a call writes NextAddr(NNPC) to s1, a register-indirect one faults FETCH_ALIGN on an
odd target before it writes s1.
It rests on readings of the model: log entries 14 and 133. -/
def Obligations.JumpResult : Prop :=
  (∀ (imm : Word) (s : State), s.canBegin [] [] = true →
    exec (.j imm) s = .next ((s.started []).retireTo (s.cx.pc + 2 * imm) false)) ∧
  (∀ (imm : Word) (s : State), s.canBegin [] [1] = true →
    exec (.jal imm) s = .next (((s.started []).wr 1 s.cx.nextAddr).retireTo (s.cx.pc + 2 * imm) false)) ∧
  (∀ (a : SReg) (imm : Word) (s : State), s.canBegin [a] [] = true →
    let t := s.rd a + 2 * imm
    exec (.jr a imm) s =
      .next (if t.toNat % 2 = 1 then (s.started [a]).takeFault 0x0003 0 t else (s.started [a]).retireTo t false)) ∧
  ∀ (a : SReg) (imm : Word) (s : State), s.canBegin [a] [1] = true →
    let t := s.rd a + 2 * imm
    exec (.jalr a imm) s =
      .next (if t.toNat % 2 = 1 then (s.started [a]).takeFault 0x0003 0 t
        else ((s.started [a]).wr 1 s.cx.nextAddr).retireTo t false)

/-- R154, R155: a nullified instruction has no effect but that the words at NNPC are fetched; the chain moves on, or the
fault of that fetch is taken. -/
def Claims.NullifiedHasNoEffect : Prop :=
  ∀ s : State, s.cx.nul0 = true →
    (∀ t, s.withNext = .ok t → exec .nullifiedInstruction s = .next (t.modCx Claims.steppedCtx)) ∧
    ∀ f, s.withNext = .error f → exec .nullifiedInstruction s = .next (s.takeFault f.code f.info f.addr)


/-! ### Atomics, fences, cache maintenance and channels (R103, R104, R116, R230 to R235) -/

/-- The atomics of two operands, each in every scope, and what they make of the old value and S(b) (R230). -/
noncomputable def Claims.tableAtomics : List ((Scope → SReg → SReg → SReg → Instr) × (Word → Word → Word)) :=
  [(fun sc d a b => if sc = .c then .amoAdd d a b else .amoAddScoped sc d a b, fun x y => x + y),
   (fun sc d a b => if sc = .c then .amoAnd d a b else .amoAndScoped sc d a b, fun x y => x &&& y),
   (fun sc d a b => if sc = .c then .amoOr d a b else .amoOrScoped sc d a b, fun x y => x ||| y),
   (fun sc d a b => if sc = .c then .amoXor d a b else .amoXorScoped sc d a b, fun x y => x ^^^ y),
   (fun sc d a b => if sc = .c then .amoMin d a b else .amoMinScoped sc d a b,
     fun x y => if x.toInt < y.toInt then x else y),
   (fun sc d a b => if sc = .c then .amoMax d a b else .amoMaxScoped sc d a b,
     fun x y => if x.toInt < y.toInt then y else x),
   (fun sc d a b => if sc = .c then .amoSwap d a b else .amoSwapScoped sc d a b, fun _ y => y)]

/-- R230, R231: what an atomic `i` of operands `srcs` at the address S(a) does, `f` taking the old value to the new. -/
def Claims.AtomicDoes (i : Instr) (sc : Scope) (d a : SReg) (srcs : List SReg) (f : Word → Word) (s : State) : Prop :=
  ((s.rd a).toNat % 8 ≠ 0 → s.canStart srcs [d] = true →
      exec i s = .next ((s.started srcs).takeFault 0x0004 0 (s.rd a))) ∧
    ∀ (t u : State) (pa n : Nat) (rs : Runs), (s.rd a).toNat % 8 = 0 → s.canBegin srcs [d] = true →
      (s.started srcs).accessNow .atomic (s.rd a) 8 [d] = some (t, (pa, n) :: rs) →
      (inWindow pa = false → t.fencedNow true true (if sc.wide then sc else .d) = some u →
        exec i s = .next ((u.memAtomic sc.wide pa f).1.result d (u.memAtomic sc.wide pa f).2)) ∧
      (inWindow pa = true → t.fencedNow true true sc = some u → u.portReady pa f = true →
        exec i s = .next ((u.portAtomic pa f).1.result d (u.portAtomic pa f).2))

/-- R230: every atomic, in every scope, returns the old value and stores the new one at the place of its scope. -/
def Claims.AtomicResult : Prop :=
  (∀ p ∈ Claims.tableAtomics, ∀ (sc : Scope) (d a b : SReg) (s : State),
    Claims.AtomicDoes (p.1 sc d a b) sc d a [a, b] (fun old => p.2 old (s.rd b)) s) ∧
  ∀ (sc : Scope) (d a b : SReg) (c : CReg) (s : State),
    Claims.AtomicDoes (if sc = .c then .amoCas d a b c else .amoCasScoped sc d a b c) sc d a [a, b, c.setWidth 5]
      (fun old => if old = s.rdC c then s.rd b else old) s

/-- R116, R230: an atomic of a narrow scope acts on the die's copy, and leaves the LLC alone while the L1 has room for the
line; one of a wide scope acts at the LLC once the die's dirty bytes are laid over its line there, after which the die holds
no copy of the line. Each returns the old 8 bytes, and no byte outside them changes. -/
def Claims.AtomicActsInPlace : Prop :=
  ∀ (s : State) (pa : Nat) (f : Word → Word), pa % 8 = 0 → s.safe = true →
    (let r := s.memAtomic false pa f
     r.2 = BitVec.ofNat 64 (natOf ((List.range 8).map fun i => s.seen s.die (pa + i))) ∧
     (∀ i, i < 8 → r.1.seen s.die (pa + i) = (bytesOf 8 (f r.2).toNat).getD i 0) ∧
     (Claims.roomFor s s.core pa 8 → r.1.mem = s.mem ∧
       ∀ a, a < pa ∨ pa + 8 ≤ a → r.1.seen s.die a = s.seen s.die a)) ∧
    (let r := s.memAtomic true pa f
     let laid (a : Nat) : Byte := match s.copyOf s.die (lineOf a) with
       | some l => if l.dirty.getLsbD (a % 32) then l.bytes[a % 32]'(Nat.mod_lt _ (by decide)) else Memory.get s.mem a
       | none => Memory.get s.mem a
     r.2 = BitVec.ofNat 64 (natOf ((List.range 8).map fun i => laid (pa + i))) ∧
     (∀ i, i < 8 → Memory.get r.1.mem (pa + i) = (bytesOf 8 (f r.2).toNat).getD i 0) ∧
     (∀ a, lineOf a = lineOf pa → a < pa ∨ pa + 8 ≤ a → Memory.get r.1.mem a = laid a) ∧
     r.1.copyOf s.die (lineOf pa) = none ∧
     ∀ a, lineOf a ≠ lineOf pa → Memory.get r.1.mem a = Memory.get s.mem a ∧ r.1.seen s.die a = s.seen s.die a)

/-- R93, R113, R114, R231: an atomic at a window acts at the port that owns it, as one piece with one arrival number, which a
core that is not the owner has traced. It returns the old 8 bytes. TAIL takes the new value as a plain write of it, RESV takes
it, PORTSTAT clears the bits it holds 1, the scratchpad and the inbox hold its bytes, and a bound register slot discards it.
Nothing outside the owner's core and grove changes. -/
def Claims.AtomicAtPort : Prop :=
  ∀ (s : State) (pa : Nat) (f : Word → Word), inWindow pa = true → pa % 8 = 0 →
    let dst := winCore pa
    let off := winOff pa
    let u := s.reach s.core dst
    let p := (u.getCore dst).port
    let r := s.portAtomic pa f
    let new := f r.2
    let q := (r.1.getCore dst).port
    r.2 = BitVec.ofNat 64 (natOf ((List.range 8).map fun i => u.winSeen (pa + i))) ∧
    q.seq = p.seq + 1 ∧ q.traceCount = (if dst = s.core then p.traceCount else p.traceCount + 1) ∧
    (off = 0x49000 →
      q.tail = (if new.toNat ≤ p.head.toNat + 64 ∧ p.tail.toNat < new.toNat then new else p.tail) ∧
      q.ovr = (p.ovr || decide (p.head.toNat + 64 < new.toNat))) ∧
    (off = 0x49010 → q.resv = new) ∧ (off ≠ 0x49010 → q.resv = p.resv) ∧
    (off = 0x49018 → q.ovr = (p.ovr && !new.getLsbD 0) ∧ (dst = s.core → q.wrap = (p.wrap && !new.getLsbD 1))) ∧
    (off < 0x40000 → Memory.wf (u.getCore dst).scratch = true →
      (∀ i < 8, Memory.get (r.1.getCore dst).scratch (off + i) = (bytesOf 8 new.toNat).getD i 0) ∧
      ∀ a, a < off ∨ off + 8 ≤ a → Memory.get (r.1.getCore dst).scratch a = Memory.get (u.getCore dst).scratch a) ∧
    (0x48000 ≤ off → off < 0x49000 → Memory.wf p.inbox = true →
      (∀ i < 8, Memory.get q.inbox (off - 0x48000 + i) = (bytesOf 8 new.toNat).getD i 0) ∧
      ∀ a, a < off - 0x48000 ∨ off - 0x48000 + 8 ≤ a → Memory.get q.inbox a = Memory.get p.inbox a) ∧
    (∀ k i, k < 11 → i < 32 → off = 0x45000 + 256 * k + 8 * i → i = 0 ∨ (u.getCtx dst k).bound i = true →
      r.2 = 0 ∧ (r.1.getCtx dst k).regs = (u.getCtx dst k).regs) ∧
    r.1.mem = u.mem ∧ r.1.dies = u.dies ∧ ∀ c, c ≠ dst → r.1.getCore c = u.getCore c

/-- R103, R232: a fence whose earlier accesses are complete retires; after one of class w or rw no store of its context
is left in the store buffer and no maintenance operation of it goes on, and one of scope .y follows the acknowledgement of each
send of its context. One whose earlier accesses are not complete waits. -/
def Obligations.FenceResult : Prop :=
  ∀ (sc : Scope) (cls : FenceClass) (s : State),
    let now := (s.started []).fencedNow (decide (cls ≠ .w)) (decide (cls ≠ .r)) sc
    (∀ t, now = some t →
      exec (.fence sc cls) s = .next t.retire ∧
      (cls ≠ .r → (∀ e ∈ t.me.sb, e.ctx ≠ s.ctx) ∧ (∀ j ∈ t.me.cmos, j.ctx ≠ s.ctx) ∧
        (sc = .y → ∀ e ∈ t.me.eps, e.2.unacked.getLsbD s.ctx = false))) ∧
    (now = none → ∃ t, exec (.fence sc cls) s = .next t ∧ t.cx.mode = .waiting ∧
      (t.cx.wait.map fun w => w.obj) = some (.fence (decide (cls ≠ .w)) (decide (cls ≠ .r)) sc) ∧ t.cx.pc = s.cx.pc)

/-- The cache maintenance instructions: operation and level (R104). -/
noncomputable def Claims.tableCmo : List ((SReg → SReg → Word → Instr) × CmoKind × CmoLevel) :=
  [(.cmoCleanL1, .clean, .l1), (.cmoCleanLlc, .clean, .llc), (.cmoCleanMem, .clean, .mem), (.cmoInvL1, .inv, .l1),
   (.cmoInvLlc, .inv, .llc), (.cmoInvMem, .inv, .mem), (.cmoClinvL1, .clinv, .l1), (.cmoClinvLlc, .clinv, .llc),
   (.cmoClinvMem, .clinv, .mem)]

/-- R233: a maintenance instruction of length 0 does nothing; else it checks its pages, faults or retires, and its line
operations go on. -/
def Claims.MaintenanceResult : Prop :=
  ∀ p ∈ Claims.tableCmo, ∀ (a d : SReg) (imm : Word) (s : State), s.canBegin [a, d] [] = true →
    let n := (s.rd d + imm).toNat
    let u := s.started [a, d]
    let checked := u.cmoRange (if p.2.1 = .inv then .write else .read) (s.rd a) n
    (n = 0 → exec (p.1 a d imm) s = .next u.retire) ∧
    (∀ f, n ≠ 0 → checked = .error f → exec (p.1 a d imm) s = .next (u.takeFault f.code f.info f.addr)) ∧
    ∀ rs t, n ≠ 0 → checked = .ok (rs, t) →
      exec (p.1 a d imm) s =
        .next ((t.modMe fun c =>
          { c with cmos := c.cmos ++
              [{ ctx := s.ctx, kind := p.2.1, level := p.2.2, ranges := rs, mark := c.sbOut + lastTo c.sb s.ctx rs,
                 seq := c.seq }] }).retire)

/-- R88, R104, R233: the end of a core's oldest maintenance operation. To one line, a clean past the L1 writes every dirty byte
to the LLC and keeps the line; an invalidation removes the line and writes nothing to the LLC; a clean and invalidation does
both. An operation that includes GDDR 7 leaves there what the LLC holds of the line; an invalidation past the L1 takes the line out
of its LLC slice. -/
def Claims.LineOperations : Prop :=
  (∀ (core : Nat) (s : State) (j : CmoJob) (rest : List CmoJob), (s.getCore core).cmos = j :: rest →
    s.cmoReady core j = true → ∃ t, exec (.cmoLineOperationsDone core) s = .next t ∧ (t.getCore core).cmos = rest) ∧
  ∀ (die line : Nat) (lv : CmoLevel) (l : Line) (s : State), s.safe = true → s.storesOk = true →
    s.copyOf die line = some l →
    let held (t : State) : Prop :=
      ∀ i < 32, Memory.get (t.getMem (homeDie (32 * line))).gddr (32 * line + i) = Memory.get t.mem (32 * line + i)
    let written (t : State) : Prop :=
      ∀ i, ∀ h : i < 32, Memory.get t.mem (32 * line + i) =
        if l.dirty.getLsbD i then l.bytes[i] else Memory.get s.mem (32 * line + i)
    s.cmoLine die .clean .l1 line = s ∧
    (lv ≠ .l1 → written (s.cmoLine die .clean lv line) ∧
      (s.cmoLine die .clean lv line).copyOf die line = some { l with dirty := 0 }) ∧
    written (s.cmoLine die .clinv lv line) ∧ (s.cmoLine die .inv lv line).mem = s.mem ∧
    (s.cmoLine die .clinv lv line).copyOf die line = none ∧ (s.cmoLine die .inv lv line).copyOf die line = none ∧
    held (s.cmoLine die .clean .mem line) ∧
    (lv ≠ .l1 → held (s.cmoLine die .clinv lv line) ∧ held (s.cmoLine die .inv lv line) ∧
      ((s.cmoLine die .clinv lv line).getMem (homeDie (32 * line))).holds (line / 2) = false ∧
      ((s.cmoLine die .inv lv line).getMem (homeDie (32 * line))).holds (line / 2) = false)

/-- R234: chbind binds a free endpoint of the unit, whatever the register held before, and frees any other register of
the context that was bound to it; a busy endpoint faults CHAN_BUSY, one that cannot be bound CHAN_ENDPOINT. -/
def Claims.ChannelBind : Prop :=
  ∀ (r : BitVec 3) (endpoint : BitVec 6) (s : State),
    let e := endpoint.toNat
    let busy := ∃ k < 11, k ≠ s.ctx ∧ (s.getCtx s.core k).binds e = true
    let bad := s.declaredEp e = false ∨ ((s.getEp s.core e).send = true ∧ (s.getEp s.core e).words ≠ 1)
    (busy → exec (.chbind r endpoint) s = .next ((s.started []).fault 0x000C)) ∧
    (¬ busy → bad → exec (.chbind r endpoint) s = .next ((s.started []).fault 0x000D)) ∧
    (¬ busy → ¬ bad →
      exec (.chbind r endpoint) s =
        .next (((s.started []).modCx fun x => { x with chbind := bindReg x.chbind r.toNat e }).retire) ∧
      ∀ (w : Word) (i : Nat), i < 8 →
        bits (bindReg w r.toNat e).toNat (8 * i + 7) (8 * i) =
          if i = r.toNat then 128 + e
          else if bits w.toNat (8 * i + 7) (8 * i) = 128 + e then 0 else bits w.toNat (8 * i + 7) (8 * i))

/-- R107, R235, R398: chsend sends the message whole from memory once a grant is held and a port can carry it; a descriptor for
the exchange engine follows the context's buffered stores; the faults come first. -/
def Claims.ChannelSend : Prop :=
  ∀ (a b : SReg) (s : State), s.canBegin [a, b] [] = true →
    let u := s.started [a, b]
    let e := (s.rd a).toNat
    let m := (s.getEp s.core e).words
    let bad := 63 < e ∨ s.declaredEp e = false ∨ (s.getEp s.core e).send = false
    (bad → exec (.chsend a b) s = .next (u.fault 0x000D)) ∧
    (¬ bad → (s.rd b).toNat % 8 ≠ 0 → exec (.chsend a b) s = .next (u.takeFault 0x0004 0 (s.rd b))) ∧
    (∀ f, ¬ bad → (s.rd b).toNat % 8 = 0 → u.accessFault .read (s.rd b) (8 * m) = some f →
      exec (.chsend a b) s = .next (u.takeFault f.code f.info f.addr)) ∧
    ∀ checked v t rs, ¬ bad → (s.rd b).toNat % 8 = 0 → u.access u.core .read (s.rd b) (8 * m) = .ok (checked, v) →
      (s.getEp s.core e).grants ≠ 0 → v.linkUp (s.getEp s.core e) = true →
      ((s.getEp s.core e).isExchange = true → v.drainable v.core v.ctx = true) →
      (if (s.getEp s.core e).isExchange then v.drainCtx v.core v.ctx else v).accessNow .read (s.rd b) (8 * m) [] =
        some (t, rs) →
      let w := t.readIn rs
      exec (.chsend a b) s = .next ((w.sendMsg w.core w.ctx e (wordsOf m (w.loadRuns rs))).retire)

/-! ### Control registers, traps and their return (R151, R300 to R311, R329, R330) -/

/-- R151: the control registers that cget reads, but for POOLBOUND. -/
def Claims.controlRegister (s : State) : Nat → Option Word
  | 0 => some s.me.fmode
  | 1 => some (s.me.fstat.setWidth 64)
  | 2 => some (s.me.share.setWidth 64)
  | 3 => some s.cx.chbind
  | 5 => some (s.me.seq.setWidth 64)
  | 6 => some s.time
  | 7 => some s.cx.xpc
  | 8 => some s.cx.xnpc
  | 9 => some s.cx.xnnpc
  | 10 => some (s.cx.xnul.setWidth 64)
  | 11 => some s.mine.journal
  | _ => none

/-- R300: cget writes the register's value; POOLBOUND holds the selected pool, its LIMIT, the partition's dies and its
BOUND (R306); a number above 11 traps ILLEGAL, and so does a bound destination (R298). -/
def Claims.ControlRead : Prop :=
  ∀ (d : SReg) (imm : Word) (s : State),
    (s.isBound d = true → exec (.cget d imm) s = .next s.illegal) ∧
    (s.isBound d = false → s.canBegin [] [d] = true →
      (∀ v, Claims.controlRegister s imm.toNat = some v → exec (.cget d imm) s = .next ((s.started []).result d v)) ∧
      (imm.toNat = 4 → ∃ v : Word, exec (.cget d imm) s = .next ((s.started []).result d v) ∧
        bits v.toNat 63 62 = 0 ∧ bits v.toNat 61 56 = s.cx.poolSel.toNat ∧ bits v.toNat 55 48 = 0 ∧
        bits v.toNat 47 32 = (s.getPool s.part s.cx.poolSel.toNat).limit.toNat ∧
        bits v.toNat 31 16 = s.k ∧ bits v.toNat 15 0 = (s.getPool s.part s.cx.poolSel.toNat).bound.toNat) ∧
      (11 < imm.toNat → exec (.cget d imm) s = .next (s.started []).illegal))

/-- R300, R302 to R304, R308, R309: what cput writes in each register, and the values each refuses with ILLEGAL; the
registers that are read only refuse every value. `journalWrite` is the same write to JOURNAL. -/
def Claims.ControlWrite : Prop :=
  ∀ (a : SReg) (imm : Word) (s : State), s.canBegin [a] [] = true →
    let u := s.started [a]
    let w := s.rd a
    let x := w.toNat
    let n := imm.toNat
    let ill : Result := .next (u.fault 0x0001)
    (n = 0 → exec (.cput a imm) s =
      if bits x 31 6 ≠ 0 ∨ 5 ≤ bits x 2 0 then ill else .next (u.modMe fun c => { c with fmode := w }).retire) ∧
    (n = 1 → exec (.cput a imm) s =
      if bits x 63 11 ≠ 0 ∨ bits x 7 5 ≠ 0 then ill
      else .next (u.modMe fun c => { c with fstat := BitVec.ofNat 11 x }).retire) ∧
    (n = 2 → exec (.cput a imm) s =
      if 1 ≤ x ∧ x ≤ 8 then .next (u.modMe fun c => { c with share := BitVec.ofNat 4 x }).retire else ill) ∧
    (n = 3 ∨ n = 5 ∨ n = 6 ∨ 11 < n → exec (.cput a imm) s = ill) ∧
    (n = 7 → exec (.cput a imm) s = .next (u.modCx fun c => { c with xpc := w }).retire) ∧
    (n = 8 → exec (.cput a imm) s = .next (u.modCx fun c => { c with xnpc := w }).retire) ∧
    (n = 9 → exec (.cput a imm) s = .next (u.modCx fun c => { c with xnnpc := w }).retire) ∧
    (n = 10 → exec (.cput a imm) s =
      if x < 32 then .next (u.modCx fun c => { c with xnul := BitVec.ofNat 5 x }).retire else ill) ∧
    (n = 11 → exec (.cput a imm) s = exec (.journalWrite a) s) ∧
    exec (.journalWrite a) s = if s.ctx ≠ 0 ∨ journalBad w = true then ill else .next (u.setJournal w).retire

/-- R306: cput to POOLBOUND. With WR = 0 it selects the pool; with WR = 1 it also sets BOUND and LIMIT of that pool. A
reserved bit traps ILLEGAL, a pool that the partition lacks POOL_BOUND, and so do a BOUND or LIMIT out of range. -/
def Claims.PoolBoundWrite : Prop :=
  ∀ (a : SReg) (s : State), s.canBegin [a] [] = true →
    let u := s.started [a]
    let x := (s.rd a).toNat
    let pool := bits x 61 56
    let b := bits x 15 0
    let l := bits x 47 32
    (∀ imm : Word, imm.toNat = 4 →
      exec (.cput a imm) s = if bits x 63 63 = 1 then exec (.poolboundWrite a) s else exec (.poolboundSelect a) s) ∧
    let reserved := bits x 62 62 ≠ 0 ∨ bits x 55 48 ≠ 0
    let v := u.modCx fun c => { c with poolSel := BitVec.ofNat 6 pool }
    (reserved → exec (.poolboundSelect a) s = .next (u.fault 0x0001) ∧ exec (.poolboundWrite a) s = .next (u.fault 0x0001)) ∧
    (¬ reserved → s.poolsPer ≤ pool →
      exec (.poolboundSelect a) s = .next (u.fault 0x000F) ∧ exec (.poolboundWrite a) s = .next (u.fault 0x000F)) ∧
    (¬ reserved → pool < s.poolsPer →
      exec (.poolboundSelect a) s = .next v.retire ∧
      (b = 0 ∨ (2 ≤ b ∧ b < s.k) ∨ l < 64 → exec (.poolboundWrite a) s = .next (u.fault 0x000F)) ∧
      (b ≠ 0 → (b < 2 ∨ s.k ≤ b) → 64 ≤ l →
        exec (.poolboundWrite a) s =
          .next (v.modPool v.part pool fun p => p.setBound v.k (BitVec.ofNat 16 b) (BitVec.ofNat 16 l)).retire))

/-- R329, R330: trap entry saves the chain in the X registers, stores the 64 bytes of the record at TRB, sets TL and
starts the chain at TVB + 0x40 × class. The registers, the flags, module memory and every other core stay. -/
def Claims.TrapEntry : Prop :=
  ∀ (s s' : State) (t : TrapInfo) (rs : Runs),
    ((s.leaveWait s.core s.ctx).modCx Ctx.saveChain).recordAccess = .ok (rs, s') → (∀ r ∈ rs, inWindow r.1 = false) →
    let r := s.trapEntry t
    let x := s.cx
    let y := r.cx
    y.pc = s'.mine.desc.tvb + BitVec.ofNat 64 (0x40 * t.cls) ∧ y.fresh = true ∧ y.nul0 = false ∧ y.nul1 = false ∧
    y.sl0 = false ∧ y.sl1 = false ∧ y.tl = true ∧ y.mode = .ready ∧ y.xpc = x.pc ∧
    (x.fresh = true → y.xnpc = 0 ∧ y.xnnpc = 0 ∧ y.xnul = 16) ∧
    (x.fresh = false → y.xnpc = x.npc ∧ y.xnnpc = x.nnpc ∧
      y.xnul = BitVec.ofNat 5 (x.nul0.toNat + 2 * x.nul1.toNat + 4 * x.sl0.toNat + 8 * x.sl1.toNat)) ∧
    y.regs = x.regs ∧ y.chbind = x.chbind ∧ (t.bytes s'.time).length = 64 ∧
    r.me.sb = s'.me.sb ++ (cutRuns rs (t.bytes s'.time)).map (fun p => { ctx := s'.ctx, pa := p.1, bytes := p.2 }) ∧
    r.mem = s'.mem ∧ r.me.fmode = s'.me.fmode ∧ r.me.fstat = s'.me.fstat ∧
    ∀ c, c ≠ s'.core → r.getCore c = s'.getCore c

/-- R310, R329, R332, R333: the four entries. The trap instruction retires and enters class TRAP with its code; a
precise fault enters class FAULT with its code, detail and address; a late fault, which ends the flush of its queue (R339), and a due TIMER enter the
control context when it can take them. At TL 1 the first two are double traps instead. -/
def Claims.TrapEntries : Prop :=
  (∀ (imm : Word) (s : State), (s.started []).recordOwned = false →
    let u := s.started []
    let t : TrapInfo :=
      { cls := 1, info := 0, faddr := 0, seq := 0, code := imm.setWidth 16, more := false, fault := 0, iaddr := s.cx.pc }
    exec (.trap imm) s =
      .next (if s.cx.tl then u.doubleTrap t 0 s.cx.handling else (u.modCx Claims.steppedCtx).trapEntry t)) ∧
  (∀ (code : BitVec 16) (info faddr : Word) (s : State), s.cx.mode = .ready → preciseCode code = true →
    let u := s.modCx fun x => { x with popped := [] }
    let t : TrapInfo :=
      { cls := 0, info := info, faddr := faddr, seq := 0, code := 0, more := false, fault := code, iaddr := s.cx.pc }
    u.recordOwned = false →
    exec (.faultTrapEntry code info faddr) s =
      .next (if s.cx.tl then u.doubleTrap t code s.cx.handling else u.trapEntry t)) ∧
  (∀ (core : Nat) (s : State) (l : LatePend),
    let c := s.getCore core
    let rest := c.late.filter fun m => !(m.seq == l.seq)
    l ∈ c.late → (∀ m ∈ c.late, m ≠ l → (c.seq - m.seq).toNat < (c.seq - l.seq).toNat) → c.deliverable = true →
    (s.on core 0).recordOwned = false →
    let ends (v : Bool) : Bool := l.queue == some v && !(rest.any fun m => m.queue == some v)
    exec (.lateTrapEntry core) s =
      .next (((s.modCore core fun c =>
          { c with late := rest, flush := c.flush && !ends true, flushF := c.flushF && !ends false }).on core 0).trapEntry
        { cls := 2, info := l.info, faddr := l.faddr, seq := l.seq, code := 0, more := !rest.isEmpty, fault := l.code,
          iaddr := l.addr })) ∧
  ∀ (core : Nat) (s : State), (s.getCtx core 0).timerPend = true → (s.getCore core).deliverable = true →
    (s.getCore core).late = [] → (s.getCtx core 0).inBarrier = false → (s.on core 0).recordOwned = false →
    exec (.timerTrapEntry core) s =
      .next (((s.modCtx core 0 fun x => { x with timerPend := false }).on core 0).trapEntry
        { cls := 3, info := 0, faddr := 0, seq := 0, code := 0, more := false, fault := 0, iaddr := 0 })

/-- R311: eret restores the chain of the X registers and clears TL; a saved chain with FRESH set is formed anew from XPC;
in a delay slot it traps ILLEGAL, and a saved address that is odd faults FETCH_ALIGN. -/
def Claims.ExceptionReturn : Prop :=
  ∀ s : State,
    let u := s.started []
    let x := s.cx
    let odd (w : Word) : Prop := w.toNat % 2 = 1
    let fresh := 16 ≤ x.xnul.toNat
    (x.sl0 = true → exec .eret s = .next u.illegal) ∧
    (x.sl0 = false → odd x.xpc → exec .eret s = .next (u.takeFault 0x0003 0 x.xpc)) ∧
    (x.sl0 = false → ¬ odd x.xpc → fresh →
      exec .eret s = .next (u.modCx fun c =>
        { (c.sequential x.xpc).settled with tl := false, handling := 0 })) ∧
    (x.sl0 = false → ¬ odd x.xpc → ¬ fresh → odd x.xnpc → exec .eret s = .next (u.takeFault 0x0003 0 x.xnpc)) ∧
    (x.sl0 = false → ¬ odd x.xpc → ¬ fresh → ¬ odd x.xnpc → odd x.xnnpc →
      exec .eret s = .next (u.takeFault 0x0003 0 x.xnnpc)) ∧
    (x.sl0 = false → ¬ odd x.xpc → ¬ fresh → ¬ odd x.xnpc → ¬ odd x.xnnpc →
      exec .eret s = .next (u.modCx fun c =>
        { c.settled with pc := x.xpc, npc := x.xnpc, nnpc := x.xnnpc, nul0 := x.xnul.getLsbD 0,
                         nul1 := x.xnul.getLsbD 1, sl0 := x.xnul.getLsbD 2, sl1 := x.xnul.getLsbD 3, fresh := false,
                         tl := false, handling := 0 }))


/-! ### Helpers, barriers and who may issue what (R35, R44 to R46, R312 to R314, R325 to R327) -/

/-- The instructions that only a control context may issue (R35). -/
def Claims.controlOnly : Instr → Prop
  | .hstart _ _ _ | .hjoin _ _ | .gcancel _ _ | .garm _ _ | .larm _ _ | .lpatch _ _ _ | .barInit _ _ _
  | .barWait _ _ | .barVote _ _ _ _ | .itake _ | .irel _ | .iwait _ | .iwaitP _ _ | .gdone => True
  | .mlease | .mleaseRel | .mloadW _ _ | .mswap | .mmac _ _ _ | .mgrp _ _ _ _ | .mst _ _ | .mzero _ | .mloadT _ _ _ => True
  | .vaddF32 _ _ _ _ | .vsubF32 _ _ _ _ | .vmulF32 _ _ _ _ | .vfmaF32 _ _ _ _ | .vminF32 _ _ _ _ | .vmaxF32 _ _ _ _
  | .vdivF32 _ _ _ _ | .vsqrtF32 _ _ _ | .vaddF64 _ _ _ _ | .vsubF64 _ _ _ _ | .vmulF64 _ _ _ _ | .vfmaF64 _ _ _ _
  | .vminF64 _ _ _ _ | .vmaxF64 _ _ _ _ | .vdivF64 _ _ _ _ | .vsqrtF64 _ _ _ | .vaddI32 _ _ _ _ | .vsubI32 _ _ _ _
  | .vmulI32 _ _ _ _ | .vand _ _ _ _ | .vor _ _ _ _ | .vxor _ _ _ _ | .vsllI32 _ _ _ _ | .vsrlI32 _ _ _ _
  | .vsraI32 _ _ _ _ | .vminI32 _ _ _ _ | .vmaxI32 _ _ _ _ | .vminuI32 _ _ _ _ | .vmaxuI32 _ _ _ _
  | .vaddsI32 _ _ _ _ | .vsubsI32 _ _ _ _ | .vmulhI32 _ _ _ _ | .vaddI64 _ _ _ _ | .vsubI64 _ _ _ _
  | .vmulI64 _ _ _ _ | .vsllI64 _ _ _ _ | .vsrlI64 _ _ _ _ | .vsraI64 _ _ _ _ | .vminI64 _ _ _ _ | .vmaxI64 _ _ _ _
  | .vceqF32 _ _ _ _ | .vcltF32 _ _ _ _ | .vcleF32 _ _ _ _ | .vceqI32 _ _ _ _ | .vcltI32 _ _ _ _ | .vcltuI32 _ _ _ _
  | .vceqF64 _ _ _ _ | .vcltF64 _ _ _ _ | .kand _ _ _ | .kor _ _ _ | .kxor _ _ _ | .kandn _ _ _ | .vsel _ _ _ _
  | .vbcast _ _ _ | .vmovs _ _ _ _ | .kpop _ _ _ | .vldW _ _ _ _ | .vldD _ _ _ _ | .vstW _ _ _ _ | .vstD _ _ _ _
  | .vldxW _ _ _ _ | .vstxW _ _ _ _ | .kld _ _ | .kst _ _ | .vredsumF32 _ _ _ | .vredmaxF32 _ _ _
  | .vredminF32 _ _ _ | .vredsumF64 _ _ _ | .vredsumI32 _ _ _ | .vredmaxI32 _ _ _ | .vredsumI64 _ _ _
  | .vredor _ _ _ | .vperm _ _ _ | .vslide _ _ _ | .vfsl _ _ _ _ | .vfsr _ _ _ _ | .vlut3 _ _ _ _ | .vrng _ _ _
  | .vcvtF32I32 _ _ | .vcvtI32F32 _ _ | .vcvtF64F32 _ _ | .vcvtF32F64 _ _ | .vcvtF16F32 _ _ | .vcvtF32F16 _ _
  | .vcvtBf16F32 _ _ | .vcvtF32Bf16 _ _ | .vscanF32 _ _ _ | .vscanI32 _ _ _ | .vsortxF32 _ _ _ | .vexp2F32 _ _ _
  | .venc _ _ _ | .vdec _ _ _ => True
  | .afcfgClaim _ _ | .afcfgRel | .afcfg _ _ | .afscale _ | .afrun | .afwait _ | .afwaitTry _ | .afsamp _ _ _ => True
  | _ => False

/-- R35, R193: a helper that issues an instruction reserved to the control context takes ILLEGAL, and nothing else
happens. -/
def Claims.HelperTrapsIllegal : Prop :=
  ∀ (i : Instr) (s : State), Claims.controlOnly i → s.ctx ≠ 0 → exec i s = .next s.illegal

/-- R312 to R314: hstart starts the lowest FREE helper sequentially at its entry with S(a) in its s2, or writes 0 when
none is FREE; hexit frees a helper, of which only the scalar registers are left (R17), and traps ILLEGAL in the control context or in a slot; hjoin retires
once every helper of the mask is FREE, waits until then, and traps ILLEGAL on an immediate above 1023. -/
def Claims.HelperInstructions : Prop :=
  (∀ (d a : SReg) (imm : Word) (s : State), s.ctx = 0 → s.isBound d = false → s.canBegin [a] [d] = true →
    let u := s.started [a]
    ((∀ h, 1 ≤ h → h ≤ 10 → (s.getCtx s.core h).mode ≠ .free) → exec (.hstart d a imm) s = .next (u.result d 0)) ∧
    ∀ h, 1 ≤ h → h ≤ 10 → (s.getCtx s.core h).mode = .free →
      (∀ j, 1 ≤ j → j < h → (s.getCtx s.core j).mode ≠ .free) →
      exec (.hstart d a imm) s =
        .next ((u.modCtx s.core h fun x =>
          { ({ Ctx.reset with regs := x.regs }.sequential (s.cx.pc + imm * 2)).store 2 (s.rd a) with
            mode := .ready }).result d (BitVec.ofNat 64 h))) ∧
  (∀ s : State,
    ((s.ctx = 0 ∨ s.cx.sl0 = true) → exec .hexit s = .next (s.started []).illegal) ∧
    (s.ctx ≠ 0 → s.cx.sl0 = false →
      ∃ t, exec .hexit s = .next t ∧ t.cx = { Ctx.reset with regs := s.cx.regs } ∧
        t.mem = s.mem ∧ t.dies = s.dies ∧ ∀ c, c ≠ s.core → t.getCore c = s.getCore c)) ∧
  ∀ (a : SReg) (imm : Word) (s : State), s.ctx = 0 → s.canBegin [a] [] = true →
    let u := s.started [a]
    let mask : BitVec 10 := (s.rd a ||| imm).setWidth 10
    (1023 < imm.toNat → exec (.hjoin a imm) s = .next u.illegal) ∧
    (imm.toNat ≤ 1023 → (∀ i < 10, mask.getLsbD i = true → (s.getCtx s.core (i + 1)).mode = .free) →
      exec (.hjoin a imm) s = .next u.retire) ∧
    (imm.toNat ≤ 1023 → (∃ i < 10, mask.getLsbD i = true ∧ (s.getCtx s.core (i + 1)).mode ≠ .free) →
      exec (.hjoin a imm) s = .next (u.waitOn (.helpers mask) none))

/-- R44, R325: bar.init sets a barrier without arrivals; a number outside the partition or a count outside 1 to 512 traps
ILLEGAL, a barrier with arrivals faults BARRIER_BUSY. -/
def Claims.BarrierInit : Prop :=
  ∀ (bar : BitVec 7) (a : SReg) (op : VoteOp) (s : State), s.ctx = 0 → s.canBegin [a] [] = true →
    let u := s.started [a]
    let n := 32 * lowDie s.cut s.part + bar.toNat
    let count := (s.rd a).toNat
    (32 * s.k ≤ bar.toNat ∨ count = 0 ∨ 512 < count → exec (.barInit bar a op) s = .next u.illegal) ∧
    (bar.toNat < 32 * s.k → 1 ≤ count → count ≤ 512 → (s.getBar n).arrivals ≠ [] →
      exec (.barInit bar a op) s = .next (u.fault 0x000B)) ∧
    (bar.toNat < 32 * s.k → 1 ≤ count → count ≤ 512 → (s.getBar n).arrivals = [] →
      exec (.barInit bar a op) s =
        .next (u.modBar n fun _ => { count := count, op := op, gen := 0, arrivals := [] }).retire)

/-- R45, R46, R326, R327: an arrival at a barrier. A pending result of the barrier is taken at once, and so is
the release that the context was woken by. Otherwise, when
nothing of the context is unfinished, a pending result that names another barrier is dropped, unless it came while the
instruction waited, and the arrival is recorded with FSTAT and the vote: the one that completes the count
releases the generation, any other waits. A barrier that bar.init has not set faults BARRIER_UNSET. -/
def Claims.BarrierArrival : Prop :=
  ∀ (bar : BitVec 7) (d : SReg) (v : Option (SReg × SReg)) (s : State),
    let dests := match v with | some (a, _) => [d, a] | none => [d]
    let srcs := match v with | some (_, b) => [b] | none => []
    let out := v.map fun p => p.1
    let i : Instr := match v with | some (a, b) => .barVote bar d a b | none => .barWait bar d
    s.ctx = 0 → dests.any s.isBound = false → s.canBegin srcs dests = true → bar.toNat < 32 * s.k →
    let n := 32 * lowDie s.cut s.part + bar.toNat
    let b := s.getBar n
    let u := s.started srcs
    (∀ r : BarResult, s.cx.barDone = some r →
      exec i s = .next ((u.modCx fun x => { x with barDone := none }).barWrite r d out).retire) ∧
    (∀ r : BarResult, s.cx.barDone = none → s.cx.barResult = some r → r.bar = n →
      exec i s = .next ((u.modCx fun x => { x with barResult := none }).barWrite r d out).retire) ∧
    (s.cx.barDone = none → s.cx.barResult = none → b.count = 0 →
      exec i s = .next ((u.modCx fun x => { x with barResult := none }).fault 0x0016)) ∧
    ∀ w t : State, s.cx.barDone = none → (∀ r, s.cx.barResult = some r → r.bar ≠ n ∧ r.bar ≠ 128) → b.count ≠ 0 →
      (∀ x ∈ b.arrivals, ¬ (x.core = s.core ∧ x.ctx = 0)) →
      w = u.modCx (fun x => { x with barResult := if x.waking then x.barResult else none }) → w.flagsFinal = true →
      w.fencedNow true true .v = some t →
      let vote : BitVec 32 := match v with | some (_, r) => (s.rd r).setWidth 32 | none => voteIdentity b.op
      let t' := t.modBar n fun x =>
        { x with arrivals := x.arrivals ++ [{ core := t.core, ctx := t.ctx, flags := t.me.fstat, vote := vote }] }
      exec i s =
        .next (if (t'.getBar n).arrivals.length = b.count then t'.release n d out else t'.waitOn (.barrier n) none)

/-- R44, R46: a release gives every participant the OR of the flags and the combination of the votes, raises the
generation and empties the barrier; a participant that waits for it is READY to take its result, and for any other the
result is pending. -/
def Claims.BarrierRelease : Prop :=
  (∀ (b : Barrier) (n : Nat),
    (∀ i, (b.result n).flags.getLsbD i = b.arrivals.any fun a => a.flags.getLsbD i) ∧
    (b.op = .or → ∀ i, (b.result n).vote.getLsbD i = b.arrivals.any fun a => a.vote.getLsbD i) ∧
    (b.op = .and → ∀ i < 32, (b.result n).vote.getLsbD i = b.arrivals.all fun a => a.vote.getLsbD i) ∧
    (b.op = .max → (∀ a ∈ b.arrivals, a.vote.toNat ≤ (b.result n).vote.toNat) ∧
      (b.arrivals ≠ [] → ∃ a ∈ b.arrivals, (b.result n).vote = a.vote))) ∧
  ∀ (s : State) (n : Nat) (d : SReg) (a : Option SReg),
    let b := s.getBar n
    let t := s.release n d a
    t.getBar n = { b with gen := b.gen + 1, arrivals := [] } ∧
    ∀ x ∈ b.arrivals, ¬ (x.core = s.core ∧ x.ctx = s.ctx) →
      let waits := (s.getCtx x.core x.ctx).wait.any fun w => w.obj == .barrier n
      (waits = true → (t.getCtx x.core x.ctx).barDone = some (b.result n) ∧ (t.getCtx x.core x.ctx).wait = none ∧
        ((s.getCtx x.core x.ctx).mode = .waiting → (t.getCtx x.core x.ctx).mode = .ready)) ∧
      (waits = false → (t.getCtx x.core x.ctx).barResult = some (b.result n))

/-! ### Units, launches and the inbox (R30 to R33, R98, R315 to R320, R374, R375) -/

/-- R320: the inbox instructions. itake reads HEAD or all ones; irel releases the record at HEAD, starting a unit unless
the record is cancelled, or faults INBOX_EMPTY; iwait waits for a record; iwait.p waits for a record or an element, one that came while the context was
halted among them (R43).
It rests on readings of the model: log entry 57. -/
def Obligations.InboxInstructions : Prop :=
  ∀ (d : SReg) (s : State), s.ctx = 0 → s.isBound d = false →
    let p := s.me.port
    (s.canBegin [] [d] = true →
      let u := s.started []
      let slot := p.head.toNat % 64
      let dead := (Memory.get p.inbox (64 * slot + 0x10)).getLsbD 7
      let w := (if dead then u else u.startUnit slot).modMe fun c =>
        { c with port := { c.port with head := c.port.head + 1, marks := c.port.marks &&& ~~~(1#64 <<< slot) } }
      (p.head.toNat < p.tail.toNat →
        exec (.itake d) s = .next (u.result d p.head) ∧ exec (.iwait d) s = .next (u.result d p.head) ∧
        exec (.irel d) s = .next (w.result d (if dead then 1 else 0))) ∧
      (p.tail.toNat ≤ p.head.toNat →
        exec (.itake d) s = .next (u.result d (BitVec.allOnes 64)) ∧
        exec (.iwait d) s = .next (u.waitOn .inbox none) ∧ exec (.irel d) s = .next (u.fault 0x0015))) ∧
    ∀ a : SReg, s.canBegin [a] [d] = true →
      let u := s.started [a]
      let n := bits (s.rd a).toNat 5 0
      (s.poolsPer ≤ n → exec (.iwaitP d a) s = .next u.illegal) ∧
      (n < s.poolsPer → p.head.toNat < p.tail.toNat → exec (.iwaitP d a) s = .next (u.result d 0)) ∧
      (n < s.poolsPer → p.tail.toNat ≤ p.head.toNat → (s.getPool s.part n).present ≠ [] ∨ s.cx.woken = true →
        exec (.iwaitP d a) s = .next (u.result d 1)) ∧
      (n < s.poolsPer → p.tail.toNat ≤ p.head.toNat → (s.getPool s.part n).present = [] → s.cx.woken = false →
        exec (.iwaitP d a) s = .next (u.waitOn (.inboxPool n) none))

/-- R315: gdone outside a unit faults NO_UNIT; while a helper is not FREE it waits; else the unit ends: every binding of
the core ends, the lease release and the fabric release stand behind the queued instructions, and the chain starts at
the partition's DONE entry with TL 0. A unit of a launch counts in REMAIN. A LATE that is still to be delivered goes to the
launch, which it stops and whose FAULTS it raises, or without a launch to the error log (R336, R338).
It rests on readings of the model: log entry 45. -/
def Obligations.UnitDone : Prop :=
  ∀ s : State, s.ctx = 0 →
    let u := s.started []
    (s.me.unit = none → exec .gdone s = .next (u.fault 0x0012)) ∧
    (∀ r, s.me.unit = some r → (∃ h, 1 ≤ h ∧ h ≤ 10 ∧ (s.getCtx s.core h).mode ≠ .free) →
      exec .gdone s = .next (u.waitOn (.helpers (BitVec.allOnes 10)) none)) ∧
    ∀ r, s.me.unit = some r → (∀ h, 1 ≤ h → h ≤ 10 → (s.getCtx s.core h).mode = .free) →
      ∃ t, exec .gdone s = .next t ∧ t.me.unit = none ∧ t.me.late = [] ∧ t.cx.pc = s.mine.desc.done ∧ t.cx.fresh = true ∧
        t.cx.tl = false ∧ t.cx.mode = .ready ∧ (∀ k < 11, (t.getCtx s.core k).chbind = 0) ∧
        (∃ e, t.me.vq = s.me.vq ++ [e] ∧ e.instr = .mleaseRel ∧ e.sys = true ∧ e.unit = s.me.units) ∧
        (∃ f, t.me.fq = s.me.fq ++ [f] ∧ f.instr = .afcfgRel ∧ f.sys = true ∧ f.unit = s.me.units) ∧
        (r.launch = none → (t.getPart s.part).log.count = (s.getPart s.part).log.count + s.me.late.length) ∧
        ∀ i g, r.launch = some (i, g) →
          let l := s.getLaunch s.part i
          let m := t.getLaunch s.part i
          (s.me.late = [] → m.remain = l.remain - 1) ∧
          (s.me.late ≠ [] → l.gen = g → m.stopped = true ∧
            (l.faults.toNat + s.me.late.length ≤ m.faults.toNat ∨ m.faults = 0xFFFF))

/-- R32: a cancel that reaches a running unit of a core that is not halted stops it: no unit is left, the control context
stands at the partition's CANCEL entry with TL 0, every helper is FREE, no binding is left, and no instruction of the
unit is queued. A core without a unit is not touched; a halted one stops at RESUME (R372). -/
def Claims.CancelStopsUnit : Prop :=
  ∀ (core : Nat) (s : State),
    ((s.getCore core).halted = false → (s.getCore core).unit = none → exec (.cancel core) s = .next s) ∧
    (∀ u, (s.getCore core).halted = false → (s.getCore core).unit = some u →
      ∃ t, exec (.cancel core) s = .next t ∧ (t.getCore core).unit = none ∧
        (t.getCtx core 0).pc = (s.getPart (s.partOf core)).desc.cancel ∧ (t.getCtx core 0).fresh = true ∧
        (t.getCtx core 0).tl = false ∧ (t.getCtx core 0).mode = .ready ∧
        (∀ h, 1 ≤ h → h ≤ 10 → (t.getCtx core h).mode = .free) ∧ (∀ k < 11, (t.getCtx core k).chbind = 0) ∧
        ∀ q ∈ (t.getCore core).vq ++ (t.getCore core).ru ++ (t.getCore core).fq, q.unit ≠ (s.getCore core).units) ∧
    ((s.getCore core).halted = true → (s.getCore core).unit.isSome = true →
      ∃ t, exec (.cancel core) s = .next t ∧ (t.getCore core).cancelPend = true ∧ (t.getCore core).unit.isSome = true)

/-- R316: gcancel retires and then cancels at its level; a target outside the partition faults CANCEL_TARGET. -/
def Claims.CancelInstruction : Prop :=
  ∀ (level : CancelLevel) (a : SReg) (s : State), s.ctx = 0 → s.canBegin [a] [] = true →
    let u := s.started [a]
    let t := s.rd a
    let ok := match level with
      | .unit => t.toNat < 512 ∧ s.partOf t.toNat = s.part
      | .launch | .graph => t.toNat ≤ 4095
      | .phase => t.toNat < s.phaseCountOf s.part
      | .job => True
    (ok → exec (.gcancel level a) s = .next (u.retire.cancelAt s.part level t)) ∧
    (¬ ok → exec (.gcancel level a) s = .next (u.fault 0x0013))

/-- Every node of the graph is CONFIRMED or CANCELLED. -/
def Claims.allFinal (g : Graph) : Prop := ∀ i < g.n, (g.node i).final = true

/-- R32, R33, R71, R316, R380, R381: what a cancel does above the level of a unit. A launch that is armed, not stopped and has
units left is stopped: one whose arming is held counts them all as cancelled, and of any other each running unit stops at the
CANCEL entry. An armed graph has each node that is not final CANCELLED, and counts them. A phase of the running job neither
complete nor cancelled is marked, its graphs have every node final, and one without graphs is cancelled at once. The running job
is marked, and with it each of its phases, each armed launch that belongs to no node, and the units of no launch. Anything else
that a target names has no effect. -/
def Claims.CancelLevels : Prop :=
  ∀ (part : Nat) (w : Word) (s : State),
    let i := w.toNat
    let j := (s.getPart part).job
    (let l := s.getLaunch part i
     let t := s.cancelAt part .launch w
     (l.armed = false ∨ l.stopped = true ∨ l.remain = 0 → t = s) ∧
     (l.armed = true → l.stopped = false → l.remain ≠ 0 → (t.getLaunch part i).stopped = true ∧
       (l.held = true → (t.getLaunch part i).held = false ∧ (t.getLaunch part i).remain = 0 ∧
         (t.getLaunch part i).cancelled = l.cancelled + l.remain) ∧
       (l.held = false → ∀ k < s.coresPer, l.mask.getLsbD k = true →
         let c := s.coreAt part k
         ∀ u g, (s.getCore c).unit = some u → u.launch = some (i, g) → (s.getCore c).halted = false →
           (t.getCore c).unit = none ∧ (t.getCtx c 0).pc = (s.getPart (s.partOf c)).desc.cancel))) ∧
    (let g := s.getGraph part i
     let t := s.cancelAt part .graph w
     (g.left = 0 ∨ g.armed = false → t = s) ∧
     (g.left ≠ 0 → g.armed = true →
       let h := t.getGraph part i
       h.cancel = true ∧ h.cancelled = g.cancelled + g.left ∧ h.phase = .idle ∧ h.merge = [] ∧
       ∀ k < g.n, (h.node k).state = if (g.node k).final then (g.node k).state else .cancelled)) ∧
    (let x := j.phase i
     let t := s.cancelAt part .phase w
     let y := (t.getPart part).job.phase i
     let held := j.state = 1 ∧ Sparse.has j.phases i = true
     (held → x.state ≠ 0 ∨ x.cancel = true → t = s) ∧
     (held → x.state = 0 → x.cancel = false → y.cancel = true ∧
       (∀ slot ∈ s.graphsOf part i, Claims.allFinal (t.getGraph part slot)) ∧
       (s.graphsOf part i = [] → y.state = 2)) ∧
     (¬ held → ∀ slot ∈ s.graphsOf part i, (s.getGraph part slot).armed = true → Claims.allFinal (t.getGraph part slot))) ∧
    (let t := s.cancelAt part .job w
     (j.state ≠ 1 ∨ j.cancel = true → t = s) ∧
     (j.state = 1 → j.cancel = false → (j.phases.filter fun p => p.2.state == 0).length ≤ j.left →
       (t.getPart part).job.cancel = true ∧
       (∀ p, Sparse.has j.phases p = true → (j.phase p).state = 0 → (j.phase p).cancel = false →
         ((t.getPart part).job.phase p).cancel = true ∧
         ∀ slot ∈ s.graphsOf part p, Claims.allFinal (t.getGraph part slot)) ∧
       (∀ k, Sparse.has (s.getPart part).launches k = true →
         let l := s.getLaunch part k
         l.armed = true → l.bound = false → l.remain ≠ 0 → (t.getLaunch part k).stopped = true) ∧
       ∀ k < s.coresPer, ∀ u, (s.getCore (s.coreAt part k)).unit = some u → u.launch = none →
         (s.getCore (s.coreAt part k)).halted = false → (t.getCore (s.coreAt part k)).unit = none))

/-- R59, R317 to R319: garm, larm and lpatch. garm of a slot without a graph returns 3 and of a graph not final 1; larm
and garm write their status; lpatch writes one argument word of a launch record, and faults LAUNCH_PATCH out of range. -/
def Claims.ArmPatchInstructions : Prop :=
  (∀ (d a : SReg) (s : State), s.ctx = 0 → s.isBound d = false → s.canBegin [a] [d] = true →
    let u := s.started [a]
    let r := u.armGraph s.part (s.rd a).toNat
    let l := u.armLaunch s.part (s.rd a)
    exec (.garm d a) s = .next (r.2.result d (BitVec.ofNat 64 r.1)) ∧
    exec (.larm d a) s = .next (l.2.result d (BitVec.ofNat 64 l.1)) ∧ r.1 ≤ 3 ∧ l.1 ≤ 3 ∧
    (4095 < (s.rd a).toNat ∨ s.loaded s.part (s.rd a).toNat = false → r = (3, u)) ∧
    let g := s.getGraph s.part (s.rd a).toNat
    ((s.rd a).toNat ≤ 4095 → s.loaded s.part (s.rd a).toNat = true →
      (∃ i < g.n, (g.node i).final = false ∧ (g.node i).state ≠ .idle) → r = (1, u))) ∧
  ∀ (a b : SReg) (c : CReg) (s : State), s.ctx = 0 → s.canBegin [a, b, c.setWidth 5] [] = true →
    let u := s.started [a, b, c.setWidth 5]
    (4095 < (s.rd a).toNat ∨ 15 < (s.rd b).toNat → exec (.lpatch a b c) s = .next (u.fault 0x0014)) ∧
    ((s.rd a).toNat ≤ 4095 → (s.rd b).toNat ≤ 15 →
      exec (.lpatch a b c) s =
        .next (u.engWrite s.part .launch (s.launchVa s.part (s.rd a).toNat + 0x80 + s.rd b * 8)
          (bytesOf 8 (s.rdC c).toNat)).retire)

/-- R318, R374: what larm answers and what an arming does. A record that does not count as loaded answers 3; a bound one whose node
is not READY under the tag, or an unbound one whose tag names a node, 1; an unbound one with units left 2. Any other is armed: its
counts start anew, and once its endpoints are free they are declared and each core of its mask has a delivery of the task
record, in ascending order; until then it is held. A bound one's node is RUNNING. -/
def Claims.ArmResult : Prop :=
  ∀ (part : Nat) (tag : Word) (s : State),
    let x := tag.toNat
    let i := bits x 63 52
    let slot := bits x 31 20
    let node := bits x 19 0
    (∀ v, s.readLaunch part i = (none, v) → s.armLaunch part tag = (3, v)) ∧
    ∀ r v, s.readLaunch part i = (some r, v) →
      let n := (v.getGraph part slot).node node
      let named := r.graph = slot ∧ r.node = node ∧ v.loaded part slot = true ∧ n.state = .ready ∧ n.gen.toNat = bits x 51 32
      (r.bound = true → ¬ named → s.armLaunch part tag = (1, v)) ∧
      (r.bound = false → bits x 51 0 ≠ 0 → s.armLaunch part tag = (1, v)) ∧
      (r.bound = false → bits x 51 0 = 0 → (v.getLaunch part i).remain ≠ 0 → s.armLaunch part tag = (2, v)) ∧
      ((r.bound = true ∧ named) ∨ (r.bound = false ∧ bits x 51 0 = 0 ∧ (v.getLaunch part i).remain = 0) →
        ∃ t, s.armLaunch part tag = (0, t) ∧
          let l := t.getLaunch part i
          l.remain = BitVec.ofNat 32 ((List.range 512).filter fun k => r.mask.getLsbD k).length ∧ l.cancelled = 0 ∧
          l.faults = 0 ∧ l.first = 0 ∧ l.tag = tag ∧ l.mask = r.mask ∧ l.armed = true ∧ l.stopped = false ∧ l.bound = r.bound ∧
          l.gen.toNat = (if r.bound then bits x 51 32 else 0) ∧
          (r.bound = true → ((t.getGraph part slot).node node).state = .running) ∧
          (v.armReady part l = false → l.held = true ∧ (t.getPart part).held = (v.getPart part).held) ∧
          (v.armReady part l = true → l.held = false ∧
            (t.getPart part).held = (v.getPart part).held ++
              (((List.range v.coresPer).filter fun k => r.mask.getLsbD k).map fun k =>
                { idx := i, core := v.coreAt part k, stage := 0, k := 0, bytes := l.task }) ∧
            ∀ d ∈ r.chans,
              let sc := v.coreAt part (declSendCore d)
              let rc := v.coreAt part (declRecvCore d)
              let p := t.getEp sc (declSendEp d)
              let q := t.getEp rc (declRecvEp d)
              p.declared = true ∧ p.send = true ∧ p.peer = .core rc (declRecvEp d) ∧ p.words = declWords d ∧
              p.slots = declSlots d ∧ p.launch = i ∧ q.declared = true ∧ q.send = false ∧
              q.peer = .core sc (declSendEp d) ∧ q.words = declWords d ∧ q.slots = declSlots d ∧ q.launch = i))


/-- R30, R31, R373 to R375: what an arming, its deliveries and its end do. A held arming is released once its endpoints
are free; a delivery reserves a slot, the lowest core index of an arming first, writes the record into it when the slot is free, and
publishes it when TAIL has reached it; a mark that the port has held is made in its slot; a launch whose units are over and drained is confirmed, and a bound one that was
not stopped is reported, or waits with its report while the backlog is full (R345).
It rests on readings of the model: log entries 49, 62, 63, 114 and 131. -/
def Obligations.LaunchEvents : Prop :=
  (∀ (part idx : Nat) (s : State),
    let l := s.getLaunch part idx
    (l.held = false → exec (.armingRelease part idx) s = .next s) ∧
    (l.held = true → s.armReady part l = false →
      exec (.armingRelease part idx) s = .next (s.modLaunch part idx fun l => { l with held := true })) ∧
    (l.held = true → s.armReady part l = true → ∃ t, exec (.armingRelease part idx) s = .next t ∧
      (t.getLaunch part idx).held = false ∧
      (t.getPart part).held = (s.getPart part).held ++
        ((List.range s.coresPer).filter fun j => l.mask.getLsbD j).map fun j =>
          { idx := idx, core := s.coreAt part j, stage := 0, k := 0, bytes := l.task })) ∧
  (∀ (core : Nat) (s : State) (d : Delivery), s.markHeld core = none → s.nextDelivery core = some d →
    let p := (s.getCore core).port
    let slot := frontPiece core (0x48000 + 64 * (d.k.toNat % 64)) d.bytes
    let tail := frontPiece core 0x49000 (bytesOf 8 (d.k + 1).toNat)
    (d.stage = 1 → d.k.toNat < p.head.toNat + 64 → s.admits slot = true →
      exec (.heldInboxDelivery core) s =
        .next ((s.perform slot).modDelivery core true fun d => some { d with stage := 2 })) ∧
    (d.stage = 1 → p.head.toNat + 64 ≤ d.k.toNat → s.nextReserve core = none →
      exec (.heldInboxDelivery core) s = .next s) ∧
    (d.stage = 2 → p.tail = d.k → s.admits tail = true →
      exec (.heldInboxDelivery core) s = .next ((s.perform tail).modDelivery core true fun _ => none))) ∧
  (∀ (core : Nat) (s : State) (d : Delivery), s.markHeld core = none → s.deliver core = none →
    s.nextReserve core = some d →
    let p := (s.getCore core).port
    (s.replayAdmits core 1 3 20 0 0x49010 = true → (s.getCore core).job = (s.getPart (s.partOf core)).jobs →
      exec (.heldInboxDelivery core) s =
        .next ((s.reserve core).modDelivery core false fun d => some { d with stage := 1, k := p.resv })) ∧
    ∀ x ∈ (s.getPart (s.partOf core)).held, x.idx = d.idx → x.stage = 0 → core ≤ x.core) ∧
  (∀ (core j : Nat) (s : State) (d : Delivery),
    let part := s.partOf core
    (s.getPart part).held.find? (fun d => d.core == core && d.stage == 3) = some d →
    (s.getCore core).slotOf (BitVec.ofNat 64 (natOf ((d.bytes.drop 8).take 8))) = some j →
    s.admits (s.markPiece core j) = true →
    ∃ t, exec (.heldInboxDelivery core) s = .next t ∧
      (Memory.get (t.getCore core).port.inbox (64 * j + 0x10)).getLsbD 7 = true ∧
      (t.getPart part).held = (s.getPart part).held.erase d) ∧
  ∀ (part idx : Nat) (s : State),
    let l := s.getLaunch part idx
    (¬ (l.armed = true ∧ s.drained? part idx l.gen = true) → exec (.launchConfirm part idx) s = .next s) ∧
    (l.armed = true → s.drained? part idx l.gen = true → ∃ t, exec (.launchConfirm part idx) s = .next t ∧
      (t.getLaunch part idx).armed = false ∧
      (l.bound = true → l.stopped = false →
        (t.getPart part).backlog ++ (t.getPart part).overdue =
          (s.getPart part).backlog ++ (s.getPart part).overdue ++ [.confirm l.tag] ∧
        ((s.getPart part).backlog.length ≤ backlogRoom → (t.getPart part).backlog.length ≤ backlogRoom)) ∧
      (l.bound = false ∨ l.stopped = true → (t.getPart part).backlog = (s.getPart part).backlog ∧
        (t.getPart part).overdue = (s.getPart part).overdue))

/-! ### The graph engine (R60 to R72) -/

/-- R61, R62, R65: tokens and reports. A token takes 1 from an ARMED node's pending count and makes it READY at 0; a
provisional completion makes a RUNNING node DONE-PROVISIONAL and sends one token to each successor, which takes it at once when the backlog has no room for
it; a confirmation
report marks the node; reports of an old generation are discarded into the error log. An event that is not the oldest of
its graph is not taken. -/
def Claims.GraphReports : Prop :=
  (∀ (part slot i : Nat) (s u : State), s.takeEvent part (.token slot i) = some u →
    let n := (u.getGraph part slot).node i
    ∃ t, exec (.graphToken part slot i) s = .next t ∧
      (n.state ≠ .armed → t = u) ∧
      (n.state = .armed → (t.getGraph part slot).node i =
        { n with pending := n.pending - 1, state := if n.pending ≤ 1 then .ready else .armed })) ∧
  (∀ (part : Nat) (tag : Word) (s u : State), s.takeEvent part (.provisional tag) = some u →
    (u.current part tag = none → exec (.graphProvisionalReport part tag) s = .next (u.staleReport part tag 0 0)) ∧
    ∀ slot i n, u.current part tag = some (slot, i, n) →
      (n.state ≠ .running → exec (.graphProvisionalReport part tag) s = .next u) ∧
      (n.state = .running → (u.getPart part).backlog.length + n.succs.length ≤ tokenRoom →
        ∃ t, exec (.graphProvisionalReport part tag) s = .next t ∧
          (t.getGraph part slot).node i = { n with state := .doneProvisional } ∧
          (t.getPart part).backlog = (u.getPart part).backlog ++ n.succs.map fun j => .token slot j)) ∧
  (∀ (part : Nat) (tag : Word) (s u : State) (slot i : Nat) (n : Node), s.takeEvent part (.provisional tag) = some u →
    u.current part tag = some (slot, i, n) → n.state = .running →
    tokenRoom < (u.getPart part).backlog.length + n.succs.length →
    ∃ t, exec (.graphProvisionalReport part tag) s = .next t ∧
      (t.getGraph part slot).node i = { n with state := .doneProvisional } ∧
      (t.getPart part).backlog = (u.getPart part).backlog ∧
      ∀ j, n.succs.count j = 1 →
        let m := (u.getGraph part slot).node j
        m.state = .armed → (t.getGraph part slot).node j =
          { m with pending := m.pending - 1, state := if m.pending ≤ 1 then .ready else .armed }) ∧
  (∀ (part : Nat) (tag : Word) (s u : State), s.takeEvent part (.confirm tag) = some u →
    (u.current part tag = none → exec (.graphConfirmReport part tag) s = .next (u.staleReport part tag 1 0)) ∧
    ∀ slot i n, u.current part tag = some (slot, i, n) →
      exec (.graphConfirmReport part tag) s =
        .next (((u.modGraph part slot fun g =>
          { g with nodes := g.nodes.set i { g.node i with ready := true } }).spread part slot i).graphSettle part slot)) ∧
  ∀ (part slot i : Nat) (tag : Word) (code : BitVec 16) (s : State),
    (s.takeEvent part (.token slot i) = none → exec (.graphToken part slot i) s = .next s) ∧
    (s.takeEvent part (.provisional tag) = none → exec (.graphProvisionalReport part tag) s = .next s) ∧
    (s.takeEvent part (.confirm tag) = none → exec (.graphConfirmReport part tag) s = .next s) ∧
    (s.takeEvent part (.fault tag code) = none → exec (.graphFaultReport part tag code) s = .next s)

/-- R67, R72: a fault of a RUNNING or DONE-PROVISIONAL node makes it FAULTED and enters the merge queue, and a seventeenth
entry cancels the graph with MERGE_OVERFLOW. With no walk under way and no further fault that has arrived with it, the
queue's lowest root starts one, its generation raised. -/
def Claims.GraphFault : Prop :=
  (∀ (part : Nat) (tag : Word) (code : BitVec 16) (s u : State), s.takeEvent part (.fault tag code) = some u →
    (u.current part tag = none →
      exec (.graphFaultReport part tag code) s =
        .next ((u.staleReport part tag 2 code).startQueued part (bits tag.toNat 31 20))) ∧
    ∀ slot i n, u.current part tag = some (slot, i, n) →
      let g := u.getGraph part slot
      let bad := u.modNode part slot i fun n => { n with state := .faulted, fault := code }
      let queued := (bad.modGraph part slot fun g => { g with merge := g.merge ++ [(i, n.gen, code)] }).writeGraph part slot
      (n.state ≠ .running → n.state ≠ .doneProvisional →
        exec (.graphFaultReport part tag code) s = .next (u.startQueued part slot)) ∧
      (n.state = .running ∨ n.state = .doneProvisional →
        (g.merge = [] → g.phase = .idle → u.faultNext part slot = false →
          ∃ t, exec (.graphFaultReport part tag code) s = .next t ∧
            (t.getGraph part slot).node i = { n with state := .faulted, fault := code, gen := n.gen + 1 } ∧
            (t.getGraph part slot).root = i ∧
            (t.getGraph part slot).phase = if i + 1 < g.n then .marking else .recount) ∧
        (g.merge.length < 16 → g.phase = .idle → u.faultNext part slot = false →
          exec (.graphFaultReport part tag code) s = .next ((queued.endWalk part slot).writeGraph part slot)) ∧
        (g.merge.length < 16 → g.phase ≠ .idle ∨ u.faultNext part slot = true →
          exec (.graphFaultReport part tag code) s = .next queued ∧
          (queued.getGraph part slot).node i = { n with state := .faulted, fault := code } ∧
          (queued.getGraph part slot).merge = g.merge ++ [(i, n.gen, code)]) ∧
        (16 ≤ g.merge.length →
          exec (.graphFaultReport part tag code) s =
            .next ((bad.cancelGraph part slot 0x0044
              (BitVec.ofNat 32 (if g.phase = .idle then i else g.root)) false).startQueued part slot)))) ∧
  ∀ (part slot : Nat) (s : State),
    let g := s.getGraph part slot
    let live := g.merge.filter fun m => (g.node m.1).gen == m.2.1 && (g.node m.1).state == .faulted
    let t := (s.endWalk part slot).getGraph part slot
    (live = [] → t.phase = .idle ∧ t.merge = []) ∧
    (live ≠ [] → t.phase ≠ .idle ∧ (∃ m ∈ live, m.1 = t.root) ∧ ∀ m ∈ live, t.root ≤ m.1)

/-- R67, R68, R70, R71, R73: the steps of a walk and a graph cancel. A step waits while events of a restored backlog are
left. A marking step makes a member of the cone CANCELLING with its generation raised and leaves any other node alone; a
recount step of a CANCELLING node counts its predecessors that are not done; the walk whose last node is recounted counts its retry; a root whose policy is cancel or
whose budget is spent cancels the graph. A cancel of an armed graph makes every node that is not final CANCELLED and counts
them; of a graph whose nodes are all final it only settles it, and of one that is not armed it does nothing.
It rests on readings of the model: log entries 65, 68, 69 and 147. -/
def Obligations.WalkSteps : Prop :=
  (∀ (part slot : Nat) (s : State), 0 < (s.getPart part).replays →
    exec (.walkMarkStep part slot) s = .next s ∧ exec (.walkRecountStep part slot) s = .next s) ∧
  (∀ (part slot : Nat) (s : State), (s.getPart part).replays = 0 →
    let g := s.getGraph part slot
    let n := g.node g.next
    let member := (∃ j ∈ n.preds, j = g.root ∨ (g.node j).state = .cancelling) ∧ n.state ≠ .confirmed ∧ n.state ≠ .cancelled
    (g.phase ≠ .marking → exec (.walkMarkStep part slot) s = .next s) ∧
    (g.phase = .marking → ∃ t, exec (.walkMarkStep part slot) s = .next t ∧
      (member → (t.getGraph part slot).node g.next = { n with state := .cancelling, gen := n.gen + 1 }) ∧
      (¬ member → (t.getGraph part slot).node g.next = n) ∧
      (g.next + 1 < g.n → (t.getGraph part slot).next = g.next + 1 ∧ (t.getGraph part slot).phase = .marking) ∧
      (g.n ≤ g.next + 1 → (t.getGraph part slot).next = g.root ∧ (t.getGraph part slot).phase = .recount))) ∧
  (∀ (part slot : Nat) (s : State), (s.getPart part).replays = 0 →
    let g := s.getGraph part slot
    let n := g.node g.next
    let left := (n.preds.filter fun j => !((g.node j).state == .doneProvisional || (g.node j).state == .confirmed)).length
    (g.phase ≠ .recount ∨ s.allDrained part g.stopped = false → exec (.walkRecountStep part slot) s = .next s) ∧
    (g.phase = .recount → s.allDrained part g.stopped = true → g.next = g.root → n.policy = 2 ∨ n.budget = 0 →
      exec (.walkRecountStep part slot) s = .next (s.cancelGraph part slot n.fault (BitVec.ofNat 32 g.root) false)) ∧
    (g.phase = .recount → s.allDrained part g.stopped = true → g.next ≠ g.root → n.state = .cancelling →
      g.next + 1 < g.n →
      ∃ t, exec (.walkRecountStep part slot) s = .next t ∧ (t.getGraph part slot).next = g.next + 1 ∧
        (t.getGraph part slot).node g.next =
          { n with pending := left, ready := false, state := if left = 0 then .ready else .armed }) ∧
    (g.phase = .recount → s.allDrained part g.stopped = true → g.next ≠ g.root → g.n ≤ g.next + 1 →
      ∃ t, exec (.walkRecountStep part slot) s = .next t ∧
        (t.getGraph part slot).retries = (g.retries + 1) % 2 ^ 32 ∧
        (t.getPart part).stats.retries = min ((s.getPart part).stats.retries + 1) (2 ^ 64 - 1))) ∧
  ∀ (part slot : Nat) (s : State),
    let g := s.getGraph part slot
    (g.left = 0 → exec (.graphCancel part slot) s = .next (s.graphSettle part slot)) ∧
    (g.left ≠ 0 → g.armed = false → exec (.graphCancel part slot) s = .next s) ∧
    (g.left ≠ 0 → g.armed = true → ∃ t, exec (.graphCancel part slot) s = .next t ∧
      (t.getGraph part slot).cancel = true ∧ (t.getGraph part slot).cancelled = g.cancelled + g.left ∧
      ∀ i < g.n, ((t.getGraph part slot).node i).state =
        if (g.node i).final then (g.node i).state else .cancelled)

/-! ### Pools (R74 to R82, R321 to R323) -/

/-- R321 to R323: the pool instructions. pput inserts or faults for pool 0, the all-ones key and a full store; the takes
return what the own shard admits at once, and otherwise ask the arbiter, ptake.w waiting; pcancel removes every present
element of the payload and returns how many. A pool the partition lacks traps ILLEGAL. -/
def Claims.PoolInstructions : Prop :=
  ∀ (d a : SReg) (imm : Word) (s : State),
    let n := imm.toNat
    let p := s.getPool s.part n
    (s.canBegin [d, a] [] = true →
      let u := s.started [d, a]
      (s.poolsPer ≤ n → exec (.pput d a imm) s = .next u.illegal) ∧
      (n < s.poolsPer → n = 0 → exec (.pput d a imm) s = .next (u.fault 0x000E)) ∧
      (n < s.poolsPer → n ≠ 0 → s.rd d = BitVec.allOnes 64 → exec (.pput d a imm) s = .next (u.fault 0x0010)) ∧
      (n < s.poolsPer → n ≠ 0 → s.rd d ≠ BitVec.allOnes 64 → s.poolBusy n = false →
        s.mine.desc.poolCap.toNat ≤ p.places → exec (.pput d a imm) s = .next (u.fault 0x0011)) ∧
      (n < s.poolsPer → n ≠ 0 → s.rd d ≠ BitVec.allOnes 64 → s.poolBusy n = false →
        p.places < s.mine.desc.poolCap.toNat →
        exec (.pput d a imm) s =
          .next (u.modPool s.part n fun p =>
            p.put s.k s.time.toNat s.myShard (s.rd d) (s.rd a) s.core s.ctx).retire)) ∧
    (s.poolsPer ≤ n →
      ([d, a].any s.isBound = false → s.canBegin [] [d, a] = true →
        exec (.ptake d a imm) s = .next (s.started []).illegal ∧ exec (.ptakeW d a imm) s = .next (s.started []).illegal) ∧
      (s.isBound d = false → s.canBegin [a] [d] = true → exec (.pcancel d a imm) s = .next (s.started [a]).illegal)) ∧
    (s.isBound d = false → s.canBegin [a] [d] = true → n < s.poolsPer → n = 0 →
      exec (.pcancel d a imm) s = .next ((s.started [a]).fault 0x000E)) ∧
    ([d, a].any s.isBound = false → s.canBegin [] [d, a] = true → n < s.poolsPer → s.poolBusy n = false →
      let u := s.started []
      let ask (w : Bool) := u.modPool s.part n fun p =>
        { p with arb := p.arb ++ [{ core := s.core, ctx := s.ctx, d := d, a := a, waits := w, live := true }] }
      (∀ e, p.admitted s.k s.myShard = some e →
        let got (w : Bool) := ((u.modPool s.part n fun p => p.taken e).takeWrite
          { core := s.core, ctx := s.ctx, d := d, a := a, waits := w, live := true } e.key e.payload).retire
        exec (.ptake d a imm) s = .next (got false) ∧ exec (.ptakeW d a imm) s = .next (got true)) ∧
      (p.admitted s.k s.myShard = none → exec (.ptake d a imm) s = .next (ask false).retire ∧
        (p.present ≠ [] → exec (.ptakeW d a imm) s = .next ((ask true).waitOn (.pool n) none)) ∧
        (p.present = [] → exec (.ptakeW d a imm) s = .next (u.waitOn (.pool n) none)))) ∧
    (s.isBound d = false → s.canBegin [a] [d] = true → n < s.poolsPer → n ≠ 0 → s.poolBusy n = false →
      let hits := p.present.filter fun e => e.payload == s.rd a
      exec (.pcancel d a imm) s =
        .next (((s.started [a]).modPool s.part n fun _ => hits.foldl Pool.remove p).result d
          (BitVec.ofNat 64 hits.length)))

/-- R74, R79, R81, R82: what a take may return. What a shard admits is present in it and ranks before every other element
of the shard; what the arbiter returns is present in the pool and, when no element is aged, ranks before every other. -/
def Claims.PoolTakesBest : Prop :=
  (∀ (p : Pool) (n i : Nat) (e : Elem), p.admitted n i = some e →
    p.bound ≠ 1 ∧ e ∈ (p.shard i).present ∧ (∀ x ∈ (p.shard i).present, x.lt e = false) ∧
    (∀ x ∈ p.present, p.aged x = false) ∧
    ∀ j < n, j ≠ i → ∃ m : Summary, (j, m) ∈ (p.shard i).seen ∧ ∀ b, m.bar = some b → e.lt b = true) ∧
  ∀ (p : Pool) (e : Elem), p.arbitrate = some e →
    e ∈ p.present ∧ ((∀ x ∈ p.present, p.aged x = false) → ∀ x ∈ p.present, x.lt e = false) ∧
    ((∃ x ∈ p.present, p.aged x = true) → p.aged e = true ∧ ∀ x ∈ p.present, p.aged x = true → e.stamp ≤ x.stamp)

/-- R78 to R81: the events of a pool. A shard publishes a summary; the oldest one on its way is acknowledged; a put that
waits becomes present once its summary is acknowledged and the store has a place for it; a move between shards makes a step; the arbiter serves a take
with the element it returns, or begins a sweep when the pool is empty; a sweep that found no put ends the take EMPTY. -/
def Claims.PoolEvents : Prop :=
  ∀ (part pool : Nat) (s : State),
    let p := s.getPool part pool
    (∀ i, exec (.poolSummary part pool i) s =
      .next (if i < s.k then s.modPool part pool fun p => p.publish s.k i else s)) ∧
    (∀ i j, ∃ t, exec (.poolSummaryAck part pool i j) s = .next t ∧
      (∀ m, i ≠ j → (p.shard i).inFlight.find? (fun m => m.1 == j) = some m →
        ((t.getPool part pool).shard i).inFlight = (p.shard i).inFlight.erase m ∧
        Sparse.has ((t.getPool part pool).shard j).seen i = true ∧
        ∀ x, Sparse.get x ((t.getPool part pool).shard j).seen i = m.2)) ∧
    (∀ i q rest, (p.shard i).pend = q :: rest →
      ∃ t, exec (.pputLinearize part pool i) s = .next t ∧
        ((p.shard i).acked q.serial = true → p.present.length < (s.getPart part).desc.poolCap.toNat →
          ((t.getPool part pool).shard i).pend = rest ∧
          ((t.getPool part pool).shard i).puts = (p.shard i).puts + 1 ∧
          ∃ e, ((t.getPool part pool).shard i).elems = (p.shard i).elems ++ [e] ∧ e.key = q.key ∧ e.payload = q.payload) ∧
        ((p.shard i).acked q.serial = false ∨ (s.getPart part).desc.poolCap.toNat ≤ p.present.length →
          (t.getPool part pool).shard i = p.shard i)) ∧
    (∀ i j, i < s.k → j < s.k → i ≠ j →
      exec (.poolRebalance part pool i j) s = .next (s.modPool part pool fun p => p.rebalance s.k i j)) ∧
    (∀ r e, p.sweep = none → p.arb.find? (fun r => !s.heldTake r) = some r → p.arbitrate = some e → r.waits = false →
      exec (.poolArbiterTake part pool) s =
        .next ((s.modPool part pool fun p => { p.taken e with arb := p.arb.erase r }).takeWrite r e.key e.payload)) ∧
    (∀ r e, p.sweep = none → p.arb.find? (fun r => !s.heldTake r) = some r → p.arbitrate = some e → r.waits = true →
      r.live = true →
      exec (.poolArbiterTake part pool) s =
        .next (((((s.modPool part pool fun p => { p.taken e with arb := p.arb.erase r }).takeWrite r e.key
          e.payload).on r.core r.ctx).retire).on s.core s.ctx)) ∧
    (∀ r, p.sweep = none → p.arb.find? (fun r => !s.heldTake r) = some r → p.arbitrate = none → r.waits = true →
      exec (.poolArbiterTake part pool) s = .next (s.modPool part pool fun p => { p with arb := p.arb.erase r })) ∧
    (∀ r, p.sweep = none → p.arb.find? (fun r => !s.heldTake r) = some r → p.arbitrate = none → r.waits = false →
      exec (.poolArbiterTake part pool) s =
        .next (s.modPool part pool fun p =>
          { p with arb := r :: p.arb.erase r, sweep := some ((List.range s.k).map fun i => (i, (p.shard i).puts)) })) ∧
    ∀ r rest puts, p.sweep = some puts → p.arb = r :: rest →
      let u := s.modPool part pool fun p => { p with sweep := none }
      let quiet := p.present = [] ∧ ∀ x ∈ puts, (p.shard x.1).puts = x.2
      (quiet → exec (.poolEmptinessSweep part pool) s =
        .next ((u.modPool part pool fun p => { p with arb := rest }).takeWrite r (BitVec.allOnes 64) 0)) ∧
      (¬ quiet → exec (.poolEmptinessSweep part pool) s = .next u)


/-! ### Engine-bound instructions (R237 to R241, R264 to R267, R275, R335) -/

/-- The place and the operand registers of an instruction that the control context only dispatches. -/
noncomputable def Claims.route : Instr → Option (Place × SReg × SReg × CReg)
  | .vaddF32 _ _ _ _ | .vsubF32 _ _ _ _ | .vmulF32 _ _ _ _ | .vfmaF32 _ _ _ _ | .vminF32 _ _ _ _ | .vmaxF32 _ _ _ _
  | .vdivF32 _ _ _ _ | .vsqrtF32 _ _ _ | .vaddF64 _ _ _ _ | .vsubF64 _ _ _ _ | .vmulF64 _ _ _ _ | .vfmaF64 _ _ _ _
  | .vminF64 _ _ _ _ | .vmaxF64 _ _ _ _ | .vdivF64 _ _ _ _ | .vsqrtF64 _ _ _ | .vaddI32 _ _ _ _ | .vsubI32 _ _ _ _
  | .vmulI32 _ _ _ _ | .vand _ _ _ _ | .vor _ _ _ _ | .vxor _ _ _ _ | .vsllI32 _ _ _ _ | .vsrlI32 _ _ _ _
  | .vsraI32 _ _ _ _ | .vminI32 _ _ _ _ | .vmaxI32 _ _ _ _ | .vminuI32 _ _ _ _ | .vmaxuI32 _ _ _ _
  | .vaddsI32 _ _ _ _ | .vsubsI32 _ _ _ _ | .vmulhI32 _ _ _ _ | .vaddI64 _ _ _ _ | .vsubI64 _ _ _ _
  | .vmulI64 _ _ _ _ | .vsllI64 _ _ _ _ | .vsrlI64 _ _ _ _ | .vsraI64 _ _ _ _ | .vminI64 _ _ _ _ | .vmaxI64 _ _ _ _
  | .vceqF32 _ _ _ _ | .vcltF32 _ _ _ _ | .vcleF32 _ _ _ _ | .vceqI32 _ _ _ _ | .vcltI32 _ _ _ _ | .vcltuI32 _ _ _ _
  | .vceqF64 _ _ _ _ | .vcltF64 _ _ _ _ | .kand _ _ _ | .kor _ _ _ | .kxor _ _ _ | .kandn _ _ _ | .vsel _ _ _ _
  | .kpop _ _ _ | .vredsumF32 _ _ _ | .vredmaxF32 _ _ _ | .vredminF32 _ _ _ | .vredsumF64 _ _ _ | .vredsumI32 _ _ _
  | .vredmaxI32 _ _ _ | .vredsumI64 _ _ _ | .vredor _ _ _ | .vperm _ _ _ | .vcvtF32I32 _ _ | .vcvtI32F32 _ _
  | .vcvtF64F32 _ _ | .vcvtF32F64 _ _ | .vcvtF16F32 _ _ | .vcvtF32F16 _ _ | .vcvtBf16F32 _ _ | .vcvtF32Bf16 _ _
  | .vscanF32 _ _ _ | .vscanI32 _ _ _ | .vsortxF32 _ _ _ | .vexp2F32 _ _ _ | .mleaseRel | .mloadW _ _ | .mswap
  | .mst _ _ | .mzero _ => some (.vector, 0, 0, 0)
  | .vbcast _ a _ | .vldW _ a _ _ | .vldD _ a _ _ | .vstW _ a _ _ | .vstD _ a _ _ | .vldxW _ a _ _ | .vstxW _ a _ _
  | .kld _ a | .kst _ a => some (.vector, a, 0, 0)
  | .vmovs _ _ b _ | .vslide _ _ b | .venc _ _ b | .vdec _ _ b | .mmac _ _ b | .mgrp _ _ b _ | .mloadT _ _ b =>
    some (.vector, 0, b, 0)
  | .vrng _ a b => some (.vector, a, b, 0)
  | .vfsl _ _ _ c | .vfsr _ _ _ c | .vlut3 _ _ _ c => some (.vector, 0, 0, c)
  | .afcfgRel | .afrun | .afwaitTry _ => some (.fabric, 0, 0, 0)
  | .afcfg a b => some (.fabric, a, b, 0)
  | .afscale a => some (.fabric, a, 0, 0)
  | _ => none

/-- The queue of a place. -/
def Claims.queue (c : Core) : Place → List QEntry
  | .vector => c.vq
  | .ring => c.ru
  | .fabric => c.fq

/-- The place takes an instruction now: it has room, the dispatch-ring entry is not in flight, and the context's stores
can leave the store buffer (R107, R264, R335). -/
def Claims.takes (s : State) (p : Place) : Prop :=
  (Claims.queue s.me p).length < (match p with | .vector => 32 | .ring => 16 | .fabric => 8) ∧
  (s.me.entry s.me.seq).st ≠ .inFlight ∧ s.drainable s.core s.ctx = true

/-- `t` is `s` with the instruction dispatched with its captured operands: the sequence number has moved on, the
dispatch ring holds its entry in flight, the queue of its place ends in it, with JOURNAL where it is a fabric instruction
(R347), and no store of the context is buffered. -/
def Claims.dispatched (s t : State) (p : Place) (i : Instr) (a b c : Word) : Prop :=
  t.me.seq = s.me.seq + 1 ∧
  t.me.entry s.me.seq =
    { addr := s.cx.pc, seq := s.me.seq, word := i.word, ctx := s.ctx, st := .inFlight, unit := s.me.units, fault := 0,
      launch := s.me.unit.bind fun u => u.launch, inUnit := s.me.unit.isSome } ∧
  Claims.queue t.me p = Claims.queue s.me p ++
    [{ instr := i, seq := s.me.seq, ctx := s.ctx, a := a, b := b, c := c, fmode := s.me.fmode,
       journal := if p = .fabric then s.mine.journal else 0, unit := s.me.units, words := s.cx.words, sys := false }] ∧
  (∀ e ∈ t.me.sb, e.ctx ≠ s.ctx) ∧ t.core = s.core ∧ t.ctx = s.ctx ∧
  t.cx = s.cx

/-- R237, R264, R265, R335, R339: the dispatch of a vector, matrix or fabric instruction that the context does not wait
for. It stalls while its place cannot take it; else it is queued with its captured operands and the context goes on.
During a queue flush it ends at once with FLUSHED. A destination bound to an endpoint traps ILLEGAL.
It rests on readings of the model: log entry 37. -/
def Obligations.EngineDispatch : Prop :=
  ∀ (i : Instr) (p : Place) (a b : SReg) (c : CReg) (s : State), Claims.route i = some (p, a, b, c) → s.ctx = 0 →
    (i.lateDests.any s.isBound = true → exec i s = .next s.illegal) ∧
    (i.lateDests.any s.isBound = false → s.canBegin [a, b, c.setWidth 5] i.lateDests = true →
      let u := s.started [a, b, c.setWidth 5]
      (¬ Claims.takes s p → exec i s = .next u) ∧
      (Claims.takes s p → s.me.flushing p = false →
        ∃ t : State, exec i s = .next t.retire ∧ Claims.dispatched u t p i (s.rd a) (s.rd b) (s.rdC c)) ∧
      (Claims.takes s p → s.me.flushing p = true →
        ∃ t : State, exec i s = .next t.retire ∧ t.me.seq = s.me.seq + 1 ∧ Claims.queue t.me p = Claims.queue s.me p ∧
          (t.me.entry s.me.seq).st = .faulted ∧ (t.me.entry s.me.seq).fault = 0x0041))

/-- R41, R276, R433: mlease asks for the lease at dispatch; the context goes on when its core holds it, and waits for it
otherwise. -/
def Claims.LeaseRequest : Prop :=
  ∀ s : State, s.ctx = 0 → s.canBegin [0, 0, 0] [] = true → Claims.takes s .vector → s.me.flush = false →
    let g := s.getGrove (groveOf s.core)
    ∃ t, Claims.dispatched (s.started [0, 0, 0]) t .vector .mlease (s.rd 0) (s.rd 0) (s.rdC 0) ∧
      (t.getGrove (groveOf s.core)).requests.getLsbD (s.core % 4) = true ∧
      (t.getGrove (groveOf s.core)).holder = g.holder ∧
      (g.holder = some (inGrove s.core) → exec .mlease s = .next t.retire) ∧
      (g.holder ≠ some (inGrove s.core) → exec .mlease s = .next (t.waitOn .lease (some s.me.seq)))

/-- R20, R276: the lease. A free array goes to the next requesting core in round-robin order from its last holder; an
expiry takes it from its holder, whose request stands; mlease.rel at the head of the queue withdraws the request. -/
def Claims.LeaseEvents : Prop :=
  (∀ (grove : Nat) (s : State),
    let g := s.getGrove grove
    ∃ t, exec (.leaseGrant grove) s = .next t ∧
      let g' := t.getGrove grove
      g'.requests = g.requests ∧
      (∀ h, g.holder = some h → g' = g) ∧
      (g.holder = none → g.requests = 0 → g' = g) ∧
      ∀ h : Fin 4, g.holder = none → g.requests.getLsbD h.val = true →
        (∀ k : Fin 4, (k - g.last - 1).val < (h - g.last - 1).val → g.requests.getLsbD k.val = false) →
        g'.holder = some h ∧ g'.used = 0) ∧
  (∀ (grove : Nat) (s : State),
    let g := s.getGrove grove
    ∃ t, exec (.leaseExpiry grove) s = .next t ∧
      (g.holder = none → t.getGrove grove = g) ∧
      ∀ h, g.holder = some h →
        (t.getGrove grove).requests = g.requests ∧ (t.getGrove grove).used = 0 ∧
        ((∀ k : Fin 4, k ≠ h → g.requests.getLsbD k.val = false) → g.requests.getLsbD h.val = true →
          (t.getGrove grove).holder = some h) ∧
        ((∃ k : Fin 4, k ≠ h ∧ g.requests.getLsbD k.val = true) → ∃ k, k ≠ h ∧ (t.getGrove grove).holder = some k) ∧
        (g.requests = 0 → (t.getGrove grove).holder = none)) ∧
  ∀ (core : Nat) (q : QEntry) (rest : List QEntry) (s : State), (s.getCore core).vq = q :: rest → q.instr = .mleaseRel →
    ∃ t, exec (.vectorInstructionExecute core) s = .next t ∧ (t.getCore core).vq = rest ∧
      (t.getGrove (groveOf core)).requests.getLsbD (core % 4) = false ∧
      (t.getGrove (groveOf core)).holder ≠ some (inGrove core)

/-- R275, R278, R280, R282: a matrix command at the head of its core's queue. The checks come in the rule's order; a
command without a standing request faults NO_LEASE; one that is ready is accepted under the lease with the entries of its
group slot, read there once, and mswap changes ACTIVE; a group slot that breaks a bound faults GROUP_BOUND with its flag;
one whose slots are not ready, or whose core does not hold the lease, waits. -/
def Claims.MatrixAcceptance : Prop :=
  ∀ (core : Nat) (q : QEntry) (rest : List QEntry) (s : State), (s.getCore core).vq = q :: rest →
    let g := s.getGrove (groveOf core)
    (isMatrix q.instr = false → exec (.matrixCommandAccept core) s = .next s) ∧
    (isMatrix q.instr = true →
      (∀ f, s.matrixFault core q = some f →
        exec (.matrixCommandAccept core) s =
          .next ((s.modCore core fun c => { c with vq := rest, vload := none }).lateFault core q.seq f 0 0)) ∧
      (s.matrixFault core q = none → g.requests.getLsbD (core % 4) = false →
        exec (.matrixCommandAccept core) s =
          .next ((s.modCore core fun c => { c with vq := rest, vload := none }).lateFault core q.seq 0x0020 0 0)) ∧
      (s.matrixFault core q = none → g.requests.getLsbD (core % 4) = true → s.slotsReady core q = .wait →
        exec (.matrixCommandAccept core) s = .next s) ∧
      (s.matrixFault core q = none → g.requests.getLsbD (core % 4) = true → s.slotsReady core q = .fault 0x0023 →
        exec (.matrixCommandAccept core) s =
          .next (((s.modCore core fun c => { c with fstat := c.fstat ||| flagGroup }).modCore core fun c =>
            { c with vq := rest, vload := none }).lateFault core q.seq 0x0023 0 0)) ∧
      (s.matrixFault core q = none → g.requests.getLsbD (core % 4) = true → s.slotsReady core q = .fault 0x0022 →
        exec (.matrixCommandAccept core) s =
          .next ((s.modCore core fun c => { c with vq := rest, vload := none }).lateFault core q.seq 0x0022 0 0)) ∧
      ∀ group, s.matrixFault core q = none → g.requests.getLsbD (core % 4) = true →
        s.slotsReady core q = .accept group →
        (g.holder ≠ some (inGrove core) → exec (.matrixCommandAccept core) s = .next s) ∧
        (g.holder = some (inGrove core) → ∃ t, exec (.matrixCommandAccept core) s = .next t ∧
          (t.getCore core).vq = rest ∧
          (t.getGrove (groveOf core)).accepted =
            g.accepted ++ [{ core := core, entry := q, bank := g.active, group := group }] ∧
          (t.getGrove (groveOf core)).active = (if q.instr = .mswap then ~~~g.active else g.active) ∧
          (g.used + 1 < 32 → (t.getGrove (groveOf core)).used = g.used + 1 ∧
            (t.getGrove (groveOf core)).holder = g.holder) ∧
          (32 ≤ g.used + 1 → (t.getGrove (groveOf core)).used = 0) ∧
          (∀ tile h b gr, q.instr = .mgrp tile h b gr →
            group.length = 16 ∧ groupFault group = false ∧ groupTotal group ≤ s.filledFor core h ∧
            s.filledFor core gr ≠ 0)))

/-- Slots 0 to n − 1 from a ring's fill pointer lie in the scratchpad and do not meet. -/
def Claims.slotsApart (r : Ring) (n : Nat) : Prop :=
  ∀ i < n, r.fillSlot i + r.size ≤ 0x40000 ∧
    ∀ j < n, i ≠ j → r.fillSlot i + r.size ≤ r.fillSlot j ∨ r.fillSlot j + r.size ≤ r.fillSlot i

/-- R279, R281 to R285: the array performs its oldest command. mload.w writes the 128 images of a ring to a bank's
columns; mzero clears a tile; mload.t makes a table of a slot's entries, or faults TABLE_FORMAT and leaves the table; mst writes a
tile's rows to the ring's slots; mmac and mgrp write each of their rows with the contraction of the row's slot and the columns of
its bank, and leave the rows behind them and the banks. Each drains or fills the slots it names, and the command leaves the
array. -/
def Claims.MatrixCompletion : Prop :=
  (∀ (grove : Nat) (s : State), (s.getGrove grove).accepted = [] → exec (.matrixCommandComplete grove) s = .next s) ∧
  ∀ (a : Accepted) (rest : List Accepted) (s : State),
    let grove := groveOf a.core
    let g := s.getGrove grove
    let c := s.getCore a.core
    let ring (h : HReg) := c.getRing h
    let oa := opndA a.entry.b
    let ob := opndB a.entry.b
    let element (t : Tile) (h : HReg) (bank row col : Nat) : Lane :=
      (outElement oa ob (g.tileAt t.toNat (128 * row + col))
        (g.readGroup oa (intPath oa ob) (s.scratchRead a.core ((ring h).drainSlot row) 0x300))
        (g.readGroup ob (intPath oa ob) (g.image bank col))).1
    g.accepted = a :: rest →
    ∃ t, exec (.matrixCommandComplete grove) s = .next t ∧
      let g' := t.getGrove grove
      let c' := t.getCore a.core
      let ring' (h : HReg) := c'.getRing h
      (∀ x ∈ g'.accepted, x ∈ rest) ∧
      ((∃ bank h, a.entry.instr = .mloadW bank h) ∨ (∃ tile, a.entry.instr = .mzero tile) ∨
        (∃ h tile, a.entry.instr = .mst h tile) → g'.accepted = rest) ∧
      (∀ bank h, a.entry.instr = .mloadW bank h → Memory.wf (Sparse.get [] g.banks bank.toNat) = true →
        (ring' h).drain = (ring h).drain + 128 ∧
        ∀ j < 128, Memory.getAll (Sparse.get [] g'.banks bank.toNat) (0x300 * j) 0x300 =
          s.scratchRead a.core ((ring h).drainSlot j) 0x300) ∧
      (∀ tile, a.entry.instr = .mzero tile → ∀ i, g'.tileAt tile.toNat i = 0) ∧
      (∀ h tile, a.entry.instr = .mst h tile → (ring h).rowsPerSlot ≠ 0 →
        let p := (ring h).rowsPerSlot
        (ring' h).fill = (ring h).fill + BitVec.ofNat 32 (128 / p) ∧
        (p ≤ 128 → Memory.wf c.scratch = true → Claims.slotsApart (ring h) (128 / p) → g'.tiles = g.tiles ∧
          (∀ row < 128, ∀ col < 128,
            Memory.getAll c'.scratch ((ring h).fillSlot (row / p) + 0x200 * (row % p) + 4 * col) 4 =
              bytesOf 4 (g.tileAt tile.toNat (128 * row + col)).toNat) ∧
          ∀ x, (∀ i < 128 / p, x < (ring h).fillSlot i ∨ (ring h).fillSlot i + 0x200 * p ≤ x) →
            Memory.get c'.scratch x = Memory.get c.scratch x)) ∧
      (∀ tab h b, a.entry.instr = .mloadT tab h b →
        let e (i : Nat) : Nat := natOf (((s.scratchRead a.core ((ring h).drainSlot 0) 1024).drop (4 * i)).take 4)
        let w := a.entry.b.toNat
        let fits := 1 ≤ w ∧ w ≤ 8 ∧ ∀ i < 256, bits (e i) 31 19 = 0 ∧ (bits (e i) 17 10 = 0 → bits (e i) 9 0 = 0)
        (ring' h).drain = (ring h).drain + 1 ∧
        (fits → (Sparse.get Table.reset g'.tabs tab.toNat).width = w ∧
          ∀ i < 256, Sparse.get 0 (Sparse.get Table.reset g'.tabs tab.toNat).entries i = BitVec.ofNat 32 (e i)) ∧
        (¬ fits → g'.tabs = g.tabs ∧
          ((c.entry a.entry.seq).st = .inFlight → (c.entry a.entry.seq).seq = a.entry.seq →
            (c'.entry a.entry.seq).st = .faulted ∧ (c'.entry a.entry.seq).fault = 0x0024))) ∧
      (∀ tile h b, a.entry.instr = .mmac tile h b →
        let rows := bits a.entry.b.toNat 62 56 + 1
        (ring' h).drain = (ring h).drain + BitVec.ofNat 32 rows ∧ g'.banks = g.banks ∧
        (∀ row < rows, ∀ col < 128,
          g'.tileAt tile.toNat (128 * row + col) = element tile h a.bank.toNat row col) ∧
        ∀ i, 128 * rows ≤ i → g'.tileAt tile.toNat i = g.tileAt tile.toNat i) ∧
      (∀ tile h b gr, a.entry.instr = .mgrp tile h b gr → h ≠ gr →
        let rows := groupTotal a.group
        let banks := a.group.flatMap fun e => List.replicate (e % 256) (bits e 8 8)
        (ring' h).drain = (ring h).drain + BitVec.ofNat 32 rows ∧ (ring' gr).drain = (ring gr).drain + 1 ∧
        g'.banks = g.banks ∧
        (∀ row < rows, ∀ col < 128,
          g'.tileAt tile.toNat (128 * row + col) = element tile h (banks.getD row 0) row col) ∧
        ∀ i, 128 * rows ≤ i → g'.tileAt tile.toNat i = g.tileAt tile.toNat i)

/-- The flags of the arithmetic that the array raises: NV and OF (R191). -/
def Claims.arrayFlags : BitVec 11 := flagNV ||| flagOF

/-- R189 to R192: the contraction of a row and a column. Two INT operands give the exact sum with the tile's value, clamped to
32 bits, where a clamp sets SATURATE. Otherwise the runs go into the accumulator in ascending order, one rounding each: a run's
products are cut below 2^(E − 38), E being the exponent of the greatest, and summed exactly; a run of a block with scale 0xFF is
NaN; products that are all 0 add +0; 0 × ∞ gives NaN and NV; and no run sets a flag but NV and OF. -/
def Claims.Contraction : Prop :=
  (∀ (oa ob : Opnd) (old : Lane) (x y : Vec128), intPath oa ob = true →
    let sum : Int := old.toInt + ((x.zip y).map fun p => p.1.1.toExact * p.2.1.toExact).sum
    let r := outElement oa ob old x y
    r.1 = BitVec.ofInt 32 (max (-2 ^ 31) (min (2 ^ 31 - 1) sum)) ∧
    r.2 = (if sum < -2 ^ 31 ∨ 2 ^ 31 ≤ sum then flagSat else 0)) ∧
  (∀ (oa ob : Opnd) (old : Lane) (x y : Vec128), intPath oa ob = false →
    let len := min oa.runBlock ob.runBlock
    let run (k : Nat) := ((x.zip y).drop (len * k)).take len
    let acc (k : Nat) : Nat := (List.range k).foldl (fun a i => (addRun a (run i)).1) old.toNat
    let r := outElement oa ob old x y
    r.1 = BitVec.ofNat 32 (acc (128 / len)) ∧
    ∀ i, r.2.getLsbD i = (List.range (128 / len)).any fun k => (addRun (acc k) (run k)).2.getLsbD i) ∧
  ∀ (a : Nat) (ps : List ((Machine.Num × Option Int) × (Machine.Num × Option Int))),
    let r := addRun a ps
    let plain : FCtl := { rm := 0, fz := false, daz := false }
    (r.2 &&& ~~~Claims.arrayFlags = 0) ∧
    (∀ (p : (Machine.Num × Option Int) × (Machine.Num × Option Int)) (rest : List _), ps = p :: rest →
      p.1.2 = none ∨ p.2.2 = none → r.1 = 0x7FC00000) ∧
    ((∃ p ∈ ps, mulNum p.1.1 p.2.1 = none) → r.1 = 0x7FC00000 ∧ r.2.getLsbD 4 = true) ∧
    ∀ ka kb : Int, ps ≠ [] → (∀ p ∈ ps, p.1.2 = some ka ∧ p.2.2 = some kb) →
      ((∀ p ∈ ps, ∃ z, mulNum p.1.1 p.2.1 = some (.zero z)) →
        r.1 = (fp32.add plain (fp32.num false a).quiet (.zero false)).val) ∧
      ∀ E : Int, (∀ p ∈ ps, (∃ z, mulNum p.1.1 p.2.1 = some (.zero z)) ∨
          ∃ z m e, mulNum p.1.1 p.2.1 = some (.fin z m e) ∧ e + Nat.log2 m ≤ E) →
        (∃ p ∈ ps, ∃ z m e, mulNum p.1.1 p.2.1 = some (.fin z m e) ∧ e + Nat.log2 m = E) →
        let cut (p : (Machine.Num × Option Int) × (Machine.Num × Option Int)) : Int :=
          match mulNum p.1.1 p.2.1 with
          | some (.fin z m e) =>
            let n : Nat := if E - 38 ≤ e then m * 2 ^ (e - (E - 38)).toNat else m / 2 ^ (E - 38 - e).toNat
            if z then -(n : Int) else n
          | _ => 0
        let sum := (ps.map cut).sum
        r.1 = (fp32.add plain (fp32.num false a).quiet
          (if sum = 0 then .zero false else .fin (decide (sum < 0)) sum.natAbs (E - 38 + (ka + kb)))).val

/-! ### Execution of vector instructions (R237 to R245, R250 to R258) -/

/-- Reading order of an active lane: what the lane instructions of 32 bits write to each. -/
noncomputable def Claims.laneOps : List ((VReg → VReg → VReg → KReg → Instr) × (Lane → Lane → Lane)) :=
  [(.vaddI32, fun x y => BitVec.ofInt 32 (x.toInt + y.toInt)),
   (.vsubI32, fun x y => BitVec.ofInt 32 (x.toInt - y.toInt)),
   (.vmulI32, fun x y => BitVec.ofInt 32 (x.toInt * y.toInt)),
   (.vmulhI32, fun x y => BitVec.ofInt 32 (x.toInt * y.toInt / 2 ^ 32)),
   (.vand, fun x y => x &&& y), (.vor, fun x y => x ||| y), (.vxor, fun x y => x ^^^ y),
   (.vsllI32, fun x y => BitVec.ofNat 32 (x.toNat * 2 ^ (y.toNat % 32))),
   (.vsrlI32, fun x y => BitVec.ofNat 32 (x.toNat / 2 ^ (y.toNat % 32))),
   (.vsraI32, fun x y => BitVec.ofInt 32 (x.toInt / 2 ^ (y.toNat % 32))),
   (.vminI32, fun x y => if x.toInt ≤ y.toInt then x else y),
   (.vmaxI32, fun x y => if x.toInt ≤ y.toInt then y else x),
   (.vminuI32, fun x y => if x.toNat ≤ y.toNat then x else y),
   (.vmaxuI32, fun x y => if x.toNat ≤ y.toNat then y else x),
   (.vaddsI32, fun x y => BitVec.ofInt 32 (max (-2 ^ 31) (min (2 ^ 31 - 1) (x.toInt + y.toInt)))),
   (.vsubsI32, fun x y => BitVec.ofInt 32 (max (-2 ^ 31) (min (2 ^ 31 - 1) (x.toInt - y.toInt))))]

/-- What the instructions of 64-bit elements write to each (R243). -/
noncomputable def Claims.elemOps : List ((VReg → VReg → VReg → KReg → Instr) × (Word → Word → Word)) :=
  [(.vaddI64, fun x y => BitVec.ofInt 64 (x.toInt + y.toInt)),
   (.vsubI64, fun x y => BitVec.ofInt 64 (x.toInt - y.toInt)),
   (.vmulI64, fun x y => BitVec.ofInt 64 (x.toInt * y.toInt)),
   (.vsllI64, fun x y => BitVec.ofNat 64 (x.toNat * 2 ^ (y.toNat % 64))),
   (.vsrlI64, fun x y => BitVec.ofNat 64 (x.toNat / 2 ^ (y.toNat % 64))),
   (.vsraI64, fun x y => BitVec.ofInt 64 (x.toInt / 2 ^ (y.toNat % 64))),
   (.vminI64, fun x y => if x.toInt ≤ y.toInt then x else y),
   (.vmaxI64, fun x y => if x.toInt ≤ y.toInt then y else x)]

/-- When the comparisons of integer lanes hold (R244). -/
noncomputable def Claims.laneTests : List ((KReg → VReg → VReg → KReg → Instr) × (Lane → Lane → Bool)) :=
  [(.vceqI32, fun x y => decide (x = y)), (.vcltI32, fun x y => decide (x.toInt < y.toInt)),
   (.vcltuI32, fun x y => decide (x.toNat < y.toNat))]

/-- The head of a core's vector queue can execute and the arbiter would bind it (R53): no load of it has begun, no replay queue
holds a piece of the core's vector unit, and every other core of the grove has an empty queue. -/
def Claims.only (s : State) (core : Nat) (q : QEntry) : Prop :=
  (s.getCore core).vq = [q] ∧ (s.getCore core).vload = none ∧ s.heldBack core Piece.byVector = false ∧
  ∀ c, groveOf c = groveOf core → c ≠ core → (s.getCore c).vq = []

/-- `t` has the flags that `f` says of each result of the active of `n` lanes or elements ORed into FSTAT of the core, and the
instruction complete, where no flag is masked (R171, R340). -/
def Claims.flagged (s t : State) (core : Nat) (q : QEntry) (n : Nat) (active : Nat → Bool) (f : Nat → BitVec 11) : Prop :=
  s.flagMaskOf core ((s.getCore core).entry q.seq).launch = 0 →
    (t.getCore core).vq = [] ∧
    ∀ i, (t.getCore core).fstat.getLsbD i =
      ((s.getCore core).fstat.getLsbD i || (List.range n).any fun j => active j && (f j).getLsbD i)

/-- R239, R243, R244: an integer instruction writes its result to each active lane or element of d and leaves the others; a
saturating one that clamps sets SATURATE; a comparison writes a mask bit for each lane, 0 for an inactive one. Nothing else of the
core's registers changes, and the instruction completes. -/
def Claims.VectorIntegerLanes : Prop :=
  ∀ (core : Nat) (q : QEntry) (s : State), Claims.only s core q →
    let c := s.getCore core
    let on (m : KReg) (j : Nat) : Bool := (c.getK m.toNat).getLsbD j
    let lane (r : VReg) (j : Nat) : Lane := laneAt (c.getV r.toNat) j
    let elem (r : VReg) (e : Nat) : Word := BitVec.ofNat 64 (elemAt (c.getV r.toNat) e)
    let kept (t : State) : Prop := s.flagMaskOf core (c.entry q.seq).launch = 0 →
      (t.getCore core).ctxs = c.ctxs ∧ (t.getCore core).scratch = c.scratch ∧ t.mem = s.mem
    (∀ p ∈ Claims.laneOps, ∀ (d a b : VReg) (m : KReg), q.instr = p.1 d a b m →
      ∃ t, exec (.vectorInstructionExecute core) s = .next t ∧
        (∀ j < 128, laneAt ((t.getCore core).getV d.toNat) j =
          if on m j then p.2 (lane a j) (lane b j) else lane d j) ∧
        (∀ r, r ≠ d → (t.getCore core).getV r.toNat = c.getV r.toNat) ∧
        (∀ r : KReg, (t.getCore core).getK r.toNat = c.getK r.toNat) ∧ kept t ∧
        Claims.flagged s t core q 128 (on m) fun j =>
          let out (x : Int) : BitVec 11 := if x < -2 ^ 31 ∨ 2 ^ 31 ≤ x then flagSat else 0
          if q.instr = .vaddsI32 d a b m then out ((lane a j).toInt + (lane b j).toInt)
          else if q.instr = .vsubsI32 d a b m then out ((lane a j).toInt - (lane b j).toInt) else 0) ∧
    (∀ p ∈ Claims.elemOps, ∀ (d a b : VReg) (m : KReg), q.instr = p.1 d a b m →
      ∃ t, exec (.vectorInstructionExecute core) s = .next t ∧
        (∀ e < 64, elemAt ((t.getCore core).getV d.toNat) e =
          if on m (2 * e) then (p.2 (elem a e) (elem b e)).toNat else elemAt (c.getV d.toNat) e) ∧
        (∀ r, r ≠ d → (t.getCore core).getV r.toNat = c.getV r.toNat) ∧
        (∀ r : KReg, (t.getCore core).getK r.toNat = c.getK r.toNat) ∧ kept t ∧
        Claims.flagged s t core q 64 (fun e => on m (2 * e)) fun _ => 0) ∧
    ∀ p ∈ Claims.laneTests, ∀ (d : KReg) (a b : VReg) (m : KReg), q.instr = p.1 d a b m →
      ∃ t, exec (.vectorInstructionExecute core) s = .next t ∧
        (d ≠ 0 → ∀ j < 128, ((t.getCore core).getK d.toNat).getLsbD j = (on m j && p.2 (lane a j) (lane b j))) ∧
        (∀ r : KReg, r ≠ d → (t.getCore core).getK r.toNat = c.getK r.toNat) ∧
        (∀ r : VReg, (t.getCore core).getV r.toNat = c.getV r.toNat) ∧ kept t ∧
        Claims.flagged s t core q 128 (on m) fun _ => 0

/-- The FP32 lane instructions and the operation of each on the lanes of a, b and d (R242, R253). -/
noncomputable def Claims.floatOps32 :
    List ((VReg → VReg → VReg → KReg → Instr) × (FCtl → Machine.Num → Machine.Num → Machine.Num → FRes)) :=
  [(.vaddF32, fun c x y _ => fp32.add c x y), (.vsubF32, fun c x y _ => fp32.sub c x y),
   (.vmulF32, fun c x y _ => fp32.mul c x y), (.vdivF32, fun c x y _ => fp32.div c x y),
   (.vminF32, fun c x y _ => fp32.min c x y), (.vmaxF32, fun c x y _ => fp32.max c x y), (.vfmaF32, fp32.fma),
   (fun d a _ m => .vsqrtF32 d a m, fun c x _ _ => fp32.sqrt c x), (fun d a _ m => .vexp2F32 d a m, fun c x _ _ => exp2 c x)]

/-- The FP64 element instructions, likewise. -/
noncomputable def Claims.floatOps64 :
    List ((VReg → VReg → VReg → KReg → Instr) × (FCtl → Machine.Num → Machine.Num → Machine.Num → FRes)) :=
  [(.vaddF64, fun c x y _ => fp64.add c x y), (.vsubF64, fun c x y _ => fp64.sub c x y),
   (.vmulF64, fun c x y _ => fp64.mul c x y), (.vdivF64, fun c x y _ => fp64.div c x y),
   (.vminF64, fun c x y _ => fp64.min c x y), (.vmaxF64, fun c x y _ => fp64.max c x y), (.vfmaF64, fp64.fma),
   (fun d a _ m => .vsqrtF64 d a m, fun c x _ _ => fp64.sqrt c x)]

/-- R239, R242, R244: a floating lane or element instruction writes the correctly rounded result of the rule's operation to
each active lane or element, a comparison its mask bits, both of an element's, and FSTAT takes the flags of the active ones. -/
def Claims.VectorFloatLanes : Prop :=
  ∀ (core : Nat) (q : QEntry) (s : State), Claims.only s core q →
    let c := s.getCore core
    let f := fctl q.fmode
    let on (m : KReg) (j : Nat) : Bool := (c.getK m.toNat).getLsbD j
    let x (r : VReg) (j : Nat) : Machine.Num := fp32.num f.daz (laneAt (c.getV r.toNat) j).toNat
    let y (r : VReg) (e : Nat) : Machine.Num := fp64.num f.daz (elemAt (c.getV r.toNat) e)
    (∀ p ∈ Claims.floatOps32, ∀ (d a b : VReg) (m : KReg), q.instr = p.1 d a b m →
      let r (j : Nat) : FRes := p.2 f (x a j) (x b j) (x d j)
      ∃ t, exec (.vectorInstructionExecute core) s = .next t ∧
        (∀ j < 128, laneAt ((t.getCore core).getV d.toNat) j =
          if on m j then BitVec.ofNat 32 (r j).val else laneAt (c.getV d.toNat) j) ∧
        Claims.flagged s t core q 128 (on m) fun j => (r j).flags) ∧
    (∀ p ∈ Claims.floatOps64, ∀ (d a b : VReg) (m : KReg), q.instr = p.1 d a b m →
      let r (e : Nat) : FRes := p.2 f (y a e) (y b e) (y d e)
      ∃ t, exec (.vectorInstructionExecute core) s = .next t ∧
        (∀ e < 64, elemAt ((t.getCore core).getV d.toNat) e =
          if on m (2 * e) then (r e).val % 2 ^ 64 else elemAt (c.getV d.toNat) e) ∧
        Claims.flagged s t core q 64 (fun e => on m (2 * e)) fun e => (r e).flags) ∧
    (∀ p ∈ ([(.vceqF32, cmpEq), (.vcltF32, cmpLt), (.vcleF32, cmpLe)] :
        List ((KReg → VReg → VReg → KReg → Instr) × (Machine.Num → Machine.Num → CRes))),
      ∀ (d : KReg) (a b : VReg) (m : KReg), q.instr = p.1 d a b m →
      let r (j : Nat) : CRes := p.2 (x a j) (x b j)
      ∃ t, exec (.vectorInstructionExecute core) s = .next t ∧
        (d ≠ 0 → ∀ j < 128, ((t.getCore core).getK d.toNat).getLsbD j = (on m j && (r j).holds)) ∧
        Claims.flagged s t core q 128 (on m) fun j => (r j).flags) ∧
    ∀ p ∈ ([(.vceqF64, cmpEq), (.vcltF64, cmpLt)] :
        List ((KReg → VReg → VReg → KReg → Instr) × (Machine.Num → Machine.Num → CRes))),
      ∀ (d : KReg) (a b : VReg) (m : KReg), q.instr = p.1 d a b m →
      let r (e : Nat) : CRes := p.2 (y a e) (y b e)
      ∃ t, exec (.vectorInstructionExecute core) s = .next t ∧
        (d ≠ 0 → ∀ e < 64, ((t.getCore core).getK d.toNat).getLsbD (2 * e) = (on m (2 * e) && (r e).holds) ∧
          ((t.getCore core).getK d.toNat).getLsbD (2 * e + 1) = (on m (2 * e) && (r e).holds)) ∧
        Claims.flagged s t core q 64 (fun e => on m (2 * e)) fun e => (r e).flags

/-- R253: the powers of two. An integer from −149 to 127 gives the exact power and no flag in every mode, 0 gives 1, the infinities
0 and ∞, a NaN the canonical NaN; between two integers the result lies between their powers, in RNE. -/
def Claims.PowersOfTwo : Prop :=
  ∀ c : FCtl,
    (∀ z, exp2 c (.zero z) = { val := 0x3F800000, flags := 0 }) ∧
    exp2 c (.inf false) = { val := 0x7F800000, flags := 0 } ∧ exp2 c (.inf true) = { val := 0, flags := 0 } ∧
    (∀ q, (exp2 c (.nan q)).val = 0x7FC00000) ∧
    (∀ (k : Int) (m : Nat) (e : Int), k ≠ 0 → -149 ≤ k → k ≤ 127 →
      (0 ≤ e → m * 2 ^ e.toNat = k.natAbs) → (e < 0 → m = k.natAbs * 2 ^ (-e).toNat) →
      exp2 c (.fin (decide (k < 0)) m e) =
        { val := if -126 ≤ k then (127 + k).toNat * 2 ^ 23 else 2 ^ (k + 149).toNat, flags := 0 }) ∧
    ∀ (z : Bool) (m : Nat) (e i : Int), c.rm = 0 → e < 0 → m ≠ 0 → -126 ≤ i → i < 127 →
      i * 2 ^ (-e).toNat < signed z m → signed z m < (i + 1) * 2 ^ (-e).toNat →
      (127 + i).toNat * 2 ^ 23 ≤ (exp2 c (.fin z m e)).val ∧ (exp2 c (.fin z m e)).val ≤ (128 + i).toNat * 2 ^ 23

/-- R245, R250, R254 to R256: masks, selection, permutes and bit logic. A mask operation covers 128 bits and writes
nothing to k0; vsel selects by mask in every lane; vperm and vslide give 0 where their source lane does not exist; the
funnel shifts take 32 bits of the pair; kpop counts; vmovs moves one lane; vredor ORs the active lanes. -/
def Claims.VectorMovesAndMasks : Prop :=
  ∀ (core : Nat) (q : QEntry) (s : State), Claims.only s core q →
    let c := s.getCore core
    let lane (r : VReg) (j : Nat) : Lane := laneAt (c.getV r.toNat) j
    (c.getK 0 = BitVec.allOnes 128) ∧
    ∃ t, exec (.vectorInstructionExecute core) s = .next t ∧
      let lane' (r : VReg) (j : Nat) : Lane := laneAt ((t.getCore core).getV r.toNat) j
      let reg (d : SReg) : Word := (t.getCtx core q.ctx).stored d.toNat
      (∀ d a b : KReg,
        let k (r : KReg) := c.getK r.toNat
        let k' (r : KReg) := (t.getCore core).getK r.toNat
        d ≠ 0 →
          (q.instr = .kand d a b → k' d = (k a &&& k b)) ∧ (q.instr = .kor d a b → k' d = (k a ||| k b)) ∧
          (q.instr = .kxor d a b → k' d = (k a ^^^ k b)) ∧ (q.instr = .kandn d a b → k' d = (k a &&& ~~~k b))) ∧
      (∀ (d a b : VReg) (m : KReg), q.instr = .vsel d a b m → ∀ j < 128,
        lane' d j = if (c.getK m.toNat).getLsbD j then lane a j else lane b j) ∧
      (∀ (d : VReg) (a : SReg) (m : KReg), q.instr = .vbcast d a m → ∀ j < 128,
        lane' d j = if (c.getK m.toNat).getLsbD j then q.a.setWidth 32 else lane d j) ∧
      (∀ d a b : VReg, q.instr = .vperm d a b → ∀ j < 128,
        lane' d j = if (lane b j).toNat < 128 then lane a (lane b j).toNat else 0) ∧
      (∀ (d a : VReg) (b : SReg), q.instr = .vslide d a b → ∀ j : Nat, j < 128 →
        let i : Int := (j : Int) + q.b.toInt
        lane' d j = if 0 ≤ i ∧ i < 128 then lane a i.toNat else 0) ∧
      (∀ (d a b : VReg) (x : CReg), q.instr = .vfsl d a b x → ∀ j < 128,
        lane' d j = ((lane a j ++ lane b j) <<< (q.c.toNat % 32)).extractLsb' 32 32) ∧
      (∀ (d a b : VReg) (x : CReg), q.instr = .vfsr d a b x → ∀ j < 128,
        lane' d j = ((lane a j ++ lane b j) >>> (q.c.toNat % 32)).setWidth 32) ∧
      (∀ (d a b : VReg) (x : CReg), q.instr = .vlut3 d a b x → ∀ j < 128, ∀ i < 32,
        (lane' d j).getLsbD i = q.c.getLsbD
          (4 * ((lane d j).getLsbD i).toNat + 2 * ((lane a j).getLsbD i).toNat + ((lane b j).getLsbD i).toNat)) ∧
      (∀ d : SReg, (s.getCtx core q.ctx).bound d.toNat = false → d ≠ 0 →
        (∀ (a : VReg) (b : SReg) (m : KReg), q.instr = .vmovs d a b m →
          reg d = if q.b.toNat < 128 ∧ (c.getK m.toNat).getLsbD q.b.toNat = true then (lane a q.b.toNat).setWidth 64 else 0) ∧
        (∀ a m : KReg, q.instr = .kpop d a m →
          (reg d).toNat = ((List.range 128).filter fun j =>
            (c.getK a.toNat).getLsbD j && (c.getK m.toNat).getLsbD j).length) ∧
        (∀ (a : VReg) (m : KReg), q.instr = .vredor d a m → ∀ i < 64,
          (reg d).getLsbD i = (List.range 128).any fun j => (c.getK m.toNat).getLsbD j && (lane a j).getLsbD i) ∧
        (∀ (a : VReg) (m : KReg), q.instr = .vredsumI32 d a m →
          reg d = BitVec.ofInt 64 ((List.range 128).foldl
            (fun x j => x + if (c.getK m.toNat).getLsbD j then (lane a j).toInt else 0) 0)) ∧
        (∀ (a : VReg) (m : KReg), q.instr = .vredmaxI32 d a m → c.getK m.toNat ≠ 0 →
          ∃ j < 128, (c.getK m.toNat).getLsbD j = true ∧ reg d = (lane a j).signExtend 64 ∧
            ∀ i < 128, (c.getK m.toNat).getLsbD i = true → (lane a i).toInt ≤ (lane a j).toInt))

/-- One level of the tree of R250: neighbours combined, an absent one passed over. -/
def Claims.level {α : Type} (op : α → α → α) (x : Nat → Option α) (i : Nat) : Option α :=
  match x (2 * i), x (2 * i + 1) with
  | some p, some q => some (op p q)
  | some p, none => some p
  | none, q => q

/-- The root of a tree of 2^n leaves. -/
def Claims.tree {α : Type} (op : α → α → α) : Nat → (Nat → Option α) → Option α
  | 0, x => x 0
  | n + 1, x => Claims.tree op n (Claims.level op x)

/-- The levels of a scan at the distances of R251. -/
def Claims.scanned {α : Type} (op : α → α → α) : List Nat → (Nat → Option α) → Nat → Option α
  | [], x => x
  | t :: ts, x => Claims.scanned op ts fun j =>
      match (if t ≤ j then x (j - t) else none), x j with
      | some p, some q => some (op p q)
      | some p, none => some p
      | none, q => q

/-- R250 to R252: scans, the sort and the floating reductions. A reduction combines the active lanes or elements in the tree of the
rule, and writes the empty value when none is active; a scan gives each active lane the partial sum of the rule's levels; a sort
writes a permutation of the lane numbers: active lanes first, their numbers falling, NaNs behind them, ties by index; a signalling
NaN sets NV. -/
def Claims.VectorScanAndSort : Prop :=
  ∀ (core : Nat) (q : QEntry) (s : State), Claims.only s core q →
    let c := s.getCore core
    let f := fctl q.fmode
    let lane (r : VReg) (j : Nat) : Lane := laneAt (c.getV r.toNat) j
    let on (m : KReg) (j : Nat) : Bool := (c.getK m.toNat).getLsbD j
    let leaf (a : VReg) (m : KReg) (j : Nat) : Option Nat := if j < 128 ∧ on m j then some (fp32.flushed f (lane a j).toNat) else none
    let sum (x y : Nat) : Nat := (fp32.add f (fp32.num f.daz x) (fp32.num f.daz y)).val
    let reg (t : State) (d : SReg) : Word := (t.getCtx core q.ctx).stored d.toNat
    (∀ (d a : VReg) (m : KReg), q.instr = .vscanI32 d a m → ∃ t, exec (.vectorInstructionExecute core) s = .next t ∧
      ∀ j < 128, laneAt ((t.getCore core).getV d.toNat) j =
        if on m j then ((List.range (j + 1)).filter fun i => on m i).foldl (fun x i => x + lane a i) 0
        else lane d j) ∧
    (∀ (d a : VReg) (m : KReg), q.instr = .vscanF32 d a m → ∃ t, exec (.vectorInstructionExecute core) s = .next t ∧
      ∀ j < 128, laneAt ((t.getCore core).getV d.toNat) j =
        if on m j then
          BitVec.ofNat 32 (fp32.written f ((Claims.scanned sum [1, 2, 4, 8, 16, 32, 64] (leaf a m) j).getD 0)).1
        else lane d j) ∧
    (∀ (d a : VReg) (m : KReg), q.instr = .vsortxF32 d a m → ∃ t, exec (.vectorInstructionExecute core) s = .next t ∧
      let at' (j : Nat) : Nat := (laneAt ((t.getCore core).getV d.toNat) j).toNat
      let x (j : Nat) : Machine.Num := fp32.num f.daz (lane a j).toNat
      (∀ i < 128, ∃ j < 128, at' j = i) ∧
      (∀ i j, i < j → j < 128 →
        (on m (at' j) = true → on m (at' i) = true) ∧
        (on m (at' i) = false → at' i < at' j) ∧
        (on m (at' j) = true →
          ((x (at' i)).isNan = true → (x (at' j)).isNan = true ∧ at' i < at' j) ∧
          ((x (at' i)).isNan = false → (x (at' j)).isNan = false → (x (at' i)).lt (x (at' j)) = false ∧
            ((x (at' j)).lt (x (at' i)) = false → at' i < at' j)))) ∧
      Claims.flagged s t core q 128 (on m) fun j => if (x j).isSnan then flagNV else 0) ∧
    ∀ d : SReg, (s.getCtx core q.ctx).bound d.toNat = false → d ≠ 0 →
      (∀ p ∈ ([(.vredsumF32, fp32.add, 0), (.vredmaxF32, fp32.max, 0xFF800000), (.vredminF32, fp32.min, 0x7F800000)] :
          List ((SReg → VReg → KReg → Instr) × (FCtl → Machine.Num → Machine.Num → FRes) × Nat)),
        ∀ (a : VReg) (m : KReg), q.instr = p.1 d a m → ∃ t, exec (.vectorInstructionExecute core) s = .next t ∧
          reg t d = BitVec.ofNat 64 (fp32.written f ((Claims.tree
            (fun x y => (p.2.1 f (fp32.num f.daz x) (fp32.num f.daz y)).val) 7 (leaf a m)).getD p.2.2)).1) ∧
      (∀ (a : VReg) (m : KReg), q.instr = .vredsumF64 d a m → ∃ t, exec (.vectorInstructionExecute core) s = .next t ∧
        reg t d = BitVec.ofNat 64 (fp64.written f ((Claims.tree
          (fun x y => (fp64.add f (fp64.num f.daz x) (fp64.num f.daz y)).val) 6
          (fun e => if e < 64 ∧ on m (2 * e) then some (fp64.flushed f (elemAt (c.getV a.toNat) e)) else none)).getD 0)).1) ∧
      ∀ (a : VReg) (m : KReg), q.instr = .vredsumI64 d a m → ∃ t, exec (.vectorInstructionExecute core) s = .next t ∧
        reg t d = BitVec.ofNat 64 (((List.range 64).map fun e => if on m (2 * e) then elemAt (c.getV a.toNat) e else 0).sum)

/-- R257, R258: the hash and the conversions. vrng gives every lane bits 63 to 32 of the hash of key, counter and lane; a
conversion writes every lane: integers and numbers rounded in the mode of FMODE, the halves of a lane that hold no code 0. -/
def Claims.HashAndConversion : Prop :=
  ∀ (core : Nat) (q : QEntry) (s : State), Claims.only s core q →
    let c := s.getCore core
    let f := fctl q.fmode
    let lane (r : VReg) (j : Nat) : Nat := (laneAt (c.getV r.toNat) j).toNat
    let num (r : VReg) (j : Nat) : Machine.Num := fp32.num f.daz (lane r j)
    let turned (n : Nat) : Nat := q.a.toNat * 2 ^ n % 2 ^ 64 + q.a.toNat / 2 ^ (64 - n)
    let round (x : Nat) (r : Nat × Nat) : Nat :=
      let y := (x * r.1 % 2 ^ 64) ^^^ turned r.2
      y ^^^ (y / 2 ^ 31)
    let hashed (j : Nat) : Nat :=
      [(0xC3A56D2B81F40E97, 0), (0x8B51F6E32C9D7A4B, 13), (0xE4D83A175B62C9F1, 26), (0x9F2CB705D8E31465, 39),
       (0xB6E14D930A7F52CD, 52), (0xD07A91C6E35B28A3, 1)].foldl round
        (q.b.toNat ^^^ 0x6C8E9CF570932BD5 ^^^ (j * 2 ^ 57)) / 2 ^ 32
    ∀ d : VReg,
      let gives (i : Instr) (v : Nat → Nat) : Prop := q.instr = i → ∃ t, exec (.vectorInstructionExecute core) s = .next t ∧
        ∀ j < 128, laneAt ((t.getCore core).getV d.toNat) j = BitVec.ofNat 32 (v j)
      (∀ x y, gives (.vrng d x y) hashed) ∧
      ∀ a : VReg,
        gives (.vcvtF32I32 d a) (fun j => (fp32.ofInt f (laneAt (c.getV a.toNat) j).toInt).val) ∧
        gives (.vcvtI32F32 d a) (fun j => (BitVec.ofInt 32 (toInt f.rm (-2 ^ 31) (2 ^ 31 - 1) (num a j)).1).toNat) ∧
        gives (.vcvtF32F64 d a) (fun j =>
          if j < 64 then (fp32.put f (fp64.num f.daz (elemAt (c.getV a.toNat) j))).val else 0) ∧
        gives (.vcvtF16F32 d a) (fun j => (fp16.put f (num a j)).val) ∧
        gives (.vcvtBf16F32 d a) (fun j => (bf16.put f (num a j)).val) ∧
        gives (.vcvtF32F16 d a) (fun j => (fp32.put f (fp16.num f.daz (lane a j % 2 ^ 16))).val) ∧
        gives (.vcvtF32Bf16 d a) (fun j => (fp32.put f (bf16.num f.daz (lane a j % 2 ^ 16))).val) ∧
        gives (.vcvtF64F32 d a) (fun j => (fp64.put f (num a (j / 2))).val / 2 ^ (32 * (j % 2)))

/-- The lanes or elements that a vector access by addresses names, active ones only, each with its address, all aligned: those
of vld and vst at successive addresses, those of vldx and vstx each at its own (R246, R247). -/
def Claims.accesses (c : Core) (q : QEntry) (size : Nat) (v : VReg) (lanes : List (Nat × Word)) (wr each : Bool) : Prop :=
  (∃ (a : SReg) (m : KReg) (imm : Word),
    ((size = 4 ∧ q.instr = (if wr then .vstW v a m imm else .vldW v a m imm)) ∨
      (size = 8 ∧ q.instr = (if wr then .vstD v a m imm else .vldD v a m imm))) ∧ each = false ∧
    (q.a + imm * BitVec.ofNat 64 size).toNat % size = 0 ∧
    lanes = ((List.range (512 / size)).filter fun i => (c.getK m.toNat).getLsbD (size / 4 * i)).map fun i =>
      (i, q.a + imm * BitVec.ofNat 64 size + BitVec.ofNat 64 (size * i))) ∨
  ∃ (a : SReg) (b : VReg) (m : KReg),
    size = 4 ∧ q.instr = (if wr then .vstxW v a b m else .vldxW v a b m) ∧ each = true ∧
    lanes = (((List.range 128).filter fun j => (c.getK m.toNat).getLsbD j).map fun j =>
      (j, q.a + (laneAt (c.getV b.toNat) j).signExtend 64)) ∧ ∀ l ∈ lanes, l.2.toNat % 4 = 0

/-- R112, R240, R246 to R248: a vector access that is not aligned, or whose checks fail, ends in a late fault with no other
effect, an indexed one at its lowest lane that is not aligned; one that passes its checks and waits for nothing stores its active
lanes or its mask, or loads them, those in other cores' windows piece by piece, and completes with the last. -/
def Claims.VectorAccess : Prop :=
  (∀ (core : Nat) (q : QEntry) (s : State), Claims.only s core q →
    let c := s.getCore core
    let bad (code : BitVec 16) (info addr : Word) : Result :=
      .next (((s.bindLane core).modCore core fun c => { c with vq := [] }).lateFault core q.seq code info addr)
    (∀ (d : VReg) (r : SReg) (m : KReg) (imm : Word),
      let va := q.a + imm * 4
      (q.instr = .vldW d r m imm ∨ q.instr = .vstW d r m imm) →
        (va.toNat % 4 ≠ 0 → exec (.vectorInstructionExecute core) s = bad 0x0004 0 va) ∧
        (q.instr = .vldW d r m imm → c.getK m.toNat = 0 → va.toNat % 4 = 0 →
          ∃ t, exec (.vectorInstructionExecute core) s = .next t ∧ (t.getCore core).getV d.toNat = c.getV d.toNat ∧
            (t.getCore core).vq = [] ∧ t.mem = s.mem)) ∧
    (∀ (d : VReg) (r : SReg) (m : KReg) (imm : Word),
      let va := q.a + imm * 8
      (q.instr = .vldD d r m imm ∨ q.instr = .vstD d r m imm) → va.toNat % 8 ≠ 0 →
        exec (.vectorInstructionExecute core) s = bad 0x0004 0 va) ∧
    (∀ (d b : VReg) (r : SReg) (m : KReg), (q.instr = .vldxW d r b m ∨ q.instr = .vstxW d r b m) →
      let at' (j : Nat) : Word := q.a + (laneAt (c.getV b.toNat) j).signExtend 64
      ∀ j < 128, (c.getK m.toNat).getLsbD j = true → (at' j).toNat % 4 ≠ 0 →
        (∀ i < 128, (c.getK m.toNat).getLsbD i = true → (at' i).toNat % 4 ≠ 0 → (at' j).toNat ≤ (at' i).toNat) →
        exec (.vectorInstructionExecute core) s = bad 0x0004 0 (at' j)) ∧
    (∀ (k : KReg) (r : SReg), (q.instr = .kld k r ∨ q.instr = .kst k r) →
      (q.a.toNat % 16 ≠ 0 → exec (.vectorInstructionExecute core) s = bad 0x0004 0 q.a) ∧
      (q.a.toNat % 16 = 0 → ∀ f : AFault,
        (s.bindLane core).laneAccess core (if q.instr = .kld k r then .read else .write) 16 [q.a] = .error f →
        exec (.vectorInstructionExecute core) s = bad f.code f.info f.addr)) ∧
    (∀ (size : Nat) (v : VReg) (lanes : List (Nat × Word)) (wr each : Bool), Claims.accesses c q size v lanes wr each →
      s.eligible core = true →
        let as := lanes.map fun l => l.2
        let ids := lanes.map fun l => l.1
        let acc : Access := if wr then .write else .read
        let checks := if each then (s.bindLane core).lanesEach core acc as else (s.bindLane core).laneAccess core acc size as
        (∀ f : AFault, checks = .error f → exec (.vectorInstructionExecute core) s = bad f.code f.info f.addr) ∧
        ∀ (ps : List Nat) (u w : State), checks = .ok (ps, u) →
          u.settleInv core q.ctx q.seq (ps.map fun p => (p, size)) = some w →
          let first := if each then none else some (ps.headD 0 - size * (ids.headD 0))
          (wr = true → w.lanesReady core size ps false = true → exec (.vectorInstructionExecute core) s =
            .next ((w.laneStores core q ((ids.zip ps).map fun l =>
              (l.2, laneBytes ((w.getCore core).getV v.toNat) size l.1)) first).vecDone core q 0)) ∧
          (wr = false →
            let now := pieceOf core ps first
            w.lanesReady core size now true = true →
            let x := (w.laneReads core now first).laneLoads core size now
            (now.length = ps.length → exec (.vectorInstructionExecute core) s =
              .next (x.1.vecWrite core q (.v v (putLanes ((x.1.getCore core).getV v.toNat) size (ids.zip x.2)), 0))) ∧
            (now.length < ps.length → exec (.vectorInstructionExecute core) s =
              .next (x.1.modCore core fun c => { c with vload := some { places := ps, vals := x.2 } })))) ∧
    ∀ (k : KReg) (r : SReg) (p : Nat) (ps : List Nat) (u w : State) (wr : Bool),
      q.instr = (if wr then .kst k r else .kld k r) → q.a.toNat % 16 = 0 → s.eligible core = true →
      (s.bindLane core).laneAccess core (if wr then .write else .read) 16 [q.a] = .ok (p :: ps, u) →
      u.settleInv core q.ctx q.seq ((p :: ps).map fun p => (p, 16)) = some w → w.lanesReady core 16 (p :: ps) (!wr) = true →
      (wr = true → exec (.vectorInstructionExecute core) s =
        .next ((w.laneStores core q [(p, bytesOf 16 ((w.getCore core).getK k.toNat).toNat)] (some p)).vecDone core q 0)) ∧
      (wr = false → exec (.vectorInstructionExecute core) s =
        let x := (w.laneReads core (p :: ps) (some p)).laneLoad core p 16
        .next (x.1.vecWrite core q (.k k (BitVec.ofNat 128 x.2), 0)))) ∧
  ∀ (core : Nat) (q : QEntry) (rest : List QEntry) (l : VLoad) (s : State) (size : Nat) (v : VReg) (lanes : List (Nat × Word))
    (each : Bool), (s.getCore core).vq = q :: rest → (s.getCore core).vload = some l →
    Claims.accesses (s.getCore core) q size v lanes false each →
    let ids := lanes.map fun l => l.1
    let first := if each then none else some (l.places.headD 0 - size * (ids.headD 0))
    let now := pieceOf core (l.places.drop l.vals.length) first
    let x := (s.laneReads core now first).laneLoads core size now
    (s.lanesReady core size now true = false → exec (.vectorInstructionExecute core) s = .next s) ∧
    (s.lanesReady core size now true = true →
      (l.vals.length + now.length < l.places.length → exec (.vectorInstructionExecute core) s =
        .next (x.1.modCore core fun c => { c with vload := some { l with vals := l.vals ++ x.2 } })) ∧
      (l.places.length ≤ l.vals.length + now.length → exec (.vectorInstructionExecute core) s =
        .next (x.1.vecWrite core q (.v v (putLanes ((x.1.getCore core).getV v.toNat) size (ids.zip (l.vals ++ x.2))), 0))))

/-- R260 to R263: venc and vdec. An unset ring faults RING_UNSET and a descriptor that breaks a rule ENC_FORMAT; with no slot
to fill or to drain the instruction waits. venc writes the 768 bytes of the group that it encodes to the slot, and nothing else
of the scratchpad, and fills it; vdec gives every lane the value of its element in the slot, and drains it. -/
def Claims.VectorGroups : Prop :=
  ∀ (core : Nat) (q : QEntry) (s : State), Claims.only s core q →
    let c := s.getCore core
    let g := s.getGrove (groveOf core)
    let bad (code : BitVec 16) : Result :=
      .next (((s.bindLane core).modCore core fun c => { c with vq := [] }).lateFault core q.seq code 0 0)
    ∀ (h : HReg) (v : VReg) (r : SReg) (enc : Bool), q.instr = (if enc then .venc h v r else .vdec v h r) →
      let ring := c.getRing h
      (ring.valid = false → exec (.vectorInstructionExecute core) s = bad 0x0026) ∧
      (ring.valid = true → encFault g q.b ring enc = true → exec (.vectorInstructionExecute core) s = bad 0x0025) ∧
      (ring.valid = true → encFault g q.b ring enc = false →
        (enc = true → ring.free = 0 → exec (.vectorInstructionExecute core) s = .next s) ∧
        (enc = false → ring.filled = 0 → exec (.vectorInstructionExecute core) s = .next s) ∧
        (enc = true → ring.free ≠ 0 → ring.fillSlot 0 + ring.size ≤ 0x40000 → Memory.wf c.scratch = true →
          let xs := (List.range 128).map fun j => fp32.num (fctl q.fmode).daz (laneAt (c.getV v.toNat) j).toNat
          ∃ t, exec (.vectorInstructionExecute core) s = .next t ∧
            ((t.getCore core).getRing h).fill = ring.fill + 1 ∧
            Memory.getAll (t.getCore core).scratch (ring.fillSlot 0) 0x300 =
              (g.encodeGroup (opndA q.b) (bits q.b.toNat 31 24) (bits q.b.toNat 22 17) xs (drawOf q)).bytes ∧
            (∀ x, x < ring.fillSlot 0 ∨ ring.fillSlot 0 + 0x300 ≤ x →
              Memory.get (t.getCore core).scratch x = Memory.get c.scratch x) ∧
            ∀ x : VReg, (t.getCore core).getV x.toNat = c.getV x.toNat) ∧
        (enc = false → ring.filled ≠ 0 →
          let slot := (s.scratchRead core (ring.drainSlot 0) 0x300).toArray
          ∃ t, exec (.vectorInstructionExecute core) s = .next t ∧
            ((t.getCore core).getRing h).drain = ring.drain + 1 ∧
            ∀ j < 128, laneAt ((t.getCore core).getV v.toNat) j =
              BitVec.ofNat 32 (decoded (g.element (opndA q.b) false slot j)).1))

/-- R261: the bytes of a group. Bit p of each main code stands in plane p, then the scale bytes, the side entries, the spill
directory, the spilled scale bytes, and from 0x200 on the planes of the spilled blocks. -/
def Claims.GroupLayout : Prop :=
  ∀ (g : GroupCode) (size : Nat), g.width ≤ 16 → (g.blocks.flatMap fun (b : BlockCode) => b.codes).length = 128 → g.blocks.length ≤ 8 →
    g.side.length ≤ 32 → g.spilled.length ≤ 8 → size % 8 = 0 → (∀ b ∈ g.spilled, b.2.codes.length = size) →
    g.spilled.length * (g.wf * (size / 8)) ≤ 256 →
    let bs := g.bytes
    let byte (i : Nat) : Byte := bs.getD i 0
    bs.length = 0x300 ∧
    (∀ j < 128, ∀ p < g.width,
      (byte (16 * p + j / 8)).getLsbD (j % 8) = ((g.blocks.flatMap fun (b : BlockCode) => b.codes).getD j 0).testBit p) ∧
    (∀ i < g.blocks.length, byte (0x100 + i) = BitVec.ofNat 8 ((g.blocks.map fun (b : BlockCode) => b.scale).getD i 0)) ∧
    (∀ i < g.side.length, natOf ((bs.drop (0x108 + 4 * i)).take 4) = g.side.getD i 0 % 2 ^ 32) ∧
    (∀ i < 8, byte (0x188 + i) =
      if i < g.spilled.length then BitVec.ofNat 8 ((g.spilled.map fun (b : Nat × BlockCode) => b.1).getD i 0) else 0xFF) ∧
    (∀ i < g.spilled.length, byte (0x190 + i) = BitVec.ofNat 8 ((g.spilled.map fun (b : Nat × BlockCode) => b.2.scale).getD i 0)) ∧
    ∀ i < g.spilled.length, ∀ j < size, ∀ p < g.wf,
      (byte (0x200 + i * (g.wf * (size / 8)) + p * (size / 8) + j / 8)).getLsbD (j % 8) =
        (((g.spilled.map fun (b : Nat × BlockCode) => b.2.codes).getD i []).getD j 0).testBit p


/-! ### The ring unit and the copy engine (R269 to R273, R286 to R291) -/

/-- The instructions of the ring unit that retire at dispatch, with their operand registers. -/
def Claims.ringHeld : Instr → Option (SReg × SReg)
  | .hset _ a b => some (a, b)
  | .hadvP _ a _ | .hadvC _ a _ => some (a, 0)
  | .hget _ _ _ | .evtry _ _ => some (0, 0)
  | _ => none

/-- The instructions of the ring unit that their context waits for: operand register and what it waits on. -/
def Claims.ringWaits : Instr → Option (SReg × (Word → WaitObj))
  | .hwaitF h a imm => some (a, fun x => .ringFull h (x + imm).toNat)
  | .hwaitE h a imm => some (a, fun x => .ringFree h (x + imm).toNat)
  | .evwait d a => some (0, fun _ => .events d a)
  | _ => none

/-- R264 to R267, R273, R289, R433: dispatch to the ring unit. A bound destination traps ILLEGAL; a full unit stalls. An
instruction that is only held retires; one that is waited for makes its context WAITING on it; then it takes effect if it
can. cpwait captures ISSUED of its channel with its operand. -/
def Claims.RingDispatch : Prop :=
  (∀ (i : Instr) (a b : SReg) (s : State), Claims.ringHeld i = some (a, b) →
    (i.lateDests.any s.isBound = true → exec i s = .next s.illegal) ∧
    (i.lateDests.any s.isBound = false → s.canBegin [a, b, 0] i.lateDests = true →
      let u := s.started [a, b, 0]
      (¬ Claims.takes s .ring → exec i s = .next u) ∧
      (Claims.takes s .ring → ∃ w, Claims.dispatched u w .ring i (s.rd a) (s.rd b) (s.rdC 0) ∧
        exec i s = .next (w.retire.ringStep s.core s.ctx)))) ∧
  (∀ (i : Instr) (a : SReg) (obj : Word → WaitObj) (s : State), Claims.ringWaits i = some (a, obj) →
    (i.lateDests.any s.isBound = true → exec i s = .next s.illegal) ∧
    (i.lateDests.any s.isBound = false → s.canBegin [a, 0, 0] i.lateDests = true →
      let u := s.started [a, 0, 0]
      (¬ Claims.takes s .ring → exec i s = .next u) ∧
      (Claims.takes s .ring → ∃ w, Claims.dispatched u w .ring i (s.rd a) (s.rd 0) (s.rdC 0) ∧
        exec i s = .next ((w.waitOn (obj (w.rd a)) (some s.me.seq)).ringStep s.core s.ctx)))) ∧
  ∀ (ch : BitVec 2) (a : SReg) (s : State), s.canBegin [a] [] = true →
    let u := s.started [a]
    (¬ Claims.takes s .ring → exec (.cpwait ch a) s = .next u) ∧
    (Claims.takes s .ring →
      ∃ w, Claims.dispatched u w .ring (.cpwait ch a) (s.rd a) (BitVec.ofNat 64 (Sparse.get 0 s.me.issued ch.toNat)) 0 ∧
        exec (.cpwait ch a) s =
          .next ((w.waitOn (.copy ch (s.rd a).toNat) (some s.me.seq)).ringStep s.core s.ctx))

/-- R269 to R273, R289, R291: what the oldest instruction of a context in the ring unit does, when the context does not
wait for it. hset sets a handle whose slots lie in the scratchpad, or faults RING_PARAM; hadv.p and hadv.c move a pointer,
or fault RING_OVER and RING_UNDER; the waits complete once their count is there; an unset handle faults RING_UNSET; evtry
and evwait remove the oldest event record; cpwait beyond ISSUED faults COPY_PARAM. A context that waits for its instruction
goes on in the step in which it completes; a wake that came while its core was halted completes it (R43). -/
def Claims.RingUnit : Prop :=
  ∀ (core ctx : Nat) (s : State), core < 512 →
    ((s.getCore core).ru.find? (fun q => q.ctx == ctx) = none → exec (.ringUnitPerform core ctx) s = .next s) ∧
    ∀ q : QEntry, (s.getCore core).ru.find? (fun q => q.ctx == ctx) = some q →
      let c := s.getCore core
      let x := s.getCtx core ctx
      let left (t : State) : Prop := (t.getCore core).ru = c.ru.filter fun e => !(e.seq == q.seq)
      let late (code : BitVec 16) : Prop :=
        exec (.ringUnitPerform core ctx) s =
          .next ((s.modCore core fun c => { c with ru := c.ru.filter fun e => !(e.seq == q.seq) }).lateFault core q.seq code 0 0)
      let stays : Prop := exec (.ringUnitPerform core ctx) s = .next s
      let ends (p : State → Prop) : Prop := ∃ t, exec (.ringUnitPerform core ctx) s = .next t ∧ left t ∧ p t
      (x.waitsFor q.seq = true → x.mode ≠ .waiting → stays) ∧
      (x.waitsFor q.seq = true → x.mode = .waiting → x.popped = [] → x.woken = true →
        ends fun t => t.getCtx core ctx = Claims.steppedCtx x) ∧
      (x.waitsFor q.seq = true → x.mode = .waiting → x.popped = [] → x.woken = false →
        (∀ h a imm, q.instr = .hwaitF h a imm → (c.getRing h).valid = true → (q.a + imm).toNat ≤ (c.getRing h).slots →
          ((c.getRing h).filled < (q.a + imm).toNat → stays) ∧
          ((q.a + imm).toNat ≤ (c.getRing h).filled → ends fun t => t.getCtx core ctx = Claims.steppedCtx x)) ∧
        (∀ d a, q.instr = .evwait d a → c.events = [] → stays)) ∧
      (x.waitsFor q.seq = false →
        (∀ h a b, q.instr = .hset h a b →
          let ls := bits q.b.toNat 15 8
          let ln := bits q.b.toNat 7 0
          (bits q.b.toNat 63 16 ≠ 0 ∨ ls < 5 ∨ 16 < ls ∨ 8 < ln ∨ q.a.toNat % 2 ^ ls ≠ 0 → late 0x0027) ∧
          (bits q.b.toNat 63 16 = 0 → 5 ≤ ls → ls ≤ 16 → ln ≤ 8 → q.a.toNat % 2 ^ ls = 0 → s.vecAhead core q = false →
            ∀ rs t', s.xlateRange core .atomic (2 ^ (ls + ln) / 65536 + 2) q.a (2 ^ (ls + ln)) =
              .ok (rs, t') → (∀ r ∈ rs, winBase + 0x100000 * core ≤ r.1 ∧ r.1 + r.2 ≤ winBase + 0x100000 * core + 0x40000) →
              ends fun t =>
                let r := (t.getCore core).getRing h
                r.base = q.a ∧ r.fill = 0 ∧ r.drain = 0 ∧ r.valid = true ∧ r.size = 2 ^ ls ∧ r.slots = 2 ^ ln)) ∧
        (∀ d h f, q.instr = .hget d h f → x.bound d.toNat = false → d ≠ 0 → ends fun t =>
          (t.getCtx core ctx).stored d.toNat = (c.getRing h).field f) ∧
        (∀ h a imm, q.instr = .hadvP h a imm → s.vecAhead core q = false →
          let n := (q.a + imm).toNat
          ((c.getRing h).valid = false → late 0x0026) ∧
          ((c.getRing h).valid = true → (c.getRing h).free < n → late 0x0029) ∧
          ((c.getRing h).valid = true → n ≤ (c.getRing h).free → ends fun t =>
            (t.getCore core).getRing h = { c.getRing h with fill := (c.getRing h).fill + BitVec.ofNat 32 n })) ∧
        (∀ h a imm, q.instr = .hadvC h a imm → s.vecAhead core q = false →
          let n := (q.a + imm).toNat
          ((c.getRing h).valid = false → late 0x0026) ∧
          ((c.getRing h).valid = true → (c.getRing h).filled < n → late 0x002A) ∧
          ((c.getRing h).valid = true → n ≤ (c.getRing h).filled → ends fun t =>
            (t.getCore core).getRing h = { c.getRing h with drain := (c.getRing h).drain + BitVec.ofNat 32 n })) ∧
        (∀ h a imm, q.instr = .hwaitF h a imm ∨ q.instr = .hwaitE h a imm →
          let n := (q.a + imm).toNat
          let have_ := if q.instr = .hwaitF h a imm then (c.getRing h).filled else (c.getRing h).free
          ((c.getRing h).valid = false → late 0x0026) ∧
          ((c.getRing h).valid = true → (c.getRing h).slots < n → late 0x0028) ∧
          ((c.getRing h).valid = true → n ≤ (c.getRing h).slots → n ≤ have_ → ends fun _ => True) ∧
          ((c.getRing h).valid = true → n ≤ (c.getRing h).slots → have_ < n → stays)) ∧
        (∀ d a, q.instr = .evtry d a ∨ q.instr = .evwait d a → x.bound d.toNat = false → x.bound a.toNat = false →
          d ≠ 0 → a ≠ 0 → d ≠ a →
          (∀ e rest, c.events = e :: rest → ends fun t =>
            (t.getCore core).events = rest ∧ (t.getCtx core ctx).stored d.toNat = e.bits.setWidth 64 ∧
            (t.getCtx core ctx).stored a.toNat = (e.bits >>> 64).setWidth 64) ∧
          (c.events = [] → q.instr = .evtry d a → ends fun t =>
            (t.getCtx core ctx).stored d.toNat = 0 ∧ (t.getCtx core ctx).stored a.toNat = 0) ∧
          (c.events = [] → q.instr = .evwait d a → stays)) ∧
        ∀ ch a, q.instr = .cpwait ch a →
          (q.b.toNat < q.a.toNat → late 0x002B) ∧
          (q.a.toNat ≤ q.b.toNat → q.a.toNat ≤ Sparse.get 0 c.completed ch.toNat → ends fun _ => True) ∧
          (q.a.toNat ≤ q.b.toNat → Sparse.get 0 c.completed ch.toNat < q.a.toNat → stays))

/-- R92, R266, R267, R288: cpq. Its identifier is one above ISSUED of the channel; it makes the window checks where its
ranges translate; it stalls while eight requests are in the engine, its dispatch-ring entry is in flight or its context's
stores have to stay in the store buffer; a destination bound to an endpoint traps ILLEGAL. -/
def Claims.CopyRequest : Prop :=
  ∀ (ch : BitVec 2) (d a b : SReg) (x : CReg) (s : State),
    (s.isBound d = true → exec (.cpq ch d a b x) s = .next s.illegal) ∧
    (s.isBound d = false → s.canBegin [a, b, x.setWidth 5] [d] = true →
      let u := s.started [a, b, x.setWidth 5]
      (8 ≤ s.me.copies.length ∨ (s.me.entry s.me.seq).st = .inFlight ∨ s.drainable s.core s.ctx = false →
        exec (.cpq ch d a b x) s = .next u) ∧
      (s.me.copies.length < 8 → (s.me.entry s.me.seq).st ≠ .inFlight → s.drainable s.core s.ctx = true →
        let id := (Sparse.get 0 s.me.issued ch.toNat + 1) % 2 ^ 64
        ∃ t, exec (.cpq ch d a b x) s = .next t ∧ t.me.seq = s.me.seq + 1 ∧
          Sparse.get 0 t.me.issued ch.toNat = id ∧ (d ≠ 0 → t.cx.stored d.toNat = BitVec.ofNat 64 id) ∧
          t.cx.pc = s.cx.npc ∧ t.cx.mode = .ready ∧
          t.me.copies = s.me.copies ++
            [{ id := id, ch := ch, dst := s.rd a, src := s.rd b, lw := s.rdC x, seq := s.me.seq, ctx := s.ctx,
               unit := s.me.units, stage := .queued, down := false, done := 0, srcRuns := [], dstRuns := [],
               fault := 0, early := u.copyEarly s.core (s.rd a) (s.rd b) (s.rdC x), buf := [], whole := false }] ∧
          t.me.completed = s.me.completed ∧ t.me.scratch = s.me.scratch))

/-- R108, R109, R112: what the copy engine writes of a chunk. Module memory takes the bytes at the LLC, and the die sees them;
the lines that they lie in leave the die, dirty bytes first; every other byte of memory stays. A window is sent the bytes in
pieces of at most 64. -/
def Claims.CopyWrites : Prop :=
  ∀ (core : Nat) (r : CopyReq) (s : State), s.safe = true → s.storesOk = true →
    let dst := sliceRuns r.dstRuns r.chunkAt r.chunk
    let out := cutRuns dst ((if r.whole then r.buf.drop r.done else r.buf).take r.chunk)
    let held (a : Nat) : Byte := match s.copyOf (dieOf core) (lineOf a) with
      | some l => if l.dirty.getLsbD (a % 32) then l.bytes[a % 32]'(Nat.mod_lt _ (by decide)) else Memory.get s.mem a
      | none => Memory.get s.mem a
    let t := s.copyPut core r
    (dst.Pairwise fun a b => a.1 + a.2 ≤ b.1 ∨ b.1 + b.2 ≤ a.1) →
    (∀ x ∈ out, inWindow x.1 = false → ∀ i, ∀ h : i < x.2.length,
      Memory.get t.mem (x.1 + i) = x.2[i] ∧ t.seen (dieOf core) (x.1 + i) = x.2[i]) ∧
    (∀ a, (∀ x ∈ out, inWindow x.1 = false → a < x.1 ∨ x.1 + x.2.length ≤ a) →
      Memory.get t.mem a =
        if ∃ x ∈ out, inWindow x.1 = false ∧ lineOf a ∈ linesOf x.1 x.2.length then held a else Memory.get s.mem a) ∧
    t.pieces = s.pieces ++ (out.filter fun x => inWindow x.1).flatMap fun x =>
      (piecesOf core 16 (11 + r.ch.toNat) true x.1 x.2).map fun p =>
        { p with launch := ((s.getCore core).entry r.seq).launch }

/-- R111, R286 to R288, R290: the events of a copy. The first chunk's turn makes the checks, which decide the fault of the
copy before a byte moves. Then pieces of at most 64 bytes of the source are read, and a chunk of at most 4 KiB is written
once it is read; a copy whose source is not ready, or whose pieces are still on their way, passes its turn on. When no byte
is left the ring of ADV advances, or a late fault says RING_UNSET or RING_OVER; the event record is posted, or waits while
the queue holds 256; then COMPLETED takes the identifier. -/
def Claims.CopyEvents : Prop :=
  ∀ (core : Nat) (ch : BitVec 2) (s : State),
    let c := s.getCore core
    let passed (t : State) : State := t.modCore core fun c => { c with copyTurn := ch + 1 }
    ((c.copies.find? fun r => r.ch == ch) = none →
      exec (.copyChunk core ch) s = .next s ∧ exec (.copyComplete core ch) s = .next s ∧
      exec (.eventRecordPost core ch) s = .next s) ∧
    ∀ r : CopyReq, (c.copies.find? fun r => r.ch == ch) = some r → (∀ x ∈ c.copies, x.seq = r.seq → x = r) →
      (c.copyNext ≠ some ch → exec (.copyChunk core ch) s = .next s) ∧
      (c.copyNext = some ch → r.stage = .queued →
        (∀ f : AFault, s.copyChecks core r = .error f →
          exec (.copyChunk core ch) s =
            .next (passed ((s.modCopy core r.seq fun r => { r with stage := .ended, fault := f.code }).lateFault core r.seq
              f.code f.info f.addr))) ∧
        ∀ src dst w, s.copyChecks core r = .ok (src, dst, w) → ∃ t, exec (.copyChunk core ch) s = .next t ∧
          ((t.getCore core).copyTurn = ch ∨ (t.getCore core).copyTurn = ch + 1) ∧
          ∃ r' ∈ (t.getCore core).copies, r'.id = r.id ∧ r'.stage ≠ .queued ∧ r'.srcRuns = src ∧ r'.dstRuns = dst) ∧
      (c.copyNext = some ch → r.stage = .moving →
        let at_ := (if r.whole then 0 else r.chunkAt) + r.buf.length
        let piece := sliceRuns r.srcRuns at_ (min 64 (r.want - r.buf.length))
        let free := s.noPieces core Piece.byCopy
        (free = false → exec (.copyChunk core ch) s = .next (passed s)) ∧
        (free = true → r.want ≤ r.buf.length → exec (.copyChunk core ch) s = .next (passed (s.copyPut core r))) ∧
        (r.buf.length < r.want → s.copyReady core piece = false → exec (.copyChunk core ch) s = .next (passed s)) ∧
        (free = true → r.buf.length < r.want → s.copyReady core piece = true → ∃ t, exec (.copyChunk core ch) s = .next t ∧
          ∀ r' ∈ (t.getCore core).copies, r'.seq = r.seq →
            let read := r.buf ++ s.seenRuns (dieOf core) s.winSeen piece
            (read.length < r.want → r'.done = r.done ∧ r'.buf = read) ∧
            (r.want ≤ read.length → r'.done = r.done + min 4096 (r.len - r.done)))) ∧
      (r.stage ≠ .ended → exec (.copyComplete core ch) s = .next s) ∧
      (r.stage ≠ .posting → exec (.eventRecordPost core ch) s = .next s) ∧
      (r.stage = .ended → (∀ p ∈ s.pieces, p.src = core → p.ctx ≠ 11 + ch.toNat) → r.fault ≠ 0x0041 →
        let ring := c.getRing r.handle
        let code : BitVec 16 :=
          if r.adv = true ∧ r.fault = 0 then (if ring.valid = false then 0x0026 else if ring.free = 0 then 0x0029 else 0)
          else r.fault
        ∃ t, exec (.copyComplete core ch) s = .next t ∧
          (t.getCore core).getRing r.handle =
            (if r.adv = true ∧ code = 0 then { ring with fill := ring.fill + 1 } else ring) ∧
          (code ≠ 0 → (c.entry r.seq).st = .inFlight → (c.entry r.seq).seq = r.seq → r.fault = 0 →
            ((t.getCore core).entry r.seq).st = .faulted ∧ ((t.getCore core).entry r.seq).fault = code) ∧
          (code = 0 → (c.entry r.seq).st = .inFlight → (c.entry r.seq).seq = r.seq → r.event = false →
            ((t.getCore core).entry r.seq).st = .completed) ∧
          (r.event = false → Sparse.get 0 (t.getCore core).completed ch.toNat = r.id ∧
            ∀ x ∈ (t.getCore core).copies, x.seq ≠ r.seq) ∧
          (r.event = true → 256 ≤ c.events.length → (t.getCore core).completed = c.completed ∧
            (t.getCore core).events = c.events) ∧
          (r.event = true → r.ctx ≤ 10 → c.events.length < 256 →
            Sparse.get 0 (t.getCore core).completed ch.toNat = r.id ∧
            ∃ e, (t.getCore core).events = c.events ++ [e] ∧ e.n = c.eventCount ∧ bits e.bits.toNat 127 64 = r.id % 2 ^ 64 ∧
              bits e.bits.toNat 63 56 = (if code = 0 then 1 else 2) ∧ bits e.bits.toNat 15 0 = code.toNat)) ∧
      (r.stage = .posting → c.events.length < 256 → ∃ t, exec (.eventRecordPost core ch) s = .next t ∧
        Sparse.get 0 (t.getCore core).completed ch.toNat = r.id ∧ (t.getCore core).events.length = c.events.length + 1)



/-! ### The continuous fabric (R119 to R134, R292 to R297) -/

/-- R119, R292, R293, R296, R297, R433: the dispatch of the fabric instructions that do more than enter their queue. A claim
of no stand, of bits above [15:0], or beside a claim outstanding (in the queue) or held (its release not queued by gdone) traps
ILLEGAL; else it enters the fabric queue. afwait and afsamp make their context WAITING on them while a run goes on or is queued; else they
retire; then they take effect if they can. -/
def Claims.FabricDispatch : Prop :=
  (∀ (d a : SReg) (s : State), s.ctx = 0 →
    (s.isBound d = true → exec (.afcfgClaim d a) s = .next s.illegal) ∧
    (s.isBound d = false → s.canBegin [a] [d] = true →
      let u := s.started [a]
      let m := s.rd a
      let counted := (∃ q ∈ s.me.fq, ∃ e b, q.instr = .afcfgClaim e b) ∨
        (s.me.fab.claim ≠ 0 ∧ ¬ ∃ q ∈ s.me.fq, q.sys = true ∧ q.instr = .afcfgRel)
      (m = 0 ∨ bits m.toNat 63 16 ≠ 0 ∨ counted → exec (.afcfgClaim d a) s = .next u.illegal) ∧
      (m ≠ 0 → bits m.toNat 63 16 = 0 → ¬ counted →
        (¬ Claims.takes s .fabric → exec (.afcfgClaim d a) s = .next u) ∧
        (Claims.takes s .fabric → s.me.flushF = false →
          ∃ w, Claims.dispatched u w .fabric (.afcfgClaim d a) m 0 0 ∧
            exec (.afcfgClaim d a) s = .next w.retire)))) ∧
  ∀ (i : Instr) (s : State), s.ctx = 0 → ((∃ d, i = .afwait d) ∨ ∃ d a imm, i = .afsamp d a imm) →
    (i.lateDests.any s.isBound = true → exec i s = .next s.illegal) ∧
    (i.lateDests.any s.isBound = false → s.canBegin [0, 0, 0] i.lateDests = true →
      let u := s.started [0, 0, 0]
      (¬ Claims.takes s .fabric → exec i s = .next u) ∧
      (Claims.takes s .fabric → s.me.flushF = false →
        ∃ w, Claims.dispatched u w .fabric i (s.rd 0) (s.rd 0) (s.rdC 0) ∧
          (s.me.runAhead = true → exec i s = .next ((w.waitOn .fabric (some s.me.seq)).fabStep s.core)) ∧
          (s.me.runAhead = false → exec i s = .next (w.retire.fabStep s.core))))

/-- R119, R121, R125 to R127, R130, R134: what the head of a fabric queue does, when no context waits for it. A claim of
free stands makes them the core's gang with the reset parameters and status 0; one that meets a claimed stand changes
nothing and reports 1. Without a gang every other instruction faults AF_UNCLAIMED; during a run all but afwait.try and
afcfg.rel wait. afscale sets the parameters or faults AF_PARAM; afrun starts a run or faults AF_CONFIG, and in replay is SETTLED at once;
afwait writes the status word; afsamp outside the gang faults AF_CONFIG; afcfg.rel ends the claim, the run with it, and its
stands return to their reset values. -/
def Claims.FabricInstructions : Prop :=
  ∀ (core : Nat) (s : State),
    ((s.getCore core).fq = [] → exec (.fabricInstructionPerform core) s = .next s) ∧
    ∀ (q : QEntry) (rest : List QEntry), (s.getCore core).fq = q :: rest → q.sys = false →
      (s.getCtx core 0).waitsFor q.seq = false →
      let c := s.getCore core
      let x := s.getCtx core q.ctx
      let f := c.fab
      let popped := s.modCore core fun c => { c with fq := rest, fwork := none }
      let late (code : BitVec 16) : Prop :=
        exec (.fabricInstructionPerform core) s = .next (popped.lateFault core q.seq code 0 0)
      let stays : Prop := exec (.fabricInstructionPerform core) s = .next s
      let ends (p : State → Prop) : Prop :=
        ∃ t, exec (.fabricInstructionPerform core) s = .next t ∧ (t.getCore core).fq = rest ∧ p t
      (∀ d a, q.instr = .afcfgClaim d a → x.bound d.toNat = false → d ≠ 0 →
        let free := ∀ n < 16, q.a.getLsbD n = true → Sparse.has (s.getDie (dieOf core)).owner n = false
        (free → ends fun t =>
          (t.getCore core).fab = { Fabric.reset with claim := q.a.setWidth 16 } ∧
          (∀ n < 16, q.a.getLsbD n = true → Sparse.get 0 (t.getDie (dieOf core)).owner n = core ∧
            Sparse.has (t.getDie (dieOf core)).owner n = true) ∧
          (t.getCtx core q.ctx).stored d.toNat = 0) ∧
        (¬ free → ends fun t =>
          (t.getCore core).fab = f ∧ (t.getDie (dieOf core)).owner = (s.getDie (dieOf core)).owner ∧
          (t.getCtx core q.ctx).stored d.toNat = 1)) ∧
      ((q.instr = .afcfgRel ∨ q.instr = .afrun ∨ (∃ a b, q.instr = .afcfg a b) ∨ (∃ a, q.instr = .afscale a) ∨
          (∃ d, q.instr = .afwait d ∨ q.instr = .afwaitTry d) ∨ ∃ d a imm, q.instr = .afsamp d a imm) →
        f.claim = 0 → late 0x0030) ∧
      (f.claim ≠ 0 → f.status = .running →
        (q.instr = .afrun ∨ (∃ a b, q.instr = .afcfg a b) ∨ (∃ a, q.instr = .afscale a) ∨ (∃ d, q.instr = .afwait d) ∨
          ∃ d a imm, q.instr = .afsamp d a imm) → stays) ∧
      (f.claim ≠ 0 → q.instr = .afcfgRel → ends fun t =>
        (t.getCore core).fab = Fabric.reset ∧
        ∀ n, Sparse.has (s.getDie (dieOf core)).owner n = true → Sparse.get 0 (s.getDie (dieOf core)).owner n = core →
          Sparse.sorted (s.getDie (dieOf core)).owner = true → Sparse.has (t.getDie (dieOf core)).owner n = false ∧
            ∀ i, Sparse.get Integ.reset (Sparse.get [] (t.getDie (dieOf core)).stands n) i = Integ.reset) ∧
      (∀ d, f.claim ≠ 0 → (q.instr = .afwaitTry d ∨ (q.instr = .afwait d ∧ f.status ≠ .running)) →
        x.bound d.toNat = false → d ≠ 0 → ends fun t =>
          let w := (t.getCtx core q.ctx).stored d.toNat
          bits w.toNat 7 0 = f.status.num ∧ bits w.toNat 31 8 = 0 ∧
          bits w.toNat 63 32 = min (2 ^ 32 - 1)
            (if f.status = .running then (s.time - f.start).toNat else if f.status = .notStarted then 0 else f.duration) ∧
          (t.getCore core).fab = f) ∧
      (f.claim ≠ 0 → f.status ≠ .running →
        (∀ a, q.instr = .afscale a →
          let w := q.a.toNat
          let ok := bits w 63 38 = 0 ∧ bits w 4 2 = 0 ∧ 1 ≤ bits w 33 18 ∧ 1 ≤ bits w 17 10 ∧ 8 ≤ bits w 9 5 ∧
            bits w 9 5 ≤ 20 ∧ bits w 1 0 ≠ 3
          (¬ ok → late 0x0031) ∧
          (ok → ends fun t =>
            let f' := (t.getCore core).fab
            f'.normq.toNat = bits w 37 34 ∧ f'.timeout.toNat = bits w 33 18 ∧ f'.window.toNat = bits w 17 10 ∧
            f'.thresh.toNat = bits w 9 5 ∧ f'.tau.toNat = bits w 1 0 ∧ f'.claim = f.claim ∧ f'.status = f.status)) ∧
        (q.instr = .afrun → s.runOk core = false → late 0x0032) ∧
        (q.instr = .afrun → s.runOk core = true → q.journal.toNat % 4 = 2 → ends fun t =>
          (t.getCore core).fab.status = .settled ∧ (t.getCore core).fab.duration = 0) ∧
        (q.instr = .afrun → s.runOk core = true → q.journal.toNat % 4 ≠ 2 → ends fun t =>
          (t.getCore core).fab.status = .running ∧ (t.getCore core).fab.start = s.time ∧
          (t.getCore core).fab.codes = [] ∧ (t.getCore core).fab.runSeq = q.seq ∧ (t.getCore core).entry = c.entry) ∧
        (∀ a b, q.instr = .afcfg a b → c.fwork = none → q.a.toNat % 8 ≠ 0 →
          exec (.fabricInstructionPerform core) s = .next (popped.lateFault core q.seq 0x0004 0 q.a)) ∧
        (∀ a b, q.instr = .afcfg a b → c.fwork = none → q.a.toNat % 8 = 0 →
          (q.b.toNat % 8 ≠ 0 ∨ q.b.toNat < 8 ∨ 65536 < q.b.toNat) → late 0x0032) ∧
        ∀ d a imm, q.instr = .afsamp d a imm →
          (64 * ((List.range 16).filter fun n => f.claim.getLsbD n).length ≤ imm.toNat → late 0x0032) ∧
          (imm.toNat < 64 * ((List.range 16).filter fun n => f.claim.getLsbD n).length → q.journal.toNat % 4 = 0 →
            x.bound d.toNat = false → x.bound a.toNat = false → d ≠ 0 → a ≠ 0 → d ≠ a →
            f.status = .settled ∨ f.status = .timeout ∨ f.status = .saturated → f.codes ≠ [] → ends fun t =>
              (t.getCtx core q.ctx).stored d.toNat = BitVec.ofNat 64 (codeFp32 (f.codes.getD imm.toNat (0, 0)).1) ∧
              (t.getCtx core q.ctx).stored a.toNat = BitVec.ofNat 64 (f.codes.getD imm.toNat (0, 0)).2) ∧
          (imm.toNat < 64 * ((List.range 16).filter fun n => f.claim.getLsbD n).length → q.journal.toNat % 4 = 0 →
            x.bound d.toNat = false → x.bound a.toNat = false → d ≠ 0 → a ≠ 0 → d ≠ a →
            f.status = .notStarted ∨ f.status = .cut → ends fun t =>
              (t.getCtx core q.ctx).stored d.toNat = 0 ∧ (t.getCtx core q.ctx).stored a.toNat = 0))

/-- R294: a configuration word `w` passes for a gang of `n` integrators. -/
def Claims.wordPasses (n w : Nat) : Prop :=
  bits w 59 50 < n ∧
  ((bits w 63 60 = 1 ∧ bits w 27 12 = 0 ∧ bits w 37 28 < n) ∨ (bits w 63 60 = 2 ∧ bits w 49 12 = 0) ∨
    (bits w 63 60 = 3 ∧ bits w 49 14 = 0) ∨ (bits w 63 60 = 4 ∧ bits w 49 1 = 0))

/-- R123, R294: what a word that passes leaves of the integrator that it names. -/
def Claims.configured (x : Integ) (w : Nat) : Integ :=
  let input : Input :=
    { enabled := w.testBit 46, mult := BitVec.ofNat 8 (bits w 45 38), source := BitVec.ofNat 10 (bits w 37 28),
      coef := BitVec.ofNat 12 (bits w 11 0) }
  match bits w 63 60 with
  | 1 => { x with inputs := Sparse.set x.inputs (bits w 49 47) input }
  | 2 => { x with bias := BitVec.ofNat 12 (bits w 11 0) }
  | 3 => { x with init := BitVec.ofNat 14 (bits w 13 0) }
  | _ => { x with active := w.testBit 0 }

/-- R107, R112, R123, R294: afcfg with a gang, no run and its checks passed. An image in module memory is read at once, one in a
window in pieces of at most 64 bytes, each when the port is ready; a page that fails to translate is its late fault. Once the
image is read, one word that fails faults AF_CONFIG and applies nothing; else every word is applied in order to the integrator
that it names, and the gang and its run are as before. -/
def Claims.FabricConfiguration : Prop :=
  ∀ (core : Nat) (s : State) (q : QEntry) (rest : List QEntry) (a b : SReg),
    let c := s.getCore core
    let n := c.gangSize
    c.fq = q :: rest → q.sys = false → (s.getCtx core 0).waitsFor q.seq = false → q.instr = .afcfg a b →
    c.fab.claim ≠ 0 → c.fab.status ≠ .running → q.a.toNat % 8 = 0 → q.b.toNat % 8 = 0 → 8 ≤ q.b.toNat → q.b.toNat ≤ 65536 →
    let run := exec (.fabricInstructionPerform core) s
    let popped (u : State) : State := u.modCore core fun c => { c with fq := rest, fwork := none }
    let applies (u : State) (bs : List Byte) : Prop :=
      let ws := (wordsOf (q.b.toNat / 8) bs).map fun w => w.toNat
      ((∃ w ∈ ws, ¬ Claims.wordPasses n w) → run = .next ((popped u).lateFault core q.seq 0x0032 0 0)) ∧
      ((∀ w ∈ ws, Claims.wordPasses n w) → ∃ t, run = .next t ∧ (t.getCore core).fq = rest ∧ (t.getCore core).fab = c.fab ∧
        ∀ j < n, t.integ core j = (ws.filter fun w => bits w 59 50 == j).foldl Claims.configured (s.integ core j))
    (c.fwork = none → ∀ e, s.access core .read q.a q.b.toNat = .error e →
      run = .next ((popped s).lateFault core q.seq e.code e.info e.addr)) ∧
    (c.fwork = none → ∀ rs u, s.access core .read q.a q.b.toNat = .ok (rs, u) → (∀ r ∈ rs, inWindow r.1 = false) →
      applies u (u.seenRuns (dieOf core) u.winSeen rs)) ∧
    ∀ p k left got u, ((c.fwork = some (.image ((p, k) :: left) got) ∧ u = s) ∨
        (c.fwork = none ∧ got = [] ∧ s.access core .read q.a q.b.toNat = .ok ((p, k) :: left, u))) → inWindow p = true →
      (u.copyReady core [(p, min 64 k)] = false → run = .next s) ∧
      (u.copyReady core [(p, min 64 k)] = true →
        let w := u.readPieces core (winCore p) (min 64 k)
        let here := w.seenRuns (dieOf core) w.winSeen [(p, min 64 k)]
        (64 < k ∨ left ≠ [] → ∃ t, run = .next t ∧ (t.getCore core).fq = c.fq ∧ (t.getCore core).fwork =
          some (.image (if 64 < k then (p + 64, k - 64) :: left else left) (got ++ here))) ∧
        (k ≤ 64 → left = [] → applies w (got ++ here)))

/-- R133: the fields of the journal entry `e`, number `k`, of a sample of integrator `j` of the core that answers (v, g). -/
def Claims.entryHolds (s : State) (core k j : Nat) (vg : Nat × Nat) (e : Nat) : Prop :=
  let f := (s.getCore core).fab
  bits e 63 0 = k ∧ bits e 79 64 = 16 * (dieOf core - lowDie s.cut (s.partOf core)) + (s.getCore core).standOf j ∧
  bits e 95 80 = j ∧ bits e 127 96 = vg.1 ∧ bits e 135 128 = vg.2 ∧ bits e 143 136 = f.status.num ∧ bits e 150 144 = 0 ∧
  bits e 159 151 = s.indexOf core ∧ bits e 191 160 = 0 ∧ (f.codes ≠ [] → bits e 255 192 = f.latchAt.toNat)

/-- R132 to R134, R297: afsamp under the journal, with a gang, no run and an integrator of it. In record mode its entry is
written at the journal's next index, at the LLC or as pieces to a window, and then the registers; at the capacity only the
registers, with JOURNAL_FULL. In replay mode the registers take VALUE and G of the core's next entry, which is consumed when
STAND, INTEG, G and VALUE pass; else JOURNAL_MISMATCH, and JOURNAL_END when none is left, leave the registers. -/
def Claims.FabricJournal : Prop :=
  (∀ (core : Nat) (s : State) (q : QEntry) (rest : List QEntry) (d a : SReg) (imm : Word), core < 512 → s.safe = true →
    let c := s.getCore core
    let f := c.fab
    let x := s.getCtx core q.ctx
    let part := s.partOf core
    let j := imm.toNat
    let k := (s.getPart part).jcount
    let cap := 2 ^ bits q.journal.toNat 11 6
    let at_ (n : Nat) : Word := (q.journal &&& ~~~0xFFF) + BitVec.ofNat 64 (32 * n)
    c.fq = q :: rest → q.sys = false → (s.getCtx core 0).waitsFor q.seq = false → q.instr = .afsamp d a imm →
    f.claim ≠ 0 → f.status ≠ .running → j < c.gangSize → x.bound d.toNat = false → x.bound a.toNat = false →
    d ≠ 0 → a ≠ 0 → d ≠ a →
    let run := exec (.fabricInstructionPerform core) s
    let popped (u : State) : State := u.modCore core fun c => { c with fq := rest, fwork := none }
    let regs (u : State) (v g : Nat) : State := (u.lateWr core q.ctx d (BitVec.ofNat 64 v)).lateWr core q.ctx a (BitVec.ofNat 64 g)
    let writes (t : State) (v g : Nat) : Prop := (t.getCore core).fq = rest ∧
      (t.getCtx core q.ctx).stored d.toNat = BitVec.ofNat 64 v ∧ (t.getCtx core q.ctx).stored a.toNat = BitVec.ofNat 64 g
    let vg : Nat × Nat :=
      if f.status = .notStarted ∨ f.status = .cut then (0, 0)
      else (codeFp32 (f.codes.getD j (0, 0)).1, (f.codes.getD j (0, 0)).2)
    (q.journal.toNat % 4 = 1 → (f.status = .notStarted ∨ f.status = .cut ∨ f.codes ≠ []) → (∀ l ∈ f.codes, l.2 ≤ 11) →
      (c.fwork = none → cap ≤ k → run = .next ((popped (regs s vg.1 vg.2)).lateFault core q.seq 0x0034 0 0)) ∧
      (c.fwork = none → k < cap →
        (∀ e, s.access core .write (at_ k) 32 = .error e →
          run = .next ((popped s).lateFault core q.seq e.code e.info e.addr)) ∧
        ∀ rs u, s.access core .write (at_ k) 32 = .ok (rs, u) →
          (rs.Pairwise fun x y => x.1 + x.2 ≤ y.1 ∨ y.1 + y.2 ≤ x.1) → (rs.map fun r => r.2).sum = 32 →
          ((∀ r ∈ rs, inWindow r.1 = false) → ∃ t, run = .next t ∧ writes t vg.1 vg.2 ∧ (t.getPart part).jcount = k + 1 ∧
            Claims.entryHolds s core k j vg (natOf (rs.flatMap fun r => Memory.getAll t.mem r.1 r.2))) ∧
          ((∃ r ∈ rs, inWindow r.1 = true) → ∃ t, run = .next t ∧ (t.getCore core).fq = c.fq ∧
            (t.getCore core).fwork = some (.entry vg.1 vg.2) ∧ (t.getPart part).jcount = k + 1 ∧
            t.getCtx core q.ctx = s.getCtx core q.ctx ∧ ∀ p m, rs = [(p, m)] → ∃ new, t.pieces = s.pieces ++ new ∧
              (∀ e ∈ new, e.src = core ∧ e.agent = 16 ∧ e.dst = winCore p) ∧
              Claims.entryHolds s core k j vg (natOf (new.flatMap fun e => e.bytes)))) ∧
      ∀ v g, c.fwork = some (.entry v g) →
        (s.noPieces core Piece.byFabric = false → run = .next s) ∧
        (s.noPieces core Piece.byFabric = true → ∃ t, run = .next t ∧ writes t v g)) ∧
    (q.journal.toNat % 4 = 2 →
      let next := s.journalFind core q.journal (cap - c.jpos) c.jpos
      (∀ e, next = .error e → run = .next ((popped s).lateFault core q.seq e.code e.info e.addr)) ∧
      (∀ u, next = .ok (none, u) → run = .next s) ∧
      ∀ n e u, next = .ok (some (n, e), u) →
        let ok := bits e 79 64 = 16 * (dieOf core - lowDie s.cut (s.partOf core)) + c.standOf j ∧ bits e 95 80 = j ∧
          bits e 135 128 ≤ 11 ∧ bits e 126 119 ≠ 255
        (ok → ∃ t, run = .next t ∧ writes t (bits e 127 96) (bits e 135 128) ∧ (t.getCore core).jpos = n + 1) ∧
        (¬ ok → run = .next ((popped u).lateFault core q.seq 0x0036 0 0)))) ∧
  ∀ (core n left : Nat) (journal : Word) (s : State),
    let va := (journal &&& ~~~0xFFF) + BitVec.ofNat 64 (32 * n)
    s.journalFind core journal 0 n = .error { code := 0x0035, info := 0, addr := 0 } ∧
    (∀ e, s.access core .read va 32 = .error e → s.journalFind core journal (left + 1) n = .error e) ∧
    ∀ rs u, s.access core .read va 32 = .ok (rs, u) →
      (u.copyReady core rs = false → s.journalFind core journal (left + 1) n = .ok (none, u)) ∧
      (u.copyReady core rs = true →
        let w := u.readRuns core rs
        let e := natOf (w.seenRuns (dieOf core) w.winSeen rs)
        (bits e 159 151 = s.indexOf core → s.journalFind core journal (left + 1) n = .ok (some (n, e), w)) ∧
        (bits e 159 151 ≠ s.indexOf core → s.journalFind core journal (left + 1) n = w.journalFind core journal left (n + 1)))

/-- R127, R128, R131: a run ends at the first of its events, with a code for each integrator of the gang. A run can settle
once THRESH may have held for WINDOW x tau / 16, times out at TIMEOUT x tau, and may saturate until then, when its codes are
latched in the same way and its afrun ends in AF_SATURATE; g of an active integrator is at most 11, and 0 for a run that did not settle; an inactive one latches
its initial condition with g 11. Without a run the events change nothing.
It rests on readings of the model: log entries 3 and 42. -/
def Obligations.FabricRuns : Prop :=
  ∀ (core : Nat) (s : State),
    let f := (s.getCore core).fab
    let tau := 1000 * 4 ^ f.tau.toNat
    let ns := (s.time - f.start).toNat
    let n := 64 * ((List.range 16).filter fun n => f.claim.getLsbD n).length
    let latched (t : State) (st : RunStatus) (dur : Nat) : Prop :=
      let f' := (t.getCore core).fab
      f'.status = st ∧ f'.duration = dur ∧ f'.codes.length = n ∧ f'.latchAt = f.start + BitVec.ofNat 64 dur ∧
      ∀ j < n, let l := f'.codes.getD j (0, 0)
        ((s.integ core j).active = true → l.2 ≤ 11 ∧ (st ≠ .settled → l.2 = 0)) ∧
        ((s.integ core j).active = false → l = ((s.integ core j).init, 11))
    let ended (i : Instr) (st : RunStatus) (dur : Nat) : Prop := ∃ t, exec i s = .next t ∧ latched t st dur
    let e := (s.getCore core).entry f.runSeq
    (f.status ≠ .running → exec (.runSettled core) s = .next s ∧ exec (.runTimeout core) s = .next s ∧
      exec (.runSaturated core) s = .next s) ∧
    (f.status = .running →
      (f.window.toNat * tau ≤ 16 * ns → ns ≤ f.timeout.toNat * tau → ended (.runSettled core) .settled ns) ∧
      (16 * ns < f.window.toNat * tau ∨ f.timeout.toNat * tau < ns → exec (.runSettled core) s = .next s) ∧
      (f.timeout.toNat * tau ≤ ns → ended (.runTimeout core) .timeout (f.timeout.toNat * tau)) ∧
      (ns < f.timeout.toNat * tau → exec (.runTimeout core) s = .next s) ∧
      (ns ≤ f.timeout.toNat * tau → ∃ u, exec (.runSaturated core) s = .next (u.lateFault core f.runSeq 0x0033 0 0) ∧
        latched u .saturated ns) ∧
      (ns ≤ f.timeout.toNat * tau → e.st = .inFlight → e.seq = f.runSeq →
        ∃ t, exec (.runSaturated core) s = .next t ∧ ((t.getCore core).entry f.runSeq).st = .faulted ∧
          ((t.getCore core).entry f.runSeq).fault = 0x0033) ∧
      (f.timeout.toNat * tau < ns → exec (.runSaturated core) s = .next s))


/-! ### Waits, late faults, ports and channels (R41, R42, R49, R78, R89, R93 to R98, R112, R332, R336, R397, R422) -/

/-- What a WAITING context waits for in the pipeline holds (R41). A result of a restored image serves any barrier. -/
noncomputable def Claims.ready (s : State) (core ctx : Nat) : WaitObj → Prop
  | .receive ep => (s.getEp core ep).peek ≠ none
  | .send ep => 0 < (s.getEp core ep).grants ∧ s.linkUp (s.getEp core ep) = true
  | .barrier n => ∃ r, (s.getCtx core ctx).barResult = some r ∧ (r.bar = n ∨ r.bar = 128)
  | .arrival _ => (s.on core ctx).flagsFinal = true
  | .inbox => (s.getCore core).port.head.toNat < (s.getCore core).port.tail.toNat
  | .inboxPool n =>
    (s.getCore core).port.head.toNat < (s.getCore core).port.tail.toNat ∨ (s.getPool (s.partOf core) n).present ≠ []
  | .helpers m => ∀ k < 10, m.getLsbD k = true → (s.getCtx core (k + 1)).mode = .free
  | .pool n =>
    let p := s.getPool (s.partOf core) n
    p.present ≠ [] ∧ ∀ r ∈ p.arb, r.live = true → r.waits = true → ¬ (r.core = core ∧ r.ctx = ctx)
  | .lines rs => s.ownedIn (dieOf core) rs = false
  | .fence r w scope => (s.on core ctx).fenceDone r w scope = true
  | _ => False

/-- R41 to R43, R331, R433: the end of a wait. A wake whose condition holds, or one that was kept while the core was halted,
makes the context READY, and its instruction completes in the next step; one whose condition does not hold changes
nothing; while the core is halted a wake that could pass is kept; a lease that is held completes mlease. A watchdog at
the partition's limit, which is not 0, ends the wait with WAIT_TIMEOUT, counted; below it nothing happens. A trap that is
due comes before either. -/
def Claims.WaitEnds : Prop :=
  ∀ (core ctx : Nat) (s : State),
    let x := s.getCtx core ctx
    (x.mode ≠ .waiting → exec (.waitTimeout core ctx) s = .next s ∧
      (x.mode ≠ .halted ∨ x.wait = none → exec (.wake core ctx) s = .next s) ∧
      ∀ w, x.mode = .halted → x.wait = some w →
        (x.heldMode = .waiting → s.heldDue core w.obj = true →
          exec (.wake core ctx) s = .next (s.modCtx core ctx fun x => { x with woken := true })) ∧
        (x.heldMode ≠ .waiting ∨ s.heldDue core w.obj = false → exec (.wake core ctx) s = .next s)) ∧
    (x.mode = .waiting → s.trapDue core ctx = true →
      exec (.wake core ctx) s = .next s ∧ exec (.waitTimeout core ctx) s = .next s) ∧
    (x.mode = .waiting → s.trapDue core ctx = false → ∀ o : WaitObj, x.wait = some { obj := o, seq := none } →
      (Claims.ready s core ctx o ∨ x.woken = true → exec (.wake core ctx) s =
        .next { s.modCtx core ctx (fun x => { x with mode := .ready, wait := none, waited := 0, waking := true }) with
                agenda := .resume core ctx :: s.agenda }) ∧
      (¬ Claims.ready s core ctx o → x.woken = false → exec (.wake core ctx) s = .next s)) ∧
    (∀ q, x.mode = .waiting → s.trapDue core ctx = false → x.popped = [] → x.wait = some { obj := .lease, seq := some q } →
      ((s.getGrove (groveOf core)).holder = some (inGrove core) ∨ x.woken = true →
        ∃ t, exec (.wake core ctx) s = .next t ∧ t.getCtx core ctx = Claims.steppedCtx x) ∧
      ((s.getGrove (groveOf core)).holder ≠ some (inGrove core) → x.woken = false →
        exec (.wake core ctx) s = .next s)) ∧
    (x.mode = .waiting → s.trapDue core ctx = false →
      let lim := (s.getPart (s.partOf core)).waitLim.toNat
      (lim = 0 ∨ x.waited < lim → exec (.waitTimeout core ctx) s = .next s) ∧
      (lim ≠ 0 → lim ≤ x.waited → (s.on core ctx).recordOwned = false →
        exec (.waitTimeout core ctx) s =
          .next (((s.count (s.partOf core) fun n => { n with wtimeout := min (n.wtimeout + 1) (2 ^ 32 - 1) }).on core
            ctx).takeFault 0x000A 0 0)))

/-- R332, R336, R422: a tick makes a TIMER pending for every control context of the partition, and none when TICK is 0. A
late fault of an instruction in flight, with a code that R334 lists, marks its entry and takes it out of its queue, the vector queue, the ring unit or the fabric queue; any
other does nothing. The
head of a replay queue that has waited past the wait limit clears the queue and is logged. -/
def Claims.TimedEvents : Prop :=
  (∀ (part : Nat) (s : State), ((s.getPart part).desc.tick = 0 → exec (.tick part) s = .next s) ∧
    ((s.getPart part).desc.tick ≠ 0 → ∃ t, exec (.tick part) s = .next t ∧
      (∀ i < s.coresPer, t.getCtx (s.coreAt part i) 0 = { s.getCtx (s.coreAt part i) 0 with timerPend := true }) ∧
      (∀ core, (∀ i < s.coresPer, core ≠ s.coreAt part i) → t.getCore core = s.getCore core) ∧ t.mem = s.mem)) ∧
  (∀ (core : Nat) (seq code : BitVec 16) (info faddr : Word) (s : State),
    let e := (s.getCore core).entry seq
    (e.st ≠ .inFlight ∨ e.seq ≠ seq ∨ lateCode code = false →
      exec (.lateFaultReport core seq code info faddr) s = .next s) ∧
    (e.st = .inFlight → e.seq = seq → lateCode code = true → ∃ t, exec (.lateFaultReport core seq code info faddr) s = .next t ∧
      ((t.getCore core).entry seq).st = .faulted ∧ ((t.getCore core).entry seq).fault = code ∧
      (∀ q ∈ (t.getCore core).vq, q.sys = false → q.seq ≠ seq) ∧ (∀ q ∈ (t.getCore core).ru, q.seq ≠ seq) ∧
      ∀ q ∈ (t.getCore core).fq, q.sys = false → q.seq ≠ seq)) ∧
  ∀ (core : Nat) (s : State),
    let p := (s.getCore core).port
    let lim := (s.getPart (s.partOf core)).waitLim.toNat
    (p.replay = [] ∨ lim = 0 ∨ p.replayWait ≤ lim → exec (.replayQueueTimeout core) s = .next s) ∧
    (p.replay ≠ [] → lim ≠ 0 → lim < p.replayWait → ∃ t, exec (.replayQueueTimeout core) s = .next t ∧
      (t.getCore core).port = { p with replay := [], replayWait := 0 } ∧
      (t.getPart (s.partOf core)).log.serial = (s.getPart (s.partOf core)).log.serial + 1)

/-- R93, R96 to R98, R112 to R114: the port. A core's own write to TAIL is discarded above HEAD + 64, with OVR set, stale up
to TAIL, and else applied; an add on RESV returns nothing here and adds; PORTSTAT clears the bits written 1; each takes
one arrival number. The oldest piece of a
source arrives when the port admits it: its bytes are the window's, it takes one arrival number, and a piece of another
core leaves a trace entry; a core of the present job that reaches one with an older job's state has that state cleared first
(R391). A piece of a core of another partition is not accepted (R387). A write of a context's register file writes unbound registers but s0. -/
def Claims.PortEvents : Prop :=
  (∀ (core : Nat) (w : Word) (s : State),
    let p := (s.getCore core).port
    let port (i : Instr) (p' : Port) : Prop := ∃ t, exec i s = .next t ∧
      t = s.modCore core fun c => { c with port := { p' with seq := p.seq + 1 } }
    (p.head.toNat + 64 < w.toNat → port (.tail core w) { p with ovr := true }) ∧
    (w.toNat ≤ p.head.toNat + 64 → w.toNat ≤ p.tail.toNat → port (.tail core w) p) ∧
    (w.toNat ≤ p.head.toNat + 64 → p.tail.toNat < w.toNat → port (.tail core w) { p with tail := w }) ∧
    port (.resv core w) { p with resv := p.resv + w } ∧
    port (.portstat core w) { p with ovr := p.ovr && !w.getLsbD 0, wrap := p.wrap && !w.getLsbD 1 }) ∧
  (∀ (dst src : Nat) (s : State),
    ((s.pieces.find? fun p => p.dst == dst && p.src == src) = none → exec (.windowPieceArrival dst src) s = .next s) ∧
    ∀ p, (s.pieces.find? fun p => p.dst == dst && p.src == src) = some p →
      let foreign := p.src < 512 ∧ s.partOf p.src ≠ s.partOf dst
      let u := s.reach p.src dst
      (foreign → ∃ t, exec (.windowPieceArrival dst src) s = .next t ∧ t.pieces.length + 1 = s.pieces.length ∧
        t.cores = s.cores ∧ t.groves = s.groves ∧ t.mem = s.mem) ∧
      (¬ foreign → s.admits p = false → exec (.windowPieceArrival dst src) s = .next s) ∧
      (¬ foreign → s.admits p = true → ∃ t, exec (.windowPieceArrival dst src) s = .next t ∧
        t.pieces.length + 1 = s.pieces.length ∧
        (t.getCore dst).port.seq = (s.getCore dst).port.seq + 1 ∧
        (p.src ≠ p.dst → (t.getCore dst).port.traceCount = (u.getCore dst).port.traceCount + 1) ∧
        (p.src = p.dst → p.agent.toNat < 20 → (t.getCore dst).port.traceCount = (s.getCore dst).port.traceCount) ∧
        (p.off + p.bytes.length ≤ 0x40000 → Memory.wf (u.getCore dst).scratch = true → ∀ i < p.bytes.length,
          t.winByte dst (p.off + i) = if i ∈ p.skip then u.winByte dst (p.off + i) else p.bytes.getD i 0))) ∧
  ∀ (core ctx : Nat) (r : SReg) (v : Word) (s : State), ctx < 11 →
    ∃ t, exec (.windowRegisterWrite core ctx (0x45000 + 256 * ctx + 8 * r.toNat) (bytesOf 8 v.toNat)) s = .next t ∧
      (r = 0 ∨ (s.getCtx core ctx).bound r.toNat = true → (t.getCtx core ctx).regs = (s.getCtx core ctx).regs) ∧
      (r ≠ 0 → (s.getCtx core ctx).bound r.toNat = false → (t.getCtx core ctx).stored r.toNat = v) ∧
      ∀ r' : SReg, r' ≠ r → (t.getCtx core ctx).stored r'.toNat = (s.getCtx core ctx).stored r'.toNat

/-- R49, R52, R396, R397: a receiver with a free slot grants it to its sender, with the halted bit of its core; to a peer
module the grant leaves the module by a port of the channel's route, with what the end declares, and not while none is
up. The exchange engine grants while it has room for a descriptor. A reply of a peer module is kept as its declaration of its end
of the channel, one of size 0 withdraws it; it makes the channel live when its declaration agrees, and ends it otherwise; it brings the
halted bit and a grant. Messages of a peer module are placed in order of their numbers, each under a grant; one already
placed is discarded. -/
def Claims.ChannelEvents : Prop :=
  (∀ (core ep : Nat) (s : State),
    let e := s.getEp core ep
    (e.declared = false ∨ e.live = false → exec (.channelGrant (.local core) ep) s = .next s) ∧
    (e.declared = true → e.live = true → e.send = false →
      (e.slots ≤ e.grants + e.msgs.length → exec (.channelGrant (.local core) ep) s = .next s) ∧
      (e.grants + e.msgs.length < e.slots →
        (∀ c' e', e.peer = .core c' e' → (c', e') ≠ (core, ep) → ∃ t, exec (.channelGrant (.local core) ep) s = .next t ∧
          t.getEp core ep = { e with grants := e.grants + 1 } ∧
          t.getEp c' e' = { s.getEp c' e' with grants := (s.getEp c' e').grants + 1,
                                               haltedBit := (s.getCore core).halted }) ∧
        ∀ part chan peer pc route, e.peer = .module part chan peer pc route →
          (s.portFor route peer = none → exec (.channelGrant (.local core) ep) s = .next s) ∧
          ∀ port, s.portFor route peer = some port → ∃ t, exec (.channelGrant (.local core) ep) s = .next t ∧
            t.getEp core ep = { e with grants := e.grants + 1 } ∧
            t.outbox = s.outbox ++ [.grant port peer pc chan true (s.getCore core).halted e.words e.slots])) ∧
    (e.declared = true → e.live = true → e.send = true →
      ((∃ c' e', e.peer = .core c' e') ∨ ∃ part chan peer pc route, e.peer = .module part chan peer pc route) →
      exec (.channelGrant (.local core) ep) s = .next s) ∧
    ∀ part group rank, e.declared = true → e.live = true → e.send = true → e.peer = .exchange part group rank →
      (e.slots ≤ e.grants + e.msgs.length → exec (.channelGrant (.local core) ep) s = .next s) ∧
      (e.grants + e.msgs.length < e.slots → (s.getCore core).slotFits ep = true →
        ∃ t, exec (.channelGrant (.local core) ep) s = .next t ∧ t.getEp core ep = { e with grants := e.grants + 1 })) ∧
  (∀ (part chan : Nat) (peer : BitVec 32) (pc words slots : Nat) (given halted : Bool) (s : State), ∃ t,
    exec (.channelGrant (.peer part peer pc given halted words slots) chan) s = .next t ∧
    (let key (x : PeerEnd) : Prop := x.chan = chan ∧ x.peer = peer ∧ x.peerChan = pc
     ∀ x, x ∈ (t.getPart part).peerEnds ↔ (¬ key x ∧ x ∈ (s.getPart part).peerEnds) ∨
       (key x ∧ words ≠ 0 ∧ x.words = words ∧ x.slots = slots)) ∧
    ∀ core ep, let e := s.getEp core ep
      let mine := e.declared = true ∧ e.byXchan = true ∧ ∃ route, e.peer = .module part chan peer pc route
      (¬ mine → t.getEp core ep = e) ∧
      (mine → ¬ (e.words = words ∧ e.slots = slots) →
        t.getEp core ep = { e with live := false, haltedBit := halted }) ∧
      (mine → e.words = words → e.slots = slots →
        t.getEp core ep = { e with live := true, haltedBit := halted,
                                   grants := if given = true ∧ e.send = true ∧ e.grants < e.slots then e.grants + 1
                                     else e.grants })) ∧
  ∀ (core ep : Nat) (n : BitVec 32) (ws : List Word) (s : State),
    let e := s.getEp core ep
    (e.declared = false ∨ e.live = false ∨ e.send = true → exec (.channelMessageArrival core ep n ws) s = .next s) ∧
    ∀ part chan peer pc route, e.peer = .module part chan peer pc route → e.declared = true → e.live = true →
      e.send = false → ∃ t, exec (.channelMessageArrival core ep n ws) s = .next t ∧
        (e.early = [] → n = e.seqno → ws.length = e.words → 0 < e.grants →
          t.getEp core ep = { e with msgs := e.msgs ++ [ws], grants := e.grants - 1, seqno := e.seqno + 1 }) ∧
        (2 ^ 31 ≤ (n - e.seqno).toNat → t.getEp core ep = e) ∧
        (e.early = [] → n ≠ e.seqno → (n - e.seqno).toNat < 2 ^ 31 → ws.length = e.words →
          t.getEp core ep = { e with early := [(n, ws)] })

/-- R89: a line that leaves a die's L1s writes its dirty bytes to the LLC and no other byte; the die then holds no copy, nor does a core of it. -/
def Claims.LineEviction : Prop :=
  ∀ (die line : Nat) (s : State), Memory.wf s.mem = true → s.copiesOk = true → ∃ t, exec (.l1Eviction die line) s = .next t ∧
    t.copyOf die line = none ∧ (∀ core, dieOf core = die → line ∉ (t.getCore core).l1) ∧
    (∀ i < 32, Memory.get t.mem (32 * line + i) =
      match s.copyOf die line with
      | some l => if l.dirty.getLsbD i then l.bytes[i % 32]'(Nat.mod_lt _ (by decide)) else Memory.get s.mem (32 * line + i)
      | none => Memory.get s.mem (32 * line + i)) ∧
    (∀ a, a / 32 ≠ line → Memory.get t.mem a = Memory.get s.mem a ∧ ∀ d, t.seen d a = s.seen d a)

/-! ### The command front end and the NCP commands (R366 to R372, R377 to R381, R388 to R411, R415 to R422, R427 to R430) -/

/-- The header of a command, and what the front end knows of it: opcode, version, PART, whether a switched-out partition
and whether a module in recovery take it (R368, R405, R418). -/
def Claims.cmd : Instr → Option (Hdr × Cmd)
  | .attach h _ _ => some (h, ⟨0x01, 0, .any, true, false⟩)
  | .detach h => some (h, ⟨0x02, 0, .either, false, false⟩)
  | .setpart h _ => some (h, ⟨0x03, 0, .partition, false, false⟩)
  | .graphload h _ _ => some (h, ⟨0x04, 0, .partition, false, false⟩)
  | .grapharm h _ => some (h, ⟨0x05, 0, .partition, false, false⟩)
  | .launcharm h _ => some (h, ⟨0x06, 0, .partition, false, false⟩)
  | .launchpatch h _ _ _ => some (h, ⟨0x07, 1, .partition, false, false⟩)
  | .cancelCommand h _ _ => some (h, ⟨0x08, 0, .partition, false, false⟩)
  | .sigreg h _ _ => some (h, ⟨0x09, 0, .partition, false, false⟩)
  | .rdmem h _ _ _ => some (h, ⟨0x0A, 2, .partition, true, false⟩)
  | .jobstart h => some (h, ⟨0x0B, 0, .partition, false, false⟩)
  | .jobstat h => some (h, ⟨0x0C, 0, .partition, false, false⟩)
  | .setxlate h _ _ _ => some (h, ⟨0x10, 0, .partition, true, false⟩)
  | .inval h _ _ => some (h, ⟨0x11, 0, .partition, true, false⟩)
  | .own h _ _ _ => some (h, ⟨0x12, 0, .module, true, false⟩)
  | .cut h _ => some (h, ⟨0x13, 0, .module, false, false⟩)
  | .halt h _ => some (h, ⟨0x14, 0, .partition, false, false⟩)
  | .resume h _ => some (h, ⟨0x15, 0, .partition, false, false⟩)
  | .portcfg h _ _ => some (h, ⟨0x18, 0, .module, false, false⟩)
  | .xchan h _ => some (h, ⟨0x19, 0, .partition, false, false⟩)
  | .collgrp h _ _ _ => some (h, ⟨0x1A, 0, .partition, false, false⟩)
  | .identity h => some (h, ⟨0x20, 0, .module, false, true⟩)
  | .quote h _ _ => some (h, ⟨0x21, 0, .module, false, false⟩)
  | .extend h _ _ => some (h, ⟨0x22, 0, .module, false, false⟩)
  | .fwstage h _ _ => some (h, ⟨0x23, 1, .module, false, false⟩)
  | .fwstageRecovery h _ _ _ _ => some (h, ⟨0x23, 1, .module, false, true⟩)
  | .switch h _ _ _ _ _ => some (h, ⟨0x30, 0, .partition, false, false⟩)
  | .restore h _ _ _ => some (h, ⟨0x31, 0, .partition, true, false⟩)
  | .imgxfer h _ _ _ _ _ => some (h, ⟨0x32, 0, .partition, true, false⟩)
  | .replaytrace h _ _ _ => some (h, ⟨0x33, 0, .partition, false, false⟩)
  | .stats h _ => some (h, ⟨0x40, 0, .either, false, false⟩)
  | .powercap h _ => some (h, ⟨0x41, 0, .module, false, false⟩)
  | .errlog h _ _ => some (h, ⟨0x42, 0, .either, false, false⟩)
  | .ncpUnsupportedOpcode h op => some (h, ⟨op, 0, .either, true, false⟩)
  | _ => none

/-- The command has the next number of one of the connections that the ports carry, and the front end passes it on. -/
def Claims.passes (s : State) (i : Instr) : Prop :=
  match Claims.cmd i with
  | some (h, c) => h.conn < 1024 ∧ h.seq = (s.getConn h.conn).next ∧ s.frontCheck h c = none
  | none => False

/-- The command ends with a status and a payload: `t` with the connection's number moved on and nothing held for it, the
response sent with the minor version that the connection has negotiated (R367), and the command that the connection holds for
the next number up next. -/
def Claims.ends (s : State) (i : Instr) (status : Nat) (payload : List Byte) (t : State) : Prop :=
  match Claims.cmd i with
  | some (h, c) =>
    let u := t.modConn h.conn fun x =>
      { x with next := x.next + 1, early := x.early.filter fun e => e.1 != h.seq, acked := none, checks := false }
    let minor := BitVec.ofNat 8 ((t.getConn h.conn).minor.getD 0)
    exec i s = .next ((u.send (.response { h with minor := minor } c.op (BitVec.ofNat 16 status) payload)).nextHeld h.conn)
  | none => False

/-- The command waits: what it has done so far gives `t`, and its connection holds it. -/
def Claims.held (s : State) (i : Instr) (t : State) : Prop :=
  match Claims.cmd i with
  | some (h, _) => exec i s = .next (t.holdCmd h i)
  | none => False

/-- The cases in which the front end itself answers, in the model's order (R13, R367, R368, R370, R405, R409, R418; log entry
12, a reading of the model): in recovery every command but IDENTITY and FWSTAGE is BUSY, and those need no attached connection; a
partition is switched out from the INSTANT of its switch on. -/
def Claims.frontStatus (s : State) (h : Hdr) (c : Cmd) : Option Nat :=
  let conn := s.getConn h.conn
  let part := h.part.toNat
  let takes : Prop :=
    match c.who with
    | .any | .either => part = 15 ∨ part < s.cut
    | .module => part = 15
    | .partition => part < s.cut
  have : Decidable takes := by unfold takes; split <;> infer_instance
  let out := (s.getPart part).out = true ∨ ∃ r, (s.getPart part).switch = some r ∧ r.instant.toNat ≤ s.time.toNat
  have : Decidable out := by unfold out; cases (s.getPart part).switch <;> simp <;> infer_instance
  if s.tap.recovery = true ∧ c.recovery = false then some 0x104
  else if h.major.toNat ≠ 2 then some 0x100
  else if h.rsv.toNat ≠ 0 ∨ 3 < h.minor.toNat then some 0x102
  else if conn.minor = none then if (s.tap.recovery = true ∨ c.who = .any) ∧ takes then none else some 0x103
  else if ∃ m ∈ conn.minor, m < c.since then some 0x101
  else if ¬ takes then some 0x103
  else if (c.who = .partition ∨ c.who = .either) ∧ part < s.cut ∧ out ∧ c.outOk = false then
    some 0x103
  else none

/-- R366, R369: a command of a connection that no port carries is dropped; one that is up to 256 ahead of its turn is held;
one further ahead is answered WINDOW and not performed; one in turn is answered once: by the front end with the status of
the first rule it breaks, or by its engine. ATTACH takes the highest version of both ranges, or is answered VERSION;
DETACH ends the connection's session; an opcode that is not listed is UNSUPPORTED.
It rests on readings of the model: log entry 12. -/
def Obligations.FrontEnd : Prop :=
  (∀ (i : Instr) (h : Hdr) (c : Cmd) (s : State), Claims.cmd i = some (h, c) →
    let ahead := (h.seq - (s.getConn h.conn).next).toNat
    (1024 ≤ h.conn → exec i s = .next s) ∧
    (h.conn < 1024 →
      (256 < ahead → exec i s = .next (s.send
        (.response { h with minor := BitVec.ofNat 8 ((s.getConn h.conn).minor.getD 0) } c.op 0x105 []))) ∧
      (0 < ahead → ahead ≤ 256 → (∀ e ∈ (s.getConn h.conn).early, e.1 ≠ h.seq) →
        exec i s = .next (s.modConn h.conn fun x => { x with early := x.early ++ [(h.seq, i)] })) ∧
      (h.seq = (s.getConn h.conn).next → ∀ st, Claims.frontStatus s h c = some st → Claims.ends s i st [] s)) ∧
    s.frontCheck h c = Claims.frontStatus s h c) ∧
  (∀ (h : Hdr) (lo hi : BitVec 16) (s : State), Claims.passes s (.attach h lo hi) →
    let offers (m : Nat) : Prop := lo.toNat ≤ 0x200 + m ∧ 0x200 + m ≤ hi.toNat
    ((∀ m ≤ 3, ¬ offers m) → Claims.ends s (.attach h lo hi) 0x100 [] s) ∧
    ∀ m ≤ 3, offers m → (∀ m' ≤ 3, m < m' → ¬ offers m') →
      Claims.ends s (.attach h lo hi) 0 [BitVec.ofNat 8 m, 2, 1, 2, 4, 1]
        (s.modConn h.conn fun c => { c with minor := some m })) ∧
  (∀ (h : Hdr) (s : State), Claims.passes s (.detach h) →
    Claims.ends s (.detach h) 0 [] (s.modConn h.conn fun c => { c with minor := none })) ∧
  ∀ (h : Hdr) (op : BitVec 8) (s : State), Claims.passes s (.ncpUnsupportedOpcode h op) →
    Claims.ends s (.ncpUnsupportedOpcode h op) 0x101 [] s

/-- R371, R388 to R391: SETPART writes the descriptor and starts the resident loops; SETXLATE gives the partition its
root and its cache ways, and writes back and drops the lines that the LLC slices hold in a way that changes partition; INVAL and OWN drop translations at once,
perform the accesses that keep one as far as they can be, and wait while one is left; OWN gives the frames their owner
first and zeroes them last; CUT divides the module anew, clears the dies whose partition changes, and takes from the others
the translations that reach windows of another partition. Each is refused as its rule says.
It rests on readings of the model: log entries 78, 80, 81, 85 and 148. -/
def Obligations.PartitionCommands : Prop :=
  (∀ (h : Hdr) (d : Desc) (s : State), Claims.passes s (.setpart h d) →
    let part := h.part.toNat
    (s.runsUnit part = true → Claims.ends s (.setpart h d) 0x104 [] s) ∧
    (s.runsUnit part = false → s.descOk d = false → Claims.ends s (.setpart h d) 0x102 [] s) ∧
    (s.runsUnit part = false → s.descOk d = true → ∃ t, Claims.ends s (.setpart h d) 0 [] t ∧
      (t.getPart part).set = true ∧ (t.getPart part).desc = d ∧ (t.getPart part).pools = [] ∧ t.mem = s.mem ∧
      ∀ i < s.coresPer,
        (t.getCtx (s.coreAt part i) 0).pc = d.loop ∧ (t.getCtx (s.coreAt part i) 0).mode = .ready ∧
        (t.getCtx (s.coreAt part i) 0).tl = false ∧
        (t.getCtx (s.coreAt part i) 0).regs = (s.getCtx (s.coreAt part i) 0).regs)) ∧
  (∀ (h : Hdr) (root lim : Word) (ways : BitVec 24) (s : State), Claims.passes s (.setxlate h root lim ways) →
    let part := h.part.toNat
    let i := Instr.setxlate h root lim ways
    let clash := ∃ p < s.cut, p ≠ part ∧ (s.getPart p).ways &&& ways ≠ 0
    (s.runsUnit part = true → Claims.ends s i 0x104 [] s) ∧
    (s.runsUnit part = false → clash → Claims.ends s i 0x102 [] s) ∧
    (s.runsUnit part = false → ¬ clash → ∃ t, Claims.ends s i 0 [] t ∧
      t.getPart part = { s.getPart part with root := root, waitLim := lim, ways := ways } ∧ t.mem = s.mem ∧
      (s.storesOk = true → ∀ d < 8, ∀ e ∈ (s.getMem d).llc, homeDie (64 * e.2) = d →
        ((s.getPart part).ways ^^^ ways).getLsbD (e.1 / 131072) = true →
        (∀ x ∈ (t.getMem d).llc, x.2 ≠ e.2) ∧
          ∀ i < 64, Memory.get (t.getMem d).gddr (64 * e.2 + i) = Memory.get s.mem (64 * e.2 + i)) ∧
      (∀ d ∈ s.diesOf part, (∀ e ∈ (t.getDie d).tlb, e.part ≠ part) ∧ ∀ w ∈ (t.getDie d).walks, w.part ≠ part) ∧
      ∀ core, ∀ e ∈ (t.getCore core).itlb ++ (t.getCore core).dtlb, e.part ≠ part)) ∧
  (∀ (h : Hdr) (base len : Word) (s : State), Claims.passes s (.inval h base len) →
    let part := h.part.toNat
    let i := Instr.inval h base len
    let va := base.toNat % 2 ^ 56
    let odd := base.toNat % 65536 ≠ 0 ∨ len.toNat % 65536 ≠ 0
    let windows := s.runsUnit part = true ∧ s.mapsWindows part va len.toNat = true
    let dropped := s.dropTlb part (fun e => meets e.va (2 ^ e.log) va len.toNat)
      fun w => meets w.va (2 ^ tableLog w.level) va len.toNat
    let u := dropped.settlePart part
    (odd → Claims.ends s i 0x102 [] s) ∧ (¬ odd → windows → Claims.ends s i 0x104 [] s) ∧
    (¬ odd → ¬ windows → (s.getPart part).out = false → u.usesVa part va len.toNat = true → Claims.held s i u) ∧
    (¬ odd → ¬ windows → (s.getPart part).out = true ∨ u.usesVa part va len.toNat = false → Claims.ends s i 0 [] u) ∧
    (∀ d ∈ s.diesOf part, ∀ e ∈ (u.getDie d).tlb, e.part = part → meets e.va (2 ^ e.log) va len.toNat = false) ∧
    ∀ core, ∀ e ∈ (u.getCore core).itlb ++ (u.getCore core).dtlb, e.part = part →
      meets e.va (2 ^ e.log) va len.toNat = false) ∧
  (∀ (h : Hdr) (first count : Nat) (o : BitVec 8) (s : State), Claims.passes s (.own h first count o) → s.safe = true →
    let i := Instr.own h first count o
    let lo := first * 2 ^ 21
    let hi := (first + count) * 2 ^ 21
    let bad := 2 ^ 18 < first + count ∨ (4 < o.toNat ∧ o ≠ 0xFE) ∨ ∃ j < count, Memory.get s.owners (first + j) = 0xFF
    let given := (s.setOwners first count o).dropFrames lo (count * 2 ^ 21)
    let u := s.coreKeys.foldl (fun s c => (s.drainFree c).cmoAll c) given
    let t := u.zeroFrames lo hi
    (bad → Claims.ends s i 0x102 [] s) ∧
    (¬ bad → u.usesFrames lo (count * 2 ^ 21) = true → Claims.held s i u) ∧
    (¬ bad → u.usesFrames lo (count * 2 ^ 21) = false → Claims.ends s i 0 [] t) ∧
    (∀ f, Memory.get u.owners f = if first ≤ f ∧ f < first + count then o else Memory.get s.owners f) ∧
    (∀ d, ∀ e ∈ (u.getDie d).tlb, meets e.pa (2 ^ e.log) lo (count * 2 ^ 21) = false) ∧
    (∀ a, Memory.get t.mem a = if lo ≤ a ∧ a < hi then 0 else Memory.get u.mem a) ∧
    (∀ d < 8, (∀ a, lo ≤ a → a < hi → Memory.get (t.getMem d).gddr a = 0) ∧
      ∀ e ∈ (t.getMem d).llc, ¬ (lo ≤ 64 * e.2 ∧ 64 * e.2 < hi)) ∧
    (∀ d, ∀ l ∈ (t.getDie d).l1, ¬ (lo ≤ 32 * l.1 ∧ 32 * l.1 < hi)) ∧ t.owners = u.owners) ∧
  ∀ (h : Hdr) (n : Nat) (s : State), Claims.passes s (.cut h n) → s.safe = true →
    let legal := n = 1 ∨ n = 2 ∨ n = 4
    let busy := ∃ p < s.cut, s.runsUnit p = true
    let moves (d : Nat) : Prop := d < 4 ∧ partOfDie s.cut d ≠ partOfDie n d
    let quiet := ∀ c, ∀ r ∈ (s.getCore c).copies, r.stage ≠ .moving
    (¬ legal → Claims.ends s (.cut h n) 0x102 [] s) ∧ (legal → busy → Claims.ends s (.cut h n) 0x104 [] s) ∧
    (legal → ¬ busy → n = s.cut → Claims.ends s (.cut h n) 0 [] s) ∧
    (legal → ¬ busy → n ≠ s.cut → ∃ t, Claims.ends s (.cut h n) 0 [] t ∧ t.cut = n ∧
      (∀ p, (t.getPart p).desc = (s.getPart p).desc ∧ (t.getPart p).root = (s.getPart p).root ∧
        (t.getPart p).waitLim = (s.getPart p).waitLim ∧ (t.getPart p).ways = (s.getPart p).ways ∧
        (quiet → (t.getPart p).log = ErrorLog.reset) ∧ (p ≠ 0 → (t.getPart p).pools = [])) ∧
      (∀ d, moves d → (quiet → (t.getDie d).tlb = []) ∧ (t.getDie d).l1 = [] ∧ (t.getDie d).barriers = [] ∧
        (t.getDie d).stands = []) ∧
      (∀ c, moves (dieOf c) → (t.getCore c).v = [] ∧ (t.getCore c).k = [] ∧ (t.getCore c).scratch = [] ∧
        (t.getCore c).eps = []) ∧
      (quiet → ∀ c, ¬ moves (dieOf c) →
        let keep (es : List TlbEntry) : List TlbEntry := es.filter fun e => !(inWindow e.pa && !t.ownWindows e.part e.pa (2 ^ e.log))
        t.getCore c = { s.getCore c with itlb := keep (s.getCore c).itlb, dtlb := keep (s.getCore c).dtlb, vload := none,
                                         fwork := none }) ∧
      ∀ p ∈ t.pieces, ¬ moves (dieOf p.dst))

/-- R368, R377, R378: GRAPHLOAD takes a graph that keeps its rules into its slot, or clears the slot; GRAPHARM and
LAUNCHARM end with the status of the arming, LAUNCHPATCH patches the record, CANCEL acts at its level, and SIGREG writes
an entry but for its COUNT.
It rests on readings of the model: log entries 82 and 83. -/
def Obligations.LaunchCommands : Prop :=
  (∀ (h : Hdr) (slot : Nat) (addr : Word) (s : State), Claims.passes s (.graphload h slot addr) →
    let part := h.part.toNat
    let i := Instr.graphload h slot addr
    let u := s.setGtab part slot addr
    (4095 < slot → Claims.ends s i 0x102 [] s) ∧
    (slot ≤ 4095 → (s.getGraph part slot).restful = false → Claims.ends s i 0x104 [] s) ∧
    (slot ≤ 4095 → (s.getGraph part slot).restful = true → ∀ v,
      (u.readGraph part addr = (none, v) → Claims.ends s i 0x102 [] (v.clearSlot part slot)) ∧
      ∀ g, u.readGraph part addr = (some g, v) →
        let stray := (v.getPart part).job.state = 1 ∧ Sparse.has (v.getPart part).job.phases g.phaseId = false
        (stray → Claims.ends s i 0x102 [] (v.clearSlot part slot)) ∧
        (¬ stray → ∀ w,
          (v.boundOk part slot g g.n 0 = (false, w) → Claims.ends s i 0x102 [] (w.clearSlot part slot)) ∧
          (v.boundOk part slot g g.n 0 = (true, w) → ∃ t, Claims.ends s i 0 [] t ∧ t.getGraph part slot = g ∧
            t.mem = w.mem ∧ ∀ k, k ≠ slot → t.getGraph part k = w.getGraph part k)))) ∧
  (∀ (h : Hdr) (w : Word) (s : State), Claims.passes s (.grapharm h w) →
    Claims.ends s (.grapharm h w) (s.armGraph h.part.toNat w.toNat).1 [] (s.armGraph h.part.toNat w.toNat).2) ∧
  (∀ (h : Hdr) (w : Word) (s : State), Claims.passes s (.launcharm h w) →
    Claims.ends s (.launcharm h w) (s.armLaunch h.part.toNat w).1 [] (s.armLaunch h.part.toNat w).2) ∧
  (∀ (h : Hdr) (idx w v : Word) (s : State), Claims.passes s (.launchpatch h idx w v) →
    (s.patchLaunch h.part.toNat idx w v = none → Claims.ends s (.launchpatch h idx w v) 0x102 [] s) ∧
    ∀ t, s.patchLaunch h.part.toNat idx w v = some t → Claims.ends s (.launchpatch h idx w v) 0 [] t) ∧
  (∀ (h : Hdr) (k : Nat) (w : Word) (s : State), Claims.passes s (.cancelCommand h k w) →
    let part := h.part.toNat
    let i := Instr.cancelCommand h k w
    (4 < k → Claims.ends s i 0x102 [] s) ∧
    ∀ l : CancelLevel, (k, l) ∈ [(0, CancelLevel.unit), (1, .launch), (2, .graph), (3, .phase), (4, .job)] →
      (s.cancelOk part l w = false → Claims.ends s i 0x102 [] s) ∧
      (s.cancelOk part l w = true → Claims.ends s i 0 [] (s.cancelAt part l w))) ∧
  ∀ (h : Hdr) (sig : Nat) (entry : BitVec 256) (s : State), Claims.passes s (.sigreg h sig entry) →
    let part := h.part.toNat
    let i := Instr.sigreg h sig entry
    let va := (s.getPart part).desc.stab + BitVec.ofNat 64 (32 * sig)
    let bad := 4095 < sig ∨ entry.toNat / 2 % 2 ^ 63 ≠ 0
    (bad → Claims.ends s i 0x102 [] s) ∧
    (¬ bad → s.engRuns part .write 2 va 24 = none →
      Claims.ends s i 0x102 [] (s.engFail part .signal true va)) ∧
    (¬ bad → s.engRuns part .write 2 va 24 ≠ none →
      Claims.ends s i 0 [] (s.engWrite part .signal va (bytesOf 24 entry.toNat)))

/-- R43, R366, R372, R380, R381, R387, R418, R422: RDMEM sends a range that it may read to the host's memory, a halted
window once its registers are at rest and the host's own pieces have arrived; HALT holds every context of a core that is
not FREE and RESUME gives each back the state it held, a pending cancel taking effect at once, else the
wakes that came meanwhile; REPLAYTRACE fills the replay queue of a port, whose head keeps its count; JOBSTART starts a job whose descriptor keeps its rules and JOBSTAT answers
with the job record.
It rests on readings of the model: log entries 79, 84, 97, 124 and 134. -/
def Obligations.CoreCommands : Prop :=
  (∀ (h : Hdr) (addr : Word) (len : Nat) (host : Word) (s : State), Claims.passes s (.rdmem h addr len host) →
    let part := h.part.toNat
    let pa := addr.toNat
    let i := Instr.rdmem h addr len host
    (2 ^ 32 < len → Claims.ends s i 0x102 [] s) ∧
    (len ≤ 2 ^ 32 → s.haltedWindow part pa len false = true →
      let u := s.arriveN hostSrc s.pieces.length
      let rest := u.winReady (winCore pa) (winOff pa) len = true ∧ u.noPieces hostSrc (fun p => p.dst == winCore pa) = true
      (¬ rest → Claims.held s i u) ∧
      (rest → ∃ bs : List Byte, bs.length = len ∧ (∀ j < len, bs.getD j 0 = u.winSeen (pa + j)) ∧
        Claims.ends s i 0 [] ((u.readPieces 513 (winCore pa) len).send (.hostWrite host bs)))) ∧
    (len ≤ 2 ^ 32 → s.haltedWindow part pa len false = false → s.reachable part pa len = false →
      Claims.ends s i 0x102 [] (s.logPart part 2 0 pa 1)) ∧
    (len ≤ 2 ^ 32 → s.haltedWindow part pa len false = false → s.reachable part pa len = true →
      (s.imageOpen pa len = true → Claims.held s i s) ∧
      (s.imageOpen pa len = false → ∃ bs : List Byte, bs.length = len ∧
        (∀ j < len, bs.getD j 0 = Memory.get s.mem (pa + j)) ∧ Claims.ends s i 0 [] (s.send (.hostWrite host bs))))) ∧
  (∀ (h : Hdr) (idx : Nat) (s : State), Claims.passes s (.halt h idx) →
    let core := s.coreAt h.part.toNat idx
    (s.coresPer ≤ idx → Claims.ends s (.halt h idx) 0x102 [] s) ∧
    (idx < s.coresPer → (s.getCore core).halted = true → Claims.ends s (.halt h idx) 0 [] s) ∧
    (idx < s.coresPer → (s.getCore core).halted = false → ∃ t, Claims.ends s (.halt h idx) 0 [] t ∧
      (t.getCore core).halted = true ∧ (∀ c, c ≠ core → t.getCore c = s.getCore c) ∧ t.mem = s.mem ∧
      ∀ k < 11, t.getCtx core k =
        if (s.getCtx core k).mode = .free then s.getCtx core k
        else { s.getCtx core k with heldMode := (s.getCtx core k).mode, mode := .halted })) ∧
  (∀ (h : Hdr) (idx : Nat) (s : State), Claims.passes s (.resume h idx) →
    let core := s.coreAt h.part.toNat idx
    (s.coresPer ≤ idx → Claims.ends s (.resume h idx) 0x102 [] s) ∧
    (idx < s.coresPer → (s.getCore core).halted = false → Claims.ends s (.resume h idx) 0 [] s) ∧
    (idx < s.coresPer → (s.getCore core).halted = true → ∃ t : State,
      Claims.ends s (.resume h idx) 0 []
        (if (s.getCore core).cancelPend = true then t.stopUnit core else t.wakeKept core) ∧
      (t.getCore core).halted = false ∧ (∀ c, c ≠ core → t.getCore c = s.getCore c) ∧
      (∀ k < 11, ∀ w, (t.getCtx core k).mode = .waiting → (t.getCtx core k).wait = some { obj := w, seq := none } →
        (∀ k' < 11, k' ≠ k → (t.getCtx core k').mode ≠ .waiting) → t.trapDue core k = false →
        Claims.ready t core k w ∨ (t.getCtx core k).woken = true → (t.wakeKept core).getCtx core k =
          { t.getCtx core k with mode := .ready, wait := none, waited := 0, waking := true }) ∧
      ∀ k < 11, t.getCtx core k =
        if (s.getCtx core k).mode = .halted then { s.getCtx core k with mode := (s.getCtx core k).heldMode }
        else s.getCtx core k)) ∧
  (∀ (h : Hdr) (idx n : Nat) (addr : Word) (s : State), Claims.passes s (.replaytrace h idx n addr) →
    let part := h.part.toNat
    let core := s.coreAt part idx
    let i := Instr.replaytrace h idx n addr
    let bad := s.coresPer ≤ idx ∨ n = 0 ∨ 4096 < n ∨ s.reachable part addr.toNat (16 * n) = false
    (bad → Claims.ends s i 0x102 [] s) ∧ (¬ bad → (s.getCore core).unit ≠ none → Claims.ends s i 0x104 [] s) ∧
    (¬ bad → (s.getCore core).unit = none → ∃ es : List (BitVec 128), es.length = n ∧
      (∀ j < n, es.getD j 0 = BitVec.ofNat 128 (natOf (Memory.getAll s.mem (addr.toNat + 16 * j) 16))) ∧
      Claims.ends s i 0 [] (s.modCore core fun c =>
        { c with port := { c.port with
          replay := c.port.replay ++ es, replayWait := if c.port.replay = [] then 0 else c.port.replayWait } }))) ∧
  (∀ (h : Hdr) (s : State), Claims.passes s (.jobstart h) →
    let part := h.part.toNat
    let busy := s.runsUnit part = true ∨ (s.getPart part).job.state = 1
    (busy → Claims.ends s (.jobstart h) 0x104 [] s) ∧
    (¬ busy → ∀ u, (s.engRead part .phase (s.getPart part).desc.phase 4096 = (none, u) →
        Claims.ends s (.jobstart h) 0x102 [] u) ∧
      ∀ bs, s.engRead part .phase (s.getPart part).desc.phase 4096 = (some bs, u) →
        (readJob bs = none → Claims.ends s (.jobstart h) 0x102 [] u) ∧
        ∀ j, readJob bs = some j → Claims.ends s (.jobstart h) 0 [] (u.startJob part j) ∧
          j.state = 1 ∧ j.left = (bs.getD 1 0).toNat ∧ 1 ≤ j.left ∧ j.left ≤ 252 ∧ j.phases.length = j.left ∧
          j.signal = BitVec.ofNat 16 (natOf ((bs.drop 6).take 2)))) ∧
  ∀ (h : Hdr) (s : State), Claims.passes s (.jobstat h) →
    let j := (s.getPart h.part.toNat).job
    Claims.ends s (.jobstat h) 0 (bytesOf 8 (j.state * 2 ^ 62 + j.left * 2 ^ 32 + j.signal.toNat * 2 ^ 16)) s

/-- R393, R396, R397, R399, R419, R427, R429, R430: PORTCFG, XCHAN and COLLGRP declare what they name, or are refused;
IMGXFER sends a range through a port of its route and is answered once the peer has acknowledged every byte; STATS answers with the 64-byte block and clears it when asked;
POWERCAP takes 600 to 1800 W, in effect after the image when it comes during a switch; ERRLOG answers with the
latest SERIAL and the entries from serial `first` on that are still held, or from the oldest held when that one is overwritten,
in serial order, at most n; each event's entry takes the next serial and the slot SERIAL mod 1,024.
It rests on readings of the model: log entries 77, 90, 92, 96, 105 and 134. -/
def Obligations.LinkCommands : Prop :=
  (∀ (h : Hdr) (port : Nat) (desc : Word) (s : State), Claims.passes s (.portcfg h port desc) →
    let d := desc.toNat
    let i := Instr.portcfg h port desc
    let role := d / 256 % 16
    let bad := 15 < port ∨ d / 2 ^ 12 % 2 ^ 12 ≠ 0 ∨ d / 8 % 32 ≠ 0 ∨ 2 < role
    let leads (peer : BitVec 32) : Prop := (s.getPort port).role = 2 ∧ (s.getPort port).peer = peer
    let carries (e : Endpoint) : Prop := e.declared = true ∧ e.live = true ∧ ∃ part chan peer pc route,
      e.peer = .module part chan peer pc route ∧ (s.portFor route peer = some port ∨
        (port < 16 ∧ route.getLsbD port = true ∧ leads peer ∧ (s.getPort port).st = 3 ∧
          ∀ p, s.portFor route peer = some p → port < p))
    let busy := (∃ c ∈ s.cores, ∃ e ∈ c.2.eps, carries e.2) ∨
      ∃ p ∈ s.parts, ∃ g ∈ p.2.groups, ∃ r ∈ g.2.ranks, r.isLocal = false ∧ leads r.module ∧
        ((s.getPort port).st = 2 ∨ (s.getPort port).st = 3)
    (bad → Claims.ends s i 0x102 [] s) ∧ (¬ bad → busy → Claims.ends s i 0x104 [] s) ∧
    (¬ bad → ¬ busy → ∃ t, Claims.ends s i 0 [] t ∧ (t.getPort port).peer = BitVec.ofNat 32 (d / 2 ^ 32) ∧
      (t.getPort port).role.toNat = role ∧ (t.getPort port).retrains = 0 ∧
      (t.getPort port).st = (if role = 0 then 0 else 1) ∧ ∀ k, k ≠ port → t.getPort k = s.getPort k)) ∧
  (∀ (h : Hdr) (x : XDecl) (s : State), Claims.passes s (.xchan h x) →
    let part := h.part.toNat
    let core := s.coreAt part x.core
    let e := s.getEp core x.ep
    let i := Instr.xchan h x
    let bad := 4095 < x.chan ∨ s.coresPer ≤ x.core ∨ 63 < x.ep ∨ 32 < x.words
    let theirs := (s.getPart part).peerEnds.find? fun y => y.chan == x.chan && y.peer == x.peer && y.peerChan == x.peerChan
    let known := theirs ≠ none
    let more := x.slots = 0 ∨ 16 < x.slots ∨ e.declared = true ∨
      (∃ y, theirs = some y ∧ (y.words ≠ x.words ∨ y.slots ≠ x.slots)) ∨
      (x.send = false ∧ 8192 < (s.getCore core).slotBytes + 8 * x.words * x.slots)
    (bad → Claims.ends s i 0x102 [] s) ∧
    (¬ bad → x.words = 0 → e.withdrawn part x.chan = false → Claims.ends s i 0 [] s) ∧
    (¬ bad → x.words = 0 → e.withdrawn part x.chan = true →
      Claims.ends s i 0 [] ((s.modCore core fun c => { c with eps := Sparse.del c.eps x.ep }).tellEnd e
        (s.getCore core).halted 0 0)) ∧
    (¬ bad → 0 < x.words → more → Claims.ends s i 0x102 [] s) ∧
    (¬ bad → 0 < x.words → ¬ more → ∃ t, Claims.ends s i 0 [] t ∧
      (∃ live : Bool, (live = true ↔ known) ∧ t.getEp core x.ep =
        { Endpoint.reset with declared := true, send := x.send, words := x.words, slots := x.slots, live := live,
                              byXchan := true, peer := .module part x.chan x.peer x.peerChan x.route }) ∧
      (s.portFor x.route x.peer = none → t.outbox = s.outbox) ∧
      ∀ port, s.portFor x.route x.peer = some port → t.outbox =
        s.outbox ++ [.grant port x.peer x.peerChan x.chan false (s.getCore core).halted x.words x.slots])) ∧
  (∀ (h : Hdr) (g n : Nat) (rs : List CollRank) (s : State), Claims.passes s (.collgrp h g n rs) →
    let part := h.part.toNat
    let i := Instr.collgrp h g n rs
    let bad := 255 < g ∨ n = 0 ∨ 256 < n ∨ rs.length ≠ n ∨ s.ranksOk part rs = false
    (bad → Claims.ends s i 0x102 [] s) ∧
    (¬ bad → ∃ t, Claims.ends s i 0 [] t ∧ t.getGroup part g = { Group.reset with n := n, ranks := rs } ∧
      ∀ k < n, ∀ r, rs[k]? = some r → r.isLocal = true →
        t.getEp (s.coreAt part r.core) r.sendEp = xEndpoint true 4 1 (.exchange part g k) true ∧
        t.getEp (s.coreAt part r.core) r.recvEp = xEndpoint false 1 1 (.exchange part g k) true)) ∧
  (∀ (h : Hdr) (src len : Word) (peer : BitVec 32) (dst : Word) (route : BitVec 16) (s : State),
    Claims.passes s (.imgxfer h src len peer dst route) →
    let part := h.part.toNat
    let i := Instr.imgxfer h src len peer dst route
    let acked := (s.getConn h.conn).acked
    let open_ := s.imageOpen src.toNat len.toNat
    (acked = some false → Claims.held s i s) ∧
    (acked = some true → Claims.ends s i 0 [] s) ∧
    (acked = none →
      (len.toNat % 4096 ≠ 0 → Claims.ends s i 0x102 [] s) ∧
      (len.toNat % 4096 = 0 → s.reachable part src.toNat len.toNat = false →
        Claims.ends s i 0x102 [] (s.logPart part 2 0 src.toNat 2)) ∧
      (len.toNat % 4096 = 0 → s.reachable part src.toNat len.toNat = true →
        (s.portFor route peer = none → Claims.ends s i 0x107 [] s) ∧
        ∀ port, s.portFor route peer = some port →
          ((s.getPort port).st = 2 ∧ (s.getPort port).peer = peer ∧ route.getLsbD port = true) ∧
          (open_ = true → Claims.held s i s) ∧
          (open_ = false → ∃ bs : List Byte, bs.length = len.toNat ∧
            (∀ j < len.toNat, bs.getD j 0 = Memory.get s.mem (src.toNat + j)) ∧
            Claims.held s i ((s.send (.peerWrite port peer dst bs)).modConn h.conn fun c =>
              { c with acked := some false }))))) ∧
  (∀ (h : Hdr) (clear : Bool) (s : State), Claims.passes s (.stats h clear) →
    let part := h.part.toNat
    let st := s.tap.state.num
    (part = 15 → Claims.ends s (.stats h clear) 0 (s.stats.block st)
      (if clear then { s with stats := Stats.reset } else s)) ∧
    (part ≠ 15 → Claims.ends s (.stats h clear) 0 ((s.getPart part).stats.block st)
      (if clear then s.modPart part fun p => { p with stats := Stats.reset } else s)) ∧
    (s.stats.block st).length = 64) ∧
  (∀ (h : Hdr) (w : BitVec 32) (s : State), Claims.passes s (.powercap h w) →
    (w.toNat < 600 ∨ 1800 < w.toNat → Claims.ends s (.powercap h w) 0x102 [] s) ∧
    (600 ≤ w.toNat → w.toNat ≤ 1800 →
      Claims.ends s (.powercap h w) 0 [] { s with tap :=
        if s.switching then { s.tap with capLater := some w } else { s.tap with cap := w, capLater := none } }) ∧
    (s.switching = true ↔ ∃ p ∈ s.parts, p.2.imaged ≠ none ∨ ∃ r, p.2.switch = some r ∧ r.instant.toNat ≤ s.time.toNat)) ∧
  ∀ (h : Hdr) (first : BitVec 32) (n : Nat) (s : State), Claims.passes s (.errlog h first n) →
    let l := if h.part = 15 then s.log else (s.getPart h.part.toNat).log
    (n = 0 ∨ 120 < n → Claims.ends s (.errlog h first n) 0x102 [] s) ∧
    let behind := (BitVec.ofNat 32 l.count - first).toNat
    let from_ := max (max (l.count - behind) 1) (l.count - 1023)
    (0 < n → n ≤ 120 → ∃ es : List (BitVec 256),
      es.length = (if l.count < behind then 0 else min n (l.count + 1 - from_)) ∧
      (∀ i < es.length, es.getD i 0 = Sparse.get 0 l.entries ((from_ + i) % 1024)) ∧
      Claims.ends s (.errlog h first n) 0 (bytesOf 4 (l.count % 2 ^ 32) ++ es.flatMap fun e => bytesOf 32 e.toNat) s) ∧
    ∀ (time : Word) (kind code d0 d1 : Nat), kind < 256 →
      let m := l.add time kind code d0 d1
      let e := (Sparse.get 0 m.entries (m.count % 1024)).toNat
      m.count = l.count + 1 ∧ bits e 255 192 = time.toNat ∧ bits e 191 128 = d1 % 2 ^ 64 ∧ bits e 127 64 = d0 % 2 ^ 64 ∧
      bits e 63 32 = m.count % 2 ^ 32 ∧ bits e 31 16 = code % 2 ^ 16 ∧ bits e 15 0 = kind ∧
      ∀ k, k ≠ m.count % 1024 → Sparse.get 0 m.entries k = Sparse.get 0 l.entries k

/-! ### The taproot, the gang switch, links and failure (R343, R344, R366, R387, R392 to R430) -/

/-- R411: FWSTAGE while one is in progress. One whose slot is written is answered 0; one whose store is under way waits; any
other is BUSY. -/
def Claims.stagingFirst (s : State) (h : Hdr) (i : Instr) : Prop :=
  (s.tap.staged = some h.conn → Claims.ends s i 0 [] { s with tap := { s.tap with staged := none } }) ∧
  (s.tap.staged ≠ some h.conn → ∀ x c, s.tap.staging = some (x, c) →
    (c = h.conn → Claims.held s i s) ∧ (c ≠ h.conn → Claims.ends s i 0x104 [] s)) ∧
  ∀ c, c ≠ h.conn → s.tap.staged = some c → s.tap.staging = none → Claims.ends s i 0x104 [] s

/-- R406 to R411: IDENTITY answers with the ML-DSA-44 public key of the fused seed and its certificate; QUOTE with the quote
of R410, signed by that key; EXTEND changes MEAS4 to MEAS7 alone; FWSTAGE writes a valid image to the slot that did not
boot, and in recovery to slot A once its last bytes are in the TCM. It waits while the store is under way, until a later step
(log entry 106), and is then answered 0; another one meanwhile is BUSY. COMMIT raises SVNMIN once the store is over, and never
lowers it.
It rests on readings of the model: log entries 3, 6, 77, 106 and 108. -/
def Obligations.FirmwareCommands : Prop :=
  (∀ (h : Hdr) (s : State), Claims.passes s (.identity h) →
    let key := (Dsa.keyOf (bytesOf 32 s.tap.seed.toNat)).public
    Claims.ends s (.identity h) 0 (key ++ Config.certificate key) s) ∧
  (∀ (h : Hdr) (nonce : BitVec 256) (mask : BitVec 8) (s : State), Claims.passes s (.quote h nonce mask) →
    ∃ q : List Byte, q.length = 0x138 ∧
      Claims.ends s (.quote h nonce mask) 0
        (q ++ Dsa.sign (bytesOf 32 s.tap.seed.toNat) (bytesOf 32 (Config.signRandom s.draws).toNat) (sha3 q)) s.drawn ∧
      natOf (q.take 4) = 0x54514C56 ∧ (q.drop 4).take 4 = [1, 0, mask, 0] ∧ natOf ((q.drop 8).take 32) = nonce.toNat ∧
      (∀ r < 8, natOf ((q.drop (0x28 + 32 * r)).take 32) = if mask.getLsbD r then (s.tap.mea r).toNat else 0) ∧
      (q.drop 0x128).take 8 = [2, BitVec.ofNat 8 ((s.getConn h.conn).minor.getD 0), 1, 2, 4, 1, 0, 0] ∧
      natOf ((q.drop 0x130).take 8) = s.time.toNat) ∧
  (∀ (h : Hdr) (r : Nat) (d : BitVec 256) (s : State), Claims.passes s (.extend h r d) →
    (r < 4 ∨ 7 < r → Claims.ends s (.extend h r d) 0x102 [] s) ∧
    (4 ≤ r → r ≤ 7 → ∃ t, Claims.ends s (.extend h r d) 0 [] t ∧
      t.tap.mea r = sha3Val (bytesOf 32 (s.tap.mea r).toNat ++ bytesOf 32 d.toNat) ∧
      (∀ k, k ≠ r → t.tap.mea k = s.tap.mea k) ∧ t.mem = s.mem)) ∧
  (∀ (h : Hdr) (addr : Word) (commit : Bool) (s : State), Claims.passes s (.fwstage h addr commit) →
    let i := Instr.fwstage h addr commit
    let n := min (0x1000 + natOf ((Memory.getAll s.mem addr.toNat 64).drop 24 |>.take 4)) 233472
    let bs := Memory.getAll s.mem addr.toNat n
    let good := s.owns 0xFE addr.toNat n = true ∧ s.tap.imageOk bs = true
    let svn := natOf ((bs.drop 12).take 4)
    let x : Slot := if s.tap.booted = some .a then .b else .a
    Claims.stagingFirst s h i ∧
    (s.tap.staging = none → s.tap.staged = none →
      if good then ∃ t, Claims.held s i t ∧ t.tap.slot x = bs ∧
        (∀ y, y ≠ x → t.tap.slot y = s.tap.slot y) ∧ t.tap.booted = s.tap.booted ∧ t.tap.meas = s.tap.meas ∧
        t.tap.staging = some (x, h.conn) ∧ t.tap.svnMin = s.tap.svnMin ∧ t.mem = s.mem ∧
        t.tap.landed.staging = none ∧ t.tap.landed.staged = some h.conn ∧
        t.tap.landed.svnMin.toNat = (if commit then max s.tap.svnMin.toNat svn else s.tap.svnMin.toNat)
      else Claims.ends s i 0x102 [] s)) ∧
  ∀ (h : Hdr) (off : Nat) (bs : List Byte) (last commit : Bool) (s : State),
    Claims.passes s (.fwstageRecovery h off bs last commit) → Memory.wf s.tap.tcm = true →
    let i := Instr.fwstageRecovery h off bs last commit
    let n := bs.length
    let bad := s.tap.recovery = false ∨ n = 0 ∨ 3968 < n ∨ n % 4 ≠ 0 ∨ 233472 < off + n
    Claims.stagingFirst s h i ∧
    (s.tap.staging = none → s.tap.staged = none → bad → Claims.ends s i 0x102 [] s) ∧
    (s.tap.staging = none → s.tap.staged = none → ¬ bad → ∃ t : State, (∀ j < n, Memory.get t.tap.tcm (off + j) = bs.getD j 0) ∧
      (∀ a, a < off ∨ off + n ≤ a → Memory.get t.tap.tcm a = Memory.get s.tap.tcm a) ∧
      t.tap.slotB = s.tap.slotB ∧ t.tap.recovery = true ∧ t.mem = s.mem ∧
      let img := Memory.getAll t.tap.tcm 0 233472
      if last = true ∧ s.tap.imageOk img = true then
        Claims.held s i t ∧ t.tap.slotA = img.take (fwSize img) ∧ t.tap.staging = some (.a, h.conn)
      else t.tap.slotA = s.tap.slotA ∧ t.tap.staging = none ∧ Claims.ends s i (if last then 0x102 else 0) [] t)

/-- R405, R407, R411: module reset. Fuses and flash stand; memory, cores, partitions, connections and ports are as after
reset, and only the taproot's own frames keep their owner byte. With no valid slot the module is in recovery; else MEAS0 to
MEAS2 are extended once with the valid slot of the higher SVN, slot A when they are equal, and it boots when every
die-to-die port trains; else the module is in recovery. A floor that an ended staging is to raise has risen. Power lost
while an image is staged leaves its slot invalid and the floor where it was, so that the other slot can still boot.
It rests on readings of the model: log entries 3, 4, 106 and 107. -/
def Obligations.ModuleReset : Prop :=
  (∀ s : State, ∃ t, exec .moduleReset s = .next t ∧
    let svnMin := s.tap.floor.getD s.tap.svnMin
    t.tap.seed = s.tap.seed ∧ t.tap.keyDigest = s.tap.keyDigest ∧ t.tap.svnMin = svnMin ∧ t.tap.staging = none ∧
    t.tap.slotA = s.tap.slotA ∧ t.tap.slotB = s.tap.slotB ∧ t.mem = [] ∧ t.cores = State.reset.cores ∧
    t.parts = State.reset.parts ∧ t.conns = State.reset.conns ∧ t.ports = State.reset.ports ∧ t.cut = State.reset.cut ∧
    (∀ f, Memory.wf s.owners = true → Memory.get t.owners f = if Memory.get s.owners f = 0xFF then 0xFF else 0) ∧
    let okA := s.tap.landed.imageOk s.tap.slotA
    let okB := s.tap.landed.imageOk s.tap.slotB
    let svn (bs : List Byte) : Nat := natOf ((bs.drop 12).take 4)
    let boots (x : Slot) : Prop :=
      let bs := s.tap.slot x
      let zero : List Byte := bytesOf 32 0
      let letter : Byte := match x with | .a => 0x41 | .b => 0x42
      (Config.portsTrain s.draws = true → t.tap.recovery = false ∧ t.tap.booted = some x) ∧
      (Config.portsTrain s.draws = false → t.tap.recovery = true ∧ t.tap.booted = none) ∧
      t.tap.mea 0 = sha3Val (zero ++ bytesOf 32 Config.romDigest.toNat) ∧
      t.tap.mea 1 = sha3Val (zero ++ bytesOf 32 (sha3Val (fwBody bs)).toNat) ∧
      t.tap.mea 2 = sha3Val (zero ++ (bytesOf 4 svnMin.toNat ++ bytesOf 4 (svn bs) ++ [letter] ++
        List.replicate 23 0)) ∧
      ∀ r, 3 ≤ r → t.tap.mea r = 0
    if okA = true ∧ (okB = true → svn s.tap.slotB ≤ svn s.tap.slotA) then boots .a
    else if okB = true then boots .b
    else t.tap.recovery = true ∧ ∀ r, t.tap.mea r = 0) ∧
  ∀ s : State,
    (s.tap.staging = none → exec .stagingPowerLoss s = .next s) ∧
    ∀ x conn, s.tap.staging = some (x, conn) → ∃ t, exec .stagingPowerLoss s = .next t ∧ t.tap.slot x = [] ∧
      (∀ y, y ≠ x → t.tap.slot y = s.tap.slot y) ∧ t.tap.staging = none ∧ t.tap.svnMin = s.tap.svnMin ∧ t.mem = [] ∧
      ((s.tap.imageOk (s.tap.slot (match x with | .a => .b | .b => .a))) = true → Config.portsTrain s.draws = true →
        t.tap.booted = some (match x with | .a => .b | .b => .a))

/-- R415, R416, R418, R420: SWITCH and RESTORE in the order in which their conditions are answered, and what an accepted
one leaves; a withdrawal more than 500 µs before the instant takes it back and a later one is BUSY. A RESTORE of an image
without its DIGEST waits with its checks unfinished, and is LATE when they still are at its INSTANT; INSTANT 0 withdraws it
too, and it is then answered as one with INSTANT 0 itself (log entry 149). -/
def Claims.SwitchCommands : Prop :=
  (∀ (h : Hdr) (at_ image trace : Word) (gang rsv : BitVec 32) (s : State),
    Claims.passes s (.switch h at_ image trace gang rsv) →
    let i := Instr.switch h at_ image trace gang rsv
    let part := h.part.toNat
    let p := s.getPart part
    let soon := at_.toNat < s.time.toNat + 2000000
    let busy := p.switch ≠ none
    let ranges := image.toNat % 4096 = 0 ∧ s.owns 0xFE image.toNat (0x111000 + s.k * 0x3550000) = true ∧
      s.owns 0xFE trace.toNat (0x10000 * s.coresPer) = true
    (at_ = 0 → p.switch = none → Claims.ends s i 0 [] s) ∧
    (at_ = 0 → ∀ r, p.switch = some r →
      (s.time.toNat + 500000 < r.instant.toNat →
        Claims.ends s i 0 [] (s.modPart part fun p => { p with switch := none })) ∧
      (r.instant.toNat ≤ s.time.toNat + 500000 → Claims.ends s i 0x104 [] s)) ∧
    (at_ ≠ 0 → soon → Claims.ends s i 0x102 [] s) ∧ (at_ ≠ 0 → ¬ soon → busy → Claims.ends s i 0x104 [] s) ∧
    (at_ ≠ 0 → ¬ soon → ¬ busy → s.sync = false → Claims.ends s i 0x106 [] s) ∧
    (at_ ≠ 0 → ¬ soon → ¬ busy → s.sync = true → rsv ≠ 0 ∨ ¬ ranges → Claims.ends s i 0x102 [] s) ∧
    (at_ ≠ 0 → ¬ soon → ¬ busy → s.sync = true → rsv = 0 → ranges → Claims.ends s i 0 []
      (s.modPart part fun p =>
        { p with switch := some { instant := at_, image := image, trace := trace, gang := gang } }))) ∧
  ∀ (h : Hdr) (image trace at_ : Word) (s : State), Claims.passes s (.restore h image trace at_) →
    let i := Instr.restore h image trace at_
    let part := h.part.toNat
    let p := s.getPart part
    let checks := (s.getConn h.conn).checks = true
    let late := checks ∧ at_.toNat ≤ s.time.toNat
    let soon := ¬ checks ∧ at_.toNat < s.time.toNat + 2000000
    let busy := s.runsUnit part = true ∨ p.switch ≠ none ∨ p.restore ≠ none
    let ranges := s.rangesOk image trace = true
    let st := s.checkImage part image.toNat
    let waiting (c : Nat) (h' : Hdr) (at' : Word) : Prop := (s.getConn c).checks = true ∧ h'.part.toNat = part ∧
      ∃ im tr, ((s.getConn c).next, Instr.restore h' im tr at') ∈ (s.getConn c).early
    (at_ = 0 → p.restore = none → Sparse.sorted s.conns = true → (∀ c h' at', ¬ waiting c h' at') → Claims.ends s i 0 [] s) ∧
    (at_ = 0 → p.restore = none → Sparse.sorted s.conns = true → ∀ c h' at', waiting c h' at' →
      (∀ c2 h2 at2, waiting c2 h2 at2 → c2 = c ∧ h2 = h' ∧ at2 = at') →
      (s.time.toNat + 500000 < at'.toNat → Claims.ends s i 0 [] (s.modConn c fun x =>
        { x with checks := false,
                 early := x.early.map fun e => if e.1 = x.next then (e.1, .restore h' 0 0 0) else e })) ∧
      (at'.toNat ≤ s.time.toNat + 500000 → Claims.ends s i 0x104 [] s)) ∧
    (at_ = 0 → ∀ r, p.restore = some r →
      (s.time.toNat + 500000 < r.instant.toNat →
        Claims.ends s i 0 [] (s.modPart part fun p => { p with restore := none })) ∧
      (r.instant.toNat ≤ s.time.toNat + 500000 → Claims.ends s i 0x104 [] s)) ∧
    (at_ ≠ 0 → late → Claims.ends s i 5 [] (s.logPart part 6 5 image.toNat 0)) ∧
    (at_ ≠ 0 → soon → Claims.ends s i 0x102 [] s) ∧ (at_ ≠ 0 → ¬ late → ¬ soon → busy → Claims.ends s i 0x104 [] s) ∧
    (at_ ≠ 0 → ¬ late → ¬ soon → ¬ busy → s.sync = false → Claims.ends s i 0x106 [] s) ∧
    (at_ ≠ 0 → ¬ late → ¬ soon → ¬ busy → s.sync = true → ¬ ranges → Claims.ends s i 0x102 [] s) ∧
    (at_ ≠ 0 → ¬ late → ¬ soon → ¬ busy → s.sync = true → ranges →
      (s.imageOpen image.toNat (0x111000 + s.k * 0x3550000) = true →
        Claims.held s i (s.modConn h.conn fun c => { c with checks := true })) ∧
      (s.imageOpen image.toNat (0x111000 + s.k * 0x3550000) = false →
        Claims.ends s i st [] (if st = 0 then
          s.modPart part fun p =>
            { p with restore := some { instant := at_, image := image, trace := trace, gang := p.gang } }
        else s.logPart part 6 st image.toNat 0)))

/-- R343, R344, R348, R416 to R418, R420, R425: the instants. Nothing happens before TIME reaches the accepted instant; from then on
no context of the partition may issue. At a switch the partition comes to rest once and is out, and every OWN that has arrived is carried on with;
once none is left its image begins with the header of R348, DIGEST still 0, and the switch is counted. The digest is then the
SHA3-256 of the image with that field 0, unless the module has FAILED. At a restore the partition runs again, under the
module's own TIME. -/
def Claims.SwitchInstants : Prop :=
  (∀ (part : Nat) (s : State),
    ((s.getPart part).switch = none → exec (.switchInstant part) s = .next s) ∧
    ∀ r, (s.getPart part).switch = some r →
      (s.time.toNat < r.instant.toNat → exec (.switchInstant part) s = .next s) ∧
      (r.instant.toNat ≤ s.time.toNat → ∀ core ctx, s.partOf core = part → s.mayIssue core ctx = false) ∧
      let u := (if (s.getPart part).out = true then s
        else ((s.modPart part fun p => { p with gang := r.gang }).rest part).modPart part fun p => { p with out := true }).settleOwns
      let owed := ∃ c ∈ u.conns, ∃ e ∈ c.2.early, ∃ h n k o, e.2 = .own h n k o ∧ k ≠ 0 ∧ u.ownFits n k o = true ∧
        Claims.frontStatus u h ⟨0x12, 0, .module, true, false⟩ = none
      (r.instant.toNat ≤ s.time.toNat → owed → exec (.switchInstant part) s = .next u) ∧
      (r.instant.toNat ≤ s.time.toNat → ¬ owed → s.safe = true → ∃ t, exec (.switchInstant part) s = .next t ∧
        (t.getPart part).out = true ∧ (t.getPart part).switch = none ∧ (t.getPart part).imaged = some r.image ∧
        (t.getPart part).stats.switches = min ((u.getPart part).stats.switches + 1) (2 ^ 32 - 1) ∧
        (∀ core ctx, s.partOf core = part → t.mayIssue core ctx = false) ∧ t.time = s.time ∧
        natOf (Memory.getAll t.mem r.image.toNat 64) = r.instant.toNat * 2 ^ 128 +
          (0x111000 + s.k * 0x3550000) * 2 ^ 64 + s.k * 2 ^ 48 + 4 * 2 ^ 32 + 0x39444C56)) ∧
  (∀ (part : Nat) (s : State),
    ((s.getPart part).imaged = none → exec (.digestWrite part) s = .next s) ∧
    (s.tap.state = .failed → exec (.digestWrite part) s = .next s) ∧
    ∀ b, (s.getPart part).imaged = some b → s.tap.state ≠ .failed → Memory.wf s.mem = true →
      ∃ t, exec (.digestWrite part) s = .next t ∧
      (t.getPart part).imaged = none ∧
      let n := 0x111000 + s.k * 0x3550000
      let d := sha3 (Memory.getAll s.mem b.toNat 32 ++ List.replicate 32 0 ++ Memory.getAll s.mem (b.toNat + 64) (n - 64))
      (∀ j < 32, Memory.get t.mem (b.toNat + 32 + j) = d.getD j 0) ∧
      ∀ a, a < b.toNat + 32 ∨ b.toNat + 64 ≤ a → Memory.get t.mem a = Memory.get s.mem a) ∧
  ∀ (part : Nat) (s : State),
    ((s.getPart part).restore = none → exec (.restoreInstant part) s = .next s) ∧
    ∀ r, (s.getPart part).restore = some r →
      (s.time.toNat < r.instant.toNat → exec (.restoreInstant part) s = .next s) ∧
      (r.instant.toNat ≤ s.time.toNat → ∃ t, exec (.restoreInstant part) s = .next t ∧
        (t.getPart part).restore = none ∧ (t.getPart part).out = false ∧ (t.getPart part).imaged = (s.getPart part).imaged ∧
        t.time = s.time)

/-- R392 to R395, R413, R414, R423, R430: ports and time. A flit sent again changes nothing; a port that is up and loses
training retrains, counted and logged; a port comes up, one to a module only with a common message version; a retrain that
lasts too long fails the port, and a die-to-die one the module; the 44 die-to-die ports have the numbers 16 to 59 (log
entry 126). Time stamps correct TIME's rate; a module is out of step once no port to its gang has been up for 50 ms, and in
step again after 10 ms with one. Unsupported packets are dropped and counted, or answered with the error response.
It rests on readings of the model: log entries 91, 93, 94, 126 and 134. -/
def Obligations.PortFailures : Prop :=
  (∀ (port : Nat) (s : State), exec (.flitReplay port) s = .next s) ∧
  (∀ (port : Nat) (s : State),
    let p := s.getPort port
    (¬ (p.st = 2 ∧ port < 60) → exec (.portTrainingLost port) s = .next s) ∧
    (p.st = 2 → port < 60 → ∃ t, exec (.portTrainingLost port) s = .next t ∧
      t.getPort port = { p with st := 3, retrains := BitVec.ofNat 8 (min (p.retrains.toNat + 1) 255) } ∧
      t.stats.retrains = min (s.stats.retrains + 1) (2 ^ 32 - 1) ∧ t.log.serial = s.log.serial + 1 ∧
      (∀ k, k ≠ port → t.getPort k = s.getPort k) ∧ t.parts = s.parts)) ∧
  (∀ (port lo hi : Nat) (s : State),
    let p := s.getPort port
    let meet := lo ≤ 1 ∧ 1 ≤ hi
    let up := port < 60 ∧ (p.st = 3 ∨ (p.st = 1 ∧ (p.role ≠ 2 ∨ meet)))
    (up → ∃ t, exec (.portUp port lo hi) s = .next t ∧ t.getPort port = { p with st := 2 } ∧
      (∀ k, k ≠ port → t.getPort k = s.getPort k) ∧ t.cores = s.cores ∧ t.parts = s.parts ∧ t.mem = s.mem) ∧
    (¬ up → exec (.portUp port lo hi) s = .next s)) ∧
  (∀ (port : Nat) (s : State),
    ((s.getPort port).st ≠ 3 ∨ 60 ≤ port → exec (.portFailed port) s = .next s) ∧
    ((s.getPort port).st = 3 → port < 60 → ∃ t, exec (.portFailed port) s = .next t ∧ (t.getPort port).st = 4 ∧
      t.log.serial = s.log.serial + 1 ∧ t.tap.state = (if 16 ≤ port then .failed else s.tap.state))) ∧
  (∀ (port : Nat) (s : State),
    exec (.unsupportedPacket port .transport) s = .next (s.modPort port fun p => { p with errors := p.errors + 1 }) ∧
    exec (.unsupportedPacket port .semantic) s = .next (s.send (.errorResponse port))) ∧
  ∀ (port : Nat) (w : Word) (s : State),
    let gang := ∃ n < 16, (s.getPort n).role = 2 ∧ (s.getPort n).st = 2
    let here := (s.getPort port).role = 2 ∧ (s.getPort port).st = 2
    (here → exec (.timeStampExchange port w) s =
      .next { s.send (.timeStamp port s.time) with rate := (w.toNat : Int) - s.time.toNat }) ∧
    (¬ here → exec (.timeStampExchange port w) s = .next s) ∧
    (gang → exec .outOfStep s = .next s) ∧ (¬ gang → exec .backInStep s = .next s) ∧
    (¬ gang → exec .outOfStep s = .next { s with sync := s.sync && decide (s.gangDown < 50000000) }) ∧
    (gang → exec .backInStep s = .next { s with sync := s.sync || decide (10000000 ≤ s.gangUp) })

/-- R366, R372, R387, R419, R430: writes from outside. A host write reaches the partition's and the driver's frames at the
LLC, and the window of a halted core as pieces; a peer's write only frames that are the driver's. One that is refused
changes no byte and is logged; one of more than 2^32 bytes takes the error response.
It rests on readings of the model: log entries 29, 84 and 95. -/
def Obligations.OutsideWrites : Prop :=
  (∀ (part pa : Nat) (bs : List Byte) (s : State),
    let win := s.haltedWindow part pa bs.length true
    let mine := s.reachable part pa bs.length
    (2 ^ 32 < bs.length → exec (.hostRemoteWrite part pa bs) s = .next (s.send (.errorResponse 0))) ∧
    (bs.length ≤ 2 ^ 32 → win = true → ∃ t, exec (.hostRemoteWrite part pa bs) s = .next t ∧ t.mem = s.mem ∧
      ∃ ps : List Piece, t.pieces = s.pieces ++ ps ∧ ps.flatMap (fun p => p.bytes) = bs ∧
        ∀ p ∈ ps, p.dst = winCore pa ∧ p.agent = 23) ∧
    (bs.length ≤ 2 ^ 32 → win = false → mine = true → Memory.wf s.mem = true → ∃ t, exec (.hostRemoteWrite part pa bs) s = .next t ∧
      (∀ i < bs.length, Memory.get t.mem (pa + i) = bs.getD i 0) ∧
      (∀ a, a < pa ∨ pa + bs.length ≤ a → Memory.get t.mem a = Memory.get s.mem a) ∧ t.cores = s.cores) ∧
    (bs.length ≤ 2 ^ 32 → win = false → mine = false → exec (.hostRemoteWrite part pa bs) s = .next (s.logPart part 2 0 pa 0))) ∧
  ∀ (port pa : Nat) (bs : List Byte) (s : State),
    (s.owns 0xFE pa bs.length = true → Memory.wf s.mem = true → ∃ t, exec (.peerRemoteWrite port pa bs) s = .next t ∧
      (∀ i < bs.length, Memory.get t.mem (pa + i) = bs.getD i 0) ∧
      (∀ a, a < pa ∨ pa + bs.length ≤ a → Memory.get t.mem a = Memory.get s.mem a) ∧ t.cores = s.cores) ∧
    (s.owns 0xFE pa bs.length = false → ∃ t, exec (.peerRemoteWrite port pa bs) s = .next t ∧ t.mem = s.mem ∧
      t.outbox = s.outbox ++ [.refusedWrite port] ∧
      let o := (Memory.get s.owners (pa / 2 ^ 21)).toNat
      (1 ≤ o → o ≤ 4 → (t.getPart (o - 1)).log.serial = (s.getPart (o - 1)).log.serial + 1 ∧ t.log = s.log) ∧
      (o = 0 ∨ 4 < o → t.log.serial = s.log.serial + 1 ∧ t.parts = s.parts))

/-- R400 to R403: collectives. A descriptor message that reaches the exchange engine becomes the rank's next request, when
the rank has none under way; it keeps its slot until the operation is over. An operation waits until every rank has started it;
then the destinations are written, and the replies, which carry the serial number, the flags of encodings and additions and the
status, go out once no write of the engine is on its way to a window. Of a rank that is alone here, a successful one has its
destination in memory written before the reply stands in its endpoint, with no line of it left in the die's L1s, or its pieces on
their way and the reply still to come; FSTAT takes the flags of encodings, decodes and additions, and a rank that supplies nothing
is not decoded. -/
def Claims.Collectives : Prop :=
  (∀ (core ep : Nat) (ws : List Word) (s : State),
    let e := s.getEp core ep
    (e.declared = false ∨ e.send = false ∨ e.msgs = [] → exec (.collectiveStart core ep ws) s = .next s) ∧
    ∀ part group rank rest, e.peer = .exchange part group rank → e.msgs = ws :: rest → e.declared = true → e.send = true →
      let g := s.getGroup part group
      let k := Sparse.get (0 : BitVec 32) g.serials rank
      ((∃ r ∈ g.pending, r.rank = rank ∧ r.core = core) → exec (.collectiveStart core ep ws) s = .next s) ∧
      ((∀ r ∈ g.pending, ¬ (r.rank = rank ∧ r.core = core)) → ∃ t r, exec (.collectiveStart core ep ws) s = .next t ∧
        t.getEp core ep = e ∧ (t.getGroup part group).pending = g.pending ++ [r] ∧
        Sparse.get (0 : BitVec 32) (t.getGroup part group).serials rank = k + 1 ∧
        r.rank = rank ∧ r.serial = k ∧ r.words = ws ∧ r.core = core ∧ r.live = true ∧ r.ended = none)) ∧
  ∀ (part group : Nat) (peers : List CollPeer) (s : State),
    let run := exec (.collectiveComplete part group peers) s
    let g := s.getGroup part group
    let rs := g.oldest
    let far := peers.filter fun p => match g.ranks[p.rank]? with | some r => !r.isLocal | none => false
    let ps := rs.map (fun r => s.collLocal group g.n r) ++ far
    let st := collStatus ps
    let ended := g.pending.filter fun r => r.ended.isSome
    let landed := ∀ p ∈ s.pieces, p.src = 514 → s.partOf p.dst ≠ part
    let apart (r : CollReq) : Prop := ∀ x, g.ranks[r.rank]? = some x → x.sendEp ≠ x.recvEp
    let replied (t : State) (r : CollReq) (fl : Flags) (status : Nat) : Prop :=
      let e := s.getEp r.core (g.recvEp r.rank)
      t.getEp r.core (g.recvEp r.rank) = { e with grants := e.grants - 1, msgs := e.msgs ++
        [[BitVec.ofNat 64 (r.serial.toNat * 2 ^ 32 + fl.toNat * 2 ^ 16 + status)]] }
    ((∃ r ∈ rs, r.ended ≠ none) → ¬ landed → run = .next s) ∧
    ((∃ r ∈ rs, r.ended ≠ none) → landed → ∃ t, run = .next t ∧
      (t.getGroup part group).pending = g.pending.filter (fun r => r.ended.isNone) ∧
      ∀ r fl decodes status, ended = [r] → r.live = true → r.ended = some (fl, decodes, status) → status < 3 → apart r →
        replied t r fl status ∧ (t.getCore r.core).fstat = (s.getCore r.core).fstat ||| fl ||| decodes) ∧
    ((∀ r ∈ rs, r.ended = none) → s.collReady g rs peers = false → run = .next s) ∧
    ((∀ r ∈ rs, r.ended = none) → s.collReady g rs peers = true → ended = [] → landed → st = 1 ∨ st = 2 → ∃ t, run = .next t ∧
      t.mem = s.mem ∧ (t.getGroup part group).pending = g.pending.filter (fun r => !rs.contains r) ∧
      ∀ r, rs = [r] → r.live = true → apart r → replied t r 0 st) ∧
    ((∀ r ∈ rs, r.ended = none) → s.collReady g rs peers = true → ended = [] → landed → st = 0 →
      ∀ r pa u, rs = [r] → r.live = true → apart r →
      let vs := (List.range g.n).map fun i =>
        if collIn r.words i = 0 then ([], 0)
        else (s.getGrove (groveOf r.core)).unship r.words ((ps.find? fun p => p.rank == i).elim [] fun p => p.data)
      let bs : List Byte := (collResult r.words g.n r.rank (vs.map fun v => v.1)).1.flatMap fun v => bytesOf 4 v
      s.collDest g.n r = .ok ([(pa, bs.length)], u) →
      (inWindow pa = false → Memory.wf s.mem = true → ∃ t, run = .next t ∧
        (∀ i < bs.length, Memory.get t.mem (pa + i) = bs.getD i 0) ∧
        (∀ a, a / 32 < pa / 32 ∨ (pa + bs.length - 1) / 32 < a / 32 → Memory.get t.mem a = Memory.get s.mem a) ∧
        (∀ l, pa / 32 ≤ l → l ≤ (pa + bs.length - 1) / 32 → t.copyOf (dieOf r.core) l = none) ∧
        ∃ fl : Flags, replied t r fl 0 ∧ (t.getCore r.core).fstat =
            (s.getCore r.core).fstat ||| fl ||| vs.foldl (fun f v => f ||| v.2) 0) ∧
      (inWindow pa = true → s.partOf (winCore pa) = part → bs ≠ [] → ∃ t fl decodes, run = .next t ∧
        t.pieces = s.pieces ++ piecesOf 514 22 0 true pa bs ∧
        t.getEp r.core (g.recvEp r.rank) = s.getEp r.core (g.recvEp r.rank) ∧
        (t.getGroup part group).pending = g.pending.map fun x => if x = r then { r with ended := some (fl, decodes, 0) } else x))

/-- R402: element j of an ALLREDUCE is the FP32 sum of the ranks' elements j, added one after another in rank order; a
REDUCESCATTER gives rank r its own slice of it, an ALLGATHER every rank's elements in rank order, a BROADCAST those of
rank 0. -/
def Claims.CollectiveResult : Prop :=
  ∀ (ws : List Word) (n r : Nat) (vs : List (List Nat)),
    let e := 128 * (((ws.getD 0 0).toNat / 2 ^ 16) % 2 ^ 24)
    let op := (ws.getD 0 0).toNat % 16
    let sum (j : Nat) : Nat := match vs with
      | [] => 0
      | v :: rest => rest.foldl (fun a x => (fp32.add plainCtl (fp32.num false a) (fp32.num false (x.getD j 0))).val) (v.getD j 0)
    (op = 0 → (collResult ws n r vs).1 = (List.range e).map sum) ∧
    (op = 1 → (collResult ws n r vs).1 = (List.range (e / n)).map fun j => sum (e / n * r + j)) ∧
    (op = 2 → (collResult ws n r vs).1 = vs.flatten) ∧
    (op = 3 → (collResult ws n r vs).1 = vs.getD 0 [])

/-- R423, R424, R426 to R430: power, heat and failure. A limit makes the module DEGRADED and its end RUNNING; a trip, the
taproot's watchdog and an uncorrectable soft error make it FAILED, which it stays: every launch in flight is reported
LINK_FAILED, and the graphs, the phases and the units of every partition stop as by a job cancel. A heartbeat leaves while port 0
is up. What arrives during a switch waits for the end of it. A
period gives each die its share of the limit in tokens of 1 mJ and carries the rest; a die whose junction has passed 100 °C, and
has not fallen below 98 °C, has its share cut by 10 % for each period of it, and one at 115 °C fails the module; a grove takes its tokens and stretches
its clock in steps of 100 MHz, to no less than 1.0 GHz.
It rests on readings of the model: log entries 109, 110, 111 and 112. -/
def Obligations.PowerAndFailure : Prop :=
  (∀ s : State,
    (50000000 ≤ s.tap.kick → s.tap.state ≠ .failed →
      ∃ t, exec .taprootWatchdog s = .next t ∧ t.tap = { s.tap with state := .failed } ∧ (s.cutOk = true →
        (∀ core < 512, (s.getCore core).halted = false → (t.getCore core).unit = none) ∧
        ∀ part < s.cut, ((s.getPart part).job.state = 1 → (t.getPart part).job.cancel = true) ∧
          (∀ slot, Sparse.has (s.getPart part).graphs slot = true → (s.getGraph part slot).armed = true →
            (s.getGraph part slot).left ≠ 0 → Claims.allFinal (t.getGraph part slot)) ∧
          ∀ i, Sparse.has (s.getPart part).launches i = true → (s.getLaunch part i).armed = true →
            (t.getLaunch part i).stopped = true ∧ ((s.getLaunch part i).first = 0 → (t.getLaunch part i).first = 0x0043))) ∧
    (s.tap.kick < 50000000 ∨ s.tap.state = .failed → exec .taprootWatchdog s = .next s) ∧
    ((s.getPort 0).st = 2 → ∃ m, exec .heartbeat s = .next (s.send m) ∧ m.ncpBytes =
      some (bytesOf 16 (0x81 * 2 ^ 24 + 0xF * 2 ^ 20 + 1 * 2 ^ 16 + 2 * 256 + (s.minorOf (s.firstConn.getD 0)).toNat) ++ bytesOf 8 s.time.toNat ++
        bytesOf 8 (match s.tap.state with | .running => 0 | .degraded => 1 | .failed => 2))) ∧
    ((s.getPort 0).st ≠ 2 → exec .heartbeat s = .next s) ∧
    (∃ t, exec .throttleCleared s = .next t ∧ t.tap.heat = [] ∧
      t.tap.state = (if s.tap.state = .failed then .failed else .running) ∧ t.mem = s.mem)) ∧
  (∀ (c : HeatCause) (s : State),
    (s.switching = false → ∃ t, exec (.thermalThrottle c) s = .next t ∧ c ∈ t.tap.heat ∧
      t.tap.state = (if s.tap.state = .failed then .failed else .degraded) ∧ t.mem = s.mem ∧ t.cores = s.cores) ∧
    (s.switching = true → ∃ l, exec (.thermalThrottle c) s = .next { s with tap := { s.tap with heatLater := l } } ∧ c ∈ l ∧
      ∀ x ∈ s.tap.heatLater, x ∈ l) ∧
    (c = .draw → exec (.thermalTrip c) s = .next s) ∧
    (c ≠ .draw → ∃ t, exec (.thermalTrip c) s = .next t ∧ t.tap.state = .failed)) ∧
  (∀ (pa : Word) (place : ErrorPlace) (s : State),
    (∃ t, exec (.softError pa place true) s = .next t ∧ t.stats.eccfix = min (s.stats.eccfix + 1) (2 ^ 32 - 1) ∧
      t.log.serial = s.log.serial + 1 ∧ t.tap = s.tap ∧ t.cores = s.cores ∧ t.mem = s.mem) ∧
    ∃ t, exec (.softError pa place false) s = .next t ∧ t.tap.state = .failed ∧ t.log.serial = s.log.serial + 1) ∧
  (∀ (fixed : Nat) (ds : List (Nat × Nat)) (s : State),
    let total := (s.tap.cap.toNat * 1000 - fixed) / 10
    let sum := (ds.map fun x => x.1).foldl (fun a b => a + b) 0
    ((∃ x ∈ ds, 115 ≤ x.2) → ∃ t, exec (.powerPeriod fixed ds) s = .next t ∧ t.tap.state = .failed) ∧
    ((∀ x ∈ ds, x.2 < 115) → ∃ t, exec (.powerPeriod fixed ds) s = .next t ∧ ∀ d < 4,
      let temp := (ds.getD d (0, 99)).2
      let hot := if 100 < temp ∧ s.switching = false then true
        else if temp < 98 then false else s.tap.heat.contains (.junction d)
      let cuts := if hot then Sparse.get 0 s.tap.derate d + 1 else 0
      let share := if sum = 0 then total / 4 else total * (ds.getD d (0, 99)).1 / sum
      let uj := share * 9 ^ cuts / 10 ^ cuts + Sparse.get 0 s.tap.carry d
      (t.getDie d).tokens = uj / 1000 ∧ Sparse.get 0 t.tap.carry d = uj % 1000 ∧ Sparse.get 0 t.tap.derate d = cuts ∧
      t.tap.heat.contains (.junction d) = hot)) ∧
  ∀ (grove need : Nat) (s : State),
    let have_ := (s.getDie (grove / 32)).tokens
    ∃ t, exec (.tokenTake grove need) s = .next t ∧
      (need ≤ have_ → (t.getGrove grove).clock = 20 ∧ (t.getDie (grove / 32)).tokens = have_ - need) ∧
      (have_ < need → (t.getGrove grove).clock = max 10 (20 * have_ / need)) ∧ t.cores = s.cores ∧ t.mem = s.mem

/-! ### Reset, encodings, the step and its invariants (R3, R137 to R155, R193 to R210, R405, R432) -/

/-- R405, R406: what reset leaves. Module memory and every owner byte read 0, no partition has a descriptor, no context has an
instruction to issue, port 0 trains as ROLE 1, every other external port is disabled and the die-to-die ports are up. The two
slots hold erased flash, of which every header field reads as ones and which is no valid image: the module is in recovery,
nothing is measured, and the invariants of the step hold.
It rests on readings of the model: log entry 4. -/
def Obligations.ResetState : Prop :=
  State.reset.safe = true ∧ State.reset.storesOk = true ∧ (∀ a, Memory.get State.reset.mem a = 0) ∧
  (∀ pa, State.reset.owner pa = 0) ∧ (∀ p, (State.reset.getPart p).set = false) ∧ State.reset.nextReady = none ∧
  (State.reset.getPort 0).role = 1 ∧ (∀ n, 0 < n → n < 16 → (State.reset.getPort n).st = 0) ∧
  (∀ n, 16 ≤ n → (State.reset.getPort n).st = 2) ∧ State.reset.tap.state = .running ∧
  (∀ x, fwField (State.reset.tap.slot x) 511 0 = 2 ^ 512 - 1 ∧ State.reset.tap.imageOk (State.reset.tap.slot x) = false) ∧
  State.reset.tap.recovery = true ∧ State.reset.tap.booted = none ∧ ∀ r, State.reset.tap.mea r = 0

/-- R139 to R146: words written out from the encodings of the spec decode to what they stand for (the worked encodings of
addi, br.ne.t and jr among them), and a base word of zeros or ones without a PAGE prefix to nothing.
It rests on readings of the model: log entry 7. -/
def Obligations.DecodeWords : Prop :=
  (decodeWords [0xE500, 0xE00F, 0x18E8]).toOption = some (.addi 12 3 1000) ∧
  (decodeWords [0x459E]).toOption = some (.brNe .t 4 (-2)) ∧
  (decodeWords [0x4E20]).toOption = some (.jr 1 0) ∧
  (decodeWords [0xE802, 0xC601]).toOption = some (.hwaitF 3 0 1) ∧
  (decodeWords [0xE801, 0xE402, 0x8973]).toOption = some (.vfmaF64 4 5 6 2) ∧
  (decodeWords [0xE427, 0xB56D]).toOption = some (.mgrp 2 5 21 7) ∧
  (decodeWords [0xE801, 0xE540, 0xD041]).toOption = some (.afsamp 8 9 1) ∧
  (decodeWords [0xE80C, 0xE6A3, 0xF978]).toOption = some (.barVote 3 20 21 23) ∧
  (decodeWords [0x0000]).toOption = none ∧ (decodeWords [0xFFFF]).toOption = none ∧
  (decodeWords [0xEC00, 0x0001]).toOption = none

/-- R137 to R146, R193 to R210: the encoder and the decoder agree. The words of every well-formed instruction, four prefix
words and a base word at most, decode to it. -/
def Obligations.EncodeDecode : Prop :=
  ∀ (i : Instr) (ws : List (BitVec 16)), i.wf = true → encode i = some ws → ws.length ≤ 5 ∧ decodeWords ws = .ok i

/-- R85, R139, R146: what the decoder accepts is well-formed: its immediate fits, its registers are in range, and it has an
encoding. -/
def Obligations.DecodeIsWellFormed : Prop :=
  ∀ (ws : List (BitVec 16)) (i : Instr), decodeWords ws = .ok i → i.wf = true ∧ encode i ≠ none

/-- The state in which a context issues. -/
def Claims.issuing (s : State) (core ctx : Nat) (rest : List Move) : State :=
  ({ s with agenda := rest, tickDue := true }.modCore core fun c => { c with last := ctx }).on core ctx

/-- The state once the acting context's chain is formed: as it is, or with NPC and NNPC found (R432). -/
def Claims.chained (u v : State) : Prop :=
  (u.cx.fresh = false ∧ v = u) ∨
  (u.cx.fresh = true ∧ ∃ npc p nnpc q, u.fetchNext u.cx.pc = .ok (npc, p) ∧ p.fetchNext npc = .ok (nnpc, q) ∧
    v = q.modCx fun x => { x with npc := npc, nnpc := nnpc, fresh := false })

/-- R36, R153 to R155, R432: a step runs the decoded instruction. A context whose turn it is issues, as the agenda's first
move or when nothing else moves; one that a wake completes issues too. When its chain is formed and the words at its PC decode
to `i`, the context keeps those words (R347) and the step is exec of `i`, with the address after NNPC found first unless `i`
does not need it; a nullified one is skipped whatever its words are; words that decode to nothing, and what a helper may not issue, trap ILLEGAL; words that
cannot be fetched fault. A halfword is read little-endian from where its translation leads. An event that is the first move is
exec of it, but nothing moves in a partition that has stopped.
It rests on readings of the model: log entries 1, 2, 14, 15 and 133. -/
def Obligations.StepRunsDecoded : Prop :=
  (∀ (core ctx : Nat) (rest : List Move) (s : State), core < 512 → ctx < 11 →
    (s.agenda = .issue core ctx :: rest → s.nextCtx core = some ctx → step s = (Claims.issuing s core ctx rest).issue) ∧
    (s.agenda = [] → s.tickDue = false → s.due = none → s.nextReady = some (core, ctx) →
      step s = (Claims.issuing s core ctx []).issue) ∧
    (s.agenda = .resume core ctx :: rest → s.mayIssue core ctx = true → (s.getCtx core ctx).waking = true →
      step s = ({ s with agenda := rest }.on core ctx).issue)) ∧
  (∀ u : State, u.cx.fresh = true →
    (∀ f, u.fetchNext u.cx.pc = .error f → u.issue = .next (u.fetchFault true f)) ∧
    ∀ npc p f, u.fetchNext u.cx.pc = .ok (npc, p) → p.fetchNext npc = .error f → u.issue = .next (u.fetchFault true f)) ∧
  (∀ u v : State, Claims.chained u v →
    (v.cx.nul0 = true → u.issue = exec .nullifiedInstruction v) ∧
    (v.cx.nul0 = false → ∀ ws w, v.fetchWords 5 v.cx.pc = .ok (ws, w) →
      (∀ e, decodeWords ws = .error e → u.issue = .next w.illegal) ∧
      ∀ i, decodeWords ws = .ok i →
        let w' := w.modCx fun x => { x with words := ws }
        (w.ctx ≠ 0 → i.helperMay = false → u.issue = .next w'.illegal) ∧
        (w.ctx = 0 ∨ i.helperMay = true →
          (w'.needsNext i = false → u.issue = exec i w') ∧
          (w'.needsNext i = true → ∀ x, w'.withNext = .ok x → u.issue = exec i x) ∧
          (w'.needsNext i = true → ∀ f, w'.withNext = .error f → u.issue = .next (w'.fetchFault u.cx.fresh f)))) ∧
    (v.cx.nul0 = false → ∀ f, v.fetchWords 5 v.cx.pc = .error f → u.issue = .next (v.fetchFault u.cx.fresh f))) ∧
  (∀ (i : Instr) (rest : List Move) (s : State), s.agenda = .act i :: rest → i.fields = none →
    let u := { s with agenda := rest }
    (u.stands i = false → step s = exec i u) ∧ (u.stands i = true → step s = .next u)) ∧
  ∀ (va : Word) (pa : Nat) (s v : State), s.access s.core .fetch va 2 = .ok ([(pa, 2)], v) →
    inWindow pa = false → inWindow (pa + 1) = false → v.granuleData va = .ok false →
    s.fetchWord va = .ok (BitVec.ofNat 16 ((v.seen v.die pa).toNat + 256 * (v.seen v.die (pa + 1)).toNat),
      v.keepCode [(pa, 2)])

/-- Every step keeps module memory and the owner table in their canonical form, the dies' coherent copies in order, and the
cut legal, from every state that has them so. -/
def Obligations.StepKeepsSafe : Prop :=
  ∀ s t : State, s.safe = true → step s = .next t → t.safe = true

/-- Every step keeps the machine's other memories (scratchpads, inbox slots, weight banks, the taproot's TCM) in their
canonical form, what GDDR 7 holds too, and each die's list of claimed stands and each LLC slice's lines in order. -/
def Obligations.StepKeepsStores : Prop :=
  ∀ s t : State, s.safe = true → s.storesOk = true → step s = .next t → t.storesOk = true

/-- A step never refuses: it ends in a next state unless the agenda's first move names a core or
a context that does not exist, or an event that is an encoded instruction.
It rests on readings of the model: log entry 1. -/
def Obligations.StepAlwaysAnswers : Prop :=
  ∀ s : State,
    (∀ r, step s ≠ .refused r) ∧
    ((∀ core ctx, s.agenda.head? = some (.issue core ctx) ∨ s.agenda.head? = some (.resume core ctx) →
        core < 512 ∧ ctx < 11) →
      (∀ i, s.agenda.head? = some (.act i) → i.fields = none) → ∃ t, step s = .next t)

/-- R127, R275, R284, R288, R290, R343, R400, R403, R405, R411, R414, R418 to R420: the engines' events complete. Under the
conditions that the rules put on each, exec answers a next state with the event's own effect: a matrix command is accepted
and performed; cpq dispatches, and its copy moves on, ends and posts its record; a run ends; a collective starts; the module
resets; a switch, its digest and a restore come at their instants; a write from outside lands; the gang loses and regains its
step.
It rests on readings of the model: log entries 3, 42 and 93. -/
def Obligations.EventsComplete : Prop :=
  (∀ (core : Nat) (q : QEntry) (rest : List QEntry) (group : List Nat) (s : State), (s.getCore core).vq = q :: rest →
    isMatrix q.instr = true → s.matrixFault core q = none → s.slotsReady core q = .accept group →
    let g := s.getGrove (groveOf core)
    g.requests.getLsbD (core % 4) = true → g.holder = some (inGrove core) →
    ∃ t, exec (.matrixCommandAccept core) s = .next t ∧ (t.getCore core).vq = rest ∧
      (t.getGrove (groveOf core)).accepted.length = g.accepted.length + 1) ∧
  (∀ (a : Accepted) (rest : List Accepted) (tile : Tile) (s : State),
    (s.getGrove (groveOf a.core)).accepted = a :: rest → a.entry.instr = .mzero tile →
    ∃ t, exec (.matrixCommandComplete (groveOf a.core)) s = .next t ∧ (t.getGrove (groveOf a.core)).accepted = rest ∧
      ∀ i, (t.getGrove (groveOf a.core)).tileAt tile.toNat i = 0) ∧
  (∀ (ch : BitVec 2) (d a b : SReg) (x : CReg) (s : State), s.isBound d = false →
    s.canBegin [a, b, x.setWidth 5] [d] = true → s.me.copies.length < 8 → (s.me.entry s.me.seq).st ≠ .inFlight →
    s.drainable s.core s.ctx = true →
    ∃ t, exec (.cpq ch d a b x) s = .next t ∧ t.cx.pc = s.cx.npc ∧ t.me.copies.length = s.me.copies.length + 1 ∧
      Sparse.get 0 t.me.issued ch.toNat = (Sparse.get 0 s.me.issued ch.toNat + 1) % 2 ^ 64) ∧
  (∀ (core : Nat) (ch : BitVec 2) (r : CopyReq) (s : State),
    let c := s.getCore core
    (c.copies.find? fun r => r.ch == ch) = some r → (∀ x ∈ c.copies, x.seq = r.seq → x = r) →
    (c.copyNext = some ch → r.stage = .moving → s.noPieces core Piece.byCopy = true → r.want ≤ r.buf.length → ∃ t, exec (.copyChunk core ch) s = .next t ∧
      ∀ x ∈ (t.getCore core).copies, x.seq = r.seq → x.done = r.done + min 4096 (r.len - r.done)) ∧
    (r.stage = .ended → (∀ p ∈ s.pieces, p.src = core → p.ctx ≠ 11 + ch.toNat) → r.fault = 0 → r.adv = false →
      r.event = false → ∃ t, exec (.copyComplete core ch) s = .next t ∧
        Sparse.get 0 (t.getCore core).completed ch.toNat = r.id ∧ ∀ x ∈ (t.getCore core).copies, x.seq ≠ r.seq) ∧
    (r.stage = .posting → c.events.length < 256 → ∃ t, exec (.eventRecordPost core ch) s = .next t ∧
      (t.getCore core).events.length = c.events.length + 1 ∧ Sparse.get 0 (t.getCore core).completed ch.toNat = r.id)) ∧
  (∀ (core : Nat) (s : State),
    let f := (s.getCore core).fab
    let tau := 1000 * 4 ^ f.tau.toNat
    let ns := (s.time - f.start).toNat
    f.status = .running →
    (f.window.toNat * tau ≤ 16 * ns → ns ≤ f.timeout.toNat * tau →
      ∃ t, exec (.runSettled core) s = .next t ∧ (t.getCore core).fab.status = .settled) ∧
    (f.timeout.toNat * tau ≤ ns → ∃ t, exec (.runTimeout core) s = .next t ∧ (t.getCore core).fab.status = .timeout) ∧
    (ns ≤ f.timeout.toNat * tau →
      ∃ t : State, exec (.runSaturated core) s = .next (t.lateFault core f.runSeq 0x0033 0 0) ∧
        (t.getCore core).fab.status = .saturated)) ∧
  (∀ (core ep part group rank : Nat) (ws : List Word) (rest : List (List Word)) (s : State),
    let e := s.getEp core ep
    e.peer = .exchange part group rank → e.msgs = ws :: rest → e.declared = true → e.send = true →
    (∀ r ∈ (s.getGroup part group).pending, ¬ (r.rank = rank ∧ r.core = core)) →
    ∃ t, exec (.collectiveStart core ep ws) s = .next t ∧ t.getEp core ep = e ∧
      (t.getGroup part group).pending.length = (s.getGroup part group).pending.length + 1) ∧
  (∀ (part group : Nat) (peers : List CollPeer) (s : State),
    let g := s.getGroup part group
    s.collReady g g.oldest peers = true → (∀ r ∈ g.oldest, r.ended = none) → ∃ t, exec (.collectiveComplete part group peers) s = .next t ∧
      ∀ r ∈ (t.getGroup part group).pending, r ∉ g.oldest) ∧
  (∀ s : State, (∃ t, exec .moduleReset s = .next t ∧ t.mem = [] ∧ t.tap.staging = none) ∧
    ∃ t, exec .stagingPowerLoss s = .next t ∧ t.tap.staging = none) ∧
  (∀ (part : Nat) (r : SwitchReq) (s : State),
    ((s.getPart part).switch = some r → r.instant.toNat ≤ s.time.toNat →
      ((s.stopPart part r.gang).settleOwns).owesAny = false →
      ∃ t, exec (.switchInstant part) s = .next t ∧ (t.getPart part).out = true ∧ (t.getPart part).imaged = some r.image) ∧
    (∀ b, (s.getPart part).imaged = some b → s.tap.state ≠ .failed → ∃ t, exec (.digestWrite part) s = .next t ∧ (t.getPart part).imaged = none) ∧
    ((s.getPart part).restore = some r → r.instant.toNat ≤ s.time.toNat →
      ∃ t, exec (.restoreInstant part) s = .next t ∧ (t.getPart part).out = false)) ∧
  (∀ (part port pa : Nat) (bs : List Byte) (s : State), bs.length ≤ 2 ^ 32 → s.haltedWindow part pa bs.length true = false →
    (s.reachable part pa bs.length = true →
      ∃ t, exec (.hostRemoteWrite part pa bs) s = .next t ∧ t.mem = Memory.putAll s.mem pa bs) ∧
    (s.owns 0xFE pa bs.length = true →
      ∃ t, exec (.peerRemoteWrite port pa bs) s = .next t ∧ t.mem = Memory.putAll s.mem pa bs)) ∧
  ∀ s : State,
    (s.gangPort = false → 50000000 ≤ s.gangDown → ∃ t, exec .outOfStep s = .next t ∧ t.sync = false) ∧
    (s.gangPort = true → 10000000 ≤ s.gangUp → ∃ t, exec .backInStep s = .next t ∧ t.sync = true)


/-- The results of the integer instructions of registers and of immediates (R214, R216). -/
def Obligations.ArithmeticResult : Prop :=
  Claims.AluRegisterResult ∧ Claims.AluImmediateResult

/-- Compares, selects, minima, maxima and bit operations (R217). -/
def Obligations.CompareAndBitResult : Prop :=
  Claims.CompareSelectResult ∧ Claims.BitCountResult

/-- Where a result goes, the frame of an instruction that writes one register, and what retiring pops (R50). -/
def Obligations.ResultWrite : Prop :=
  Claims.ResultToRegister ∧ Claims.ResultToBoundRegister ∧ Claims.RetirePopsOnce

/-- The scalar floating-point instructions, rounding of exact numbers, and what fmin and fmax answer for NaNs (R168, R226 to R229). -/
def Obligations.ScalarFloat : Prop :=
  Claims.FloatResult ∧ Claims.RoundingIsExactOnNumbers ∧ Claims.MinMaxOfNaNs

/-- Who sees a store while it is buffered and once it has left the buffer (R99, R101).
It rests on readings of the model: log entry 122. -/
def Obligations.StoreVisibility : Prop :=
  Claims.StoreSeenByItsContext ∧ Claims.DrainedStoreIsSeen

/-- The chain of a transfer, and a nullified instruction (R153 to R155). -/
def Obligations.TransferAndNullify : Prop :=
  Claims.TransferMovesChain ∧ Claims.NullifiedHasNoEffect

/-- Loads and stores, and the faults of their checks (R212, R218, R219, R221).
It rests on readings of the model: log entry 16. -/
def Obligations.MemoryAccess : Prop :=
  Claims.LoadResult ∧ Claims.StoreResult ∧ Claims.AccessFaults

/-- What the lane instructions write to each lane, and the flags of it (R239, R242 to R244, R253). -/
def Obligations.VectorLanes : Prop :=
  Claims.VectorIntegerLanes ∧ Claims.VectorFloatLanes ∧ Claims.PowersOfTwo

/-- Ports and channels (R49, R52, R93, R96 to R98, R112 to R114, R387, R391, R396, R397).
It rests on readings of the model: log entries 28, 29, 30, 46, 47, 48 and 134. -/
def Obligations.PortsAndChannels : Prop :=
  Claims.PortEvents ∧ Claims.ChannelEvents

/-- Acquire loads and release stores, and what a wide release writes (R102, R213, R220).
It rests on readings of the model: log entry 129. -/
def Obligations.AcquireReleaseResult : Prop :=
  Claims.AcquireReleaseForms ∧ Claims.ReleaseWrites

/-- Garm, larm and lpatch, and what an arming does (R59, R317 to R319, R374).
It rests on readings of the model: log entries 64, 65, 117, 119 and 145. -/
def Obligations.ArmAndPatch : Prop :=
  Claims.ArmPatchInstructions ∧ Claims.ArmResult

/-- Vector loads and stores, and the groups of venc and vdec (R112, R240, R246 to R248, R260 to R263).
It rests on readings of the model: log entry 17. -/
def Obligations.VectorMemory : Prop :=
  Claims.VectorAccess ∧ Claims.VectorGroups ∧ Claims.GroupLayout

/-- The gang switch and the restore (R343, R344, R348, R415 to R418, R420, R425).
It rests on readings of the model: log entries 11, 102, 103, 104 and 149. -/
def Obligations.Switching : Prop :=
  Claims.SwitchCommands ∧ Claims.SwitchInstants

/-- What an atomic answers and what it does to its word, in memory and at a window (R93, R113, R114, R116, R230, R231). -/
def Obligations.Atomics : Prop :=
  Claims.AtomicResult ∧ Claims.AtomicActsInPlace ∧ Claims.AtomicAtPort

/-- Cache maintenance, line by line, and a line that leaves a die (R88, R89, R104, R233).
It rests on readings of the model: log entries 8, 121, 128 and 140. -/
def Obligations.CacheMaintenance : Prop :=
  Claims.MaintenanceResult ∧ Claims.LineOperations ∧ Claims.LineEviction

/-- Binding an endpoint and sending on it (R107, R234, R235, R398). -/
def Obligations.Channels : Prop :=
  Claims.ChannelBind ∧ Claims.ChannelSend

/-- The control registers (R298, R300, R302 to R304, R306, R308, R309). -/
def Obligations.ControlRegisters : Prop :=
  Claims.ControlRead ∧ Claims.ControlWrite ∧ Claims.PoolBoundWrite

/-- Taking a trap and returning from it (R310, R311, R329, R330, R332, R333, R339).
It rests on readings of the model: log entries 54, 55, 56 and 133. -/
def Obligations.Traps : Prop :=
  Claims.TrapEntry ∧ Claims.TrapEntries ∧ Claims.ExceptionReturn

/-- Helper contexts (R17, R35, R193, R312 to R314). -/
def Obligations.Helpers : Prop :=
  Claims.HelperTrapsIllegal ∧ Claims.HelperInstructions

/-- Barriers (R44 to R46, R325 to R327).
It rests on readings of the model: log entries 50, 52 and 132. -/
def Obligations.Barriers : Prop :=
  Claims.BarrierInit ∧ Claims.BarrierArrival ∧ Claims.BarrierRelease

/-- Cancels (R32, R33, R71, R316, R372, R380, R381).
It rests on readings of the model: log entries 40, 58, 60 and 61. -/
def Obligations.Cancels : Prop :=
  Claims.CancelStopsUnit ∧ Claims.CancelInstruction ∧ Claims.CancelLevels

/-- What the graph engine does with tokens, reports and faults (R61, R62, R65, R67, R72).
It rests on readings of the model: log entries 65, 66, 115 and 146. -/
def Obligations.GraphEvents : Prop :=
  Claims.GraphReports ∧ Claims.GraphFault

/-- The pool instructions, what a take returns, and the events of a pool (R74, R78 to R82, R321 to R323).
It rests on readings of the model: log entries 53, 73, 74, 75 and 118. -/
def Obligations.Pools : Prop :=
  Claims.PoolInstructions ∧ Claims.PoolTakesBest ∧ Claims.PoolEvents

/-- The lease of the matrix array (R20, R41, R276, R433).
It rests on readings of the model: log entries 32 and 33. -/
def Obligations.Lease : Prop :=
  Claims.LeaseRequest ∧ Claims.LeaseEvents

/-- A matrix command from its acceptance to its completion, and the contraction (R189 to R192, R275, R278 to R285).
It rests on readings of the model: log entries 34 and 139. -/
def Obligations.Matrix : Prop :=
  Claims.MatrixAcceptance ∧ Claims.MatrixCompletion ∧ Claims.Contraction

/-- Moves, masks, reductions, scans, sorts, hashes and conversions (R245, R250 to R252, R254 to R258).
It rests on readings of the model: log entries 22 and 23. -/
def Obligations.VectorMovesAndScans : Prop :=
  Claims.VectorMovesAndMasks ∧ Claims.VectorScanAndSort ∧ Claims.HashAndConversion

/-- Rings and their instructions (R43, R264 to R267, R269 to R273, R289, R291, R433).
It rests on readings of the model: log entries 38 and 39. -/
def Obligations.Rings : Prop :=
  Claims.RingDispatch ∧ Claims.RingUnit

/-- Copies and their events (R92, R108, R109, R111, R112, R266, R267, R286 to R288, R290).
It rests on readings of the model: log entries 36, 37, 40, 41, 130 and 136. -/
def Obligations.Copies : Prop :=
  Claims.CopyRequest ∧ Claims.CopyWrites ∧ Claims.CopyEvents

/-- The fabric instructions (R107, R112, R119, R121, R123, R125 to R127, R130, R132 to R134, R292 to R294, R296, R297, R433).
It rests on readings of the model: log entries 43, 44, 45 and 144. -/
def Obligations.Fabric : Prop :=
  Claims.FabricDispatch ∧ Claims.FabricInstructions ∧ Claims.FabricConfiguration ∧ Claims.FabricJournal

/-- The end of waits, and what time brings (R41 to R43, R331, R332, R334, R336, R422, R433).
It rests on readings of the model: log entries 50, 51, 54 and 124. -/
def Obligations.WaitsAndTimers : Prop :=
  Claims.WaitEnds ∧ Claims.TimedEvents

/-- Collectives and their results (R400 to R403).
It rests on readings of the model: log entries 86 and 89. -/
def Obligations.CollectiveOperations : Prop :=
  Claims.Collectives ∧ Claims.CollectiveResult
end

