-- ==== Sys2Proof/Laws/Memory.lean ====
section
/-! SUPPORT. Laws of sparse maps and of memory: read after write, and that every operation keeps the canonical form. -/

namespace Sys2Proof

/-! ### Sparse maps -/

theorem Sparse.get_set_same {α : Type} (d v : α) (m : Sparse α) (k : Nat) : Sparse.get d (Sparse.set m k v) k = v := by
  induction m with
  | nil => simp [Sparse.set, Sparse.get]
  | cons x m ih =>
    obtain ⟨k', v'⟩ := x
    unfold Sparse.set
    split
    · simp [Sparse.get]
    · split
      · simp [Sparse.get]
      · simp only [Sparse.get]
        rw [if_neg (by omega), if_neg (by omega), ih]

theorem Sparse.get_set_other {α : Type} (d v : α) (m : Sparse α) (k j : Nat) (h : j ≠ k) :
    Sparse.get d (Sparse.set m k v) j = Sparse.get d m j := by
  induction m with
  | nil => simp [Sparse.set, Sparse.get, h]
  | cons x m ih =>
    obtain ⟨k', v'⟩ := x
    unfold Sparse.set
    split
    · simp only [Sparse.get]
      rw [if_neg h]
      split
      · rw [if_neg (by omega), if_pos (by omega)]
      · rfl
    · split
      · subst_vars
        simp only [Sparse.get]
        rw [if_neg h, if_neg h]
      · simp only [Sparse.get, ih]

theorem Sparse.get_set {α : Type} (d v : α) (m : Sparse α) (k j : Nat) :
    Sparse.get d (Sparse.set m k v) j = if j = k then v else Sparse.get d m j := by
  split
  · subst_vars; exact Sparse.get_set_same d v m _
  · exact Sparse.get_set_other d v m k j ‹_›

/-- The least key of a map that `set` made is the new key or the least key before. -/
theorem Sparse.set_head {α : Type} (m : Sparse α) (k : Nat) (v : α) (x : Nat × α) (r : Sparse α)
    (h : Sparse.set m k v = x :: r) : x.1 = k ∨ ∃ y q, m = y :: q ∧ x.1 = y.1 := by
  cases m with
  | nil => simp only [Sparse.set] at h; cases h; exact .inl rfl
  | cons y q =>
    obtain ⟨k', v'⟩ := y
    unfold Sparse.set at h
    split at h
    · cases h; exact .inl rfl
    · split at h
      · cases h; exact .inl rfl
      · cases h; exact .inr ⟨_, _, rfl, rfl⟩

theorem Sparse.sorted_tail {α : Type} (x : Nat × α) (m : Sparse α) (h : Sparse.sorted (x :: m) = true) :
    Sparse.sorted m = true := by
  cases m with
  | nil => rfl
  | cons y m => obtain ⟨a, b⟩ := x; obtain ⟨c, d⟩ := y; simp only [Sparse.sorted, Bool.and_eq_true] at h; exact h.2

theorem Sparse.sorted_head {α : Type} (x y : Nat × α) (m : Sparse α) (h : Sparse.sorted (x :: y :: m) = true) :
    x.1 < y.1 := by
  obtain ⟨a, b⟩ := x; obtain ⟨c, d⟩ := y
  simp only [Sparse.sorted, Bool.and_eq_true, decide_eq_true_eq] at h; exact h.1

theorem Sparse.sorted_cons {α : Type} (x : Nat × α) (m : Sparse α) (h : Sparse.sorted m = true)
    (hx : ∀ y q, m = y :: q → x.1 < y.1) : Sparse.sorted (x :: m) = true := by
  cases m with
  | nil => rfl
  | cons y m =>
    obtain ⟨a, b⟩ := x; obtain ⟨c, d⟩ := y
    simp only [Sparse.sorted, Bool.and_eq_true, decide_eq_true_eq]
    exact ⟨hx _ _ rfl, h⟩

theorem Sparse.sorted_set {α : Type} (m : Sparse α) (k : Nat) (v : α) (h : Sparse.sorted m = true) :
    Sparse.sorted (Sparse.set m k v) = true := by
  induction m with
  | nil => rfl
  | cons x m ih =>
    obtain ⟨k', v'⟩ := x
    unfold Sparse.set
    split
    · exact Sparse.sorted_cons _ _ h fun y q e => by cases e; assumption
    · split
      · subst_vars
        refine Sparse.sorted_cons _ _ (Sparse.sorted_tail _ _ h) fun y q e => ?_
        subst e; exact Sparse.sorted_head _ _ _ h
      · refine Sparse.sorted_cons _ _ (ih (Sparse.sorted_tail _ _ h)) fun y q e => ?_
        rcases Sparse.set_head _ _ _ _ _ e with hk | ⟨z, r, hm, hz⟩
        · simp only; omega
        · subst hm; rw [hz]; exact Sparse.sorted_head _ _ _ h

theorem Sparse.lt_of_mem {α : Type} (x : Nat × α) (m : Sparse α) (h : Sparse.sorted (x :: m) = true) (y : Nat × α)
    (hy : y ∈ m) : x.1 < y.1 := by
  induction m generalizing x with
  | nil => cases hy
  | cons z m ih =>
    have h1 := Sparse.sorted_head _ _ _ h
    rcases List.mem_cons.1 hy with rfl | hy
    · exact h1
    · exact Nat.lt_trans h1 (ih z (Sparse.sorted_tail _ _ h) hy)

/-- Leaving out listed keys keeps the order. -/
theorem Sparse.sorted_filter {α : Type} (m : Sparse α) (p : Nat × α → Bool) (h : Sparse.sorted m = true) :
    Sparse.sorted (m.filter p) = true := by
  induction m with
  | nil => rfl
  | cons x m ih =>
    have ht := ih (Sparse.sorted_tail _ _ h)
    simp only [List.filter]
    split
    · refine Sparse.sorted_cons _ _ ht fun y q e => ?_
      refine Sparse.lt_of_mem _ _ h y (List.mem_of_mem_filter (p := p) ?_)
      rw [e]; exact List.mem_cons_self
    · exact ht

theorem Sparse.del_eq_filter {α : Type} (m : Sparse α) (k : Nat) (h : Sparse.sorted m = true) :
    Sparse.del m k = m.filter fun x => !(x.1 == k) := by
  induction m with
  | nil => rfl
  | cons x m ih =>
    have hlt := Sparse.lt_of_mem _ _ h
    have ht := Sparse.sorted_tail _ _ h
    obtain ⟨k', v'⟩ := x
    have keep : k ≤ k' → m.filter (fun x => !(x.1 == k)) = m := fun hk =>
      List.filter_eq_self.2 fun y hy => by have := hlt y hy; simp at this ⊢; omega
    unfold Sparse.del
    split
    · subst_vars; rw [List.filter_cons_of_neg (by simp), keep (Nat.le_refl _)]
    · split
      · rw [List.filter_cons_of_pos (by simp; omega), keep (by omega)]
      · rw [List.filter_cons_of_pos (by simp; omega), ih ht]

theorem Sparse.sorted_del {α : Type} (m : Sparse α) (k : Nat) (h : Sparse.sorted m = true) :
    Sparse.sorted (Sparse.del m k) = true := by
  rw [Sparse.del_eq_filter m k h]; exact Sparse.sorted_filter m _ h

/-- A key below every listed one reads the default. -/
theorem Sparse.get_below {α : Type} (d : α) (m : Sparse α) (k : Nat) (h : ∀ x ∈ m, k < x.1) : Sparse.get d m k = d := by
  cases m with
  | nil => rfl
  | cons x m =>
    obtain ⟨k', v'⟩ := x
    have := h _ List.mem_cons_self
    simp only at this
    simp only [Sparse.get]
    rw [if_neg (by omega), if_pos this]

theorem Sparse.get_del {α : Type} (d : α) (m : Sparse α) (k j : Nat) (h : Sparse.sorted m = true) :
    Sparse.get d (Sparse.del m k) j = if j = k then d else Sparse.get d m j := by
  induction m with
  | nil => simp [Sparse.del, Sparse.get]
  | cons x m ih =>
    have hlt := Sparse.lt_of_mem _ _ h
    have ht := Sparse.sorted_tail _ _ h
    obtain ⟨k', v'⟩ := x
    simp only at hlt
    unfold Sparse.del
    split
    · subst_vars
      split
      · subst_vars; exact Sparse.get_below d m _ hlt
      · simp only [Sparse.get]
        rw [if_neg ‹_›]
        split
        · exact Sparse.get_below d m _ fun y hy => Nat.lt_trans ‹_› (hlt y hy)
        · rfl
    · split
      · by_cases hj : j = k
        · subst hj
          rw [if_pos rfl]; simp only [Sparse.get]; rw [if_neg ‹_›, if_pos ‹_›]
        · rw [if_neg hj]
      · simp only [Sparse.get, ih ht]
        by_cases hj : j = k
        · subst hj; simp [‹¬j = k'›, ‹¬j < k'›]
        · rw [if_neg hj, if_neg hj]

/-! ### Memory -/

namespace Machine

theorem Memory.wf_iff (m : Memory) :
    Memory.wf m = true ↔ Sparse.sorted (α := Byte) m = true ∧ ∀ c ∈ m, c.2 ≠ 0 := by
  simp [Memory.wf, List.all_eq_true]

theorem Memory.wf_nil : Memory.wf [] = true := rfl

theorem Memory.wf_filter (m : Memory) (p : Host.Cell → Bool) (h : Memory.wf m = true) : Memory.wf (m.filter p) = true := by
  rw [Memory.wf_iff] at *
  exact ⟨Sparse.sorted_filter (α := Byte) m p h.1, fun c hc => h.2 c (List.mem_of_mem_filter hc)⟩

theorem Memory.wf_clear (m : Memory) (lo hi : Nat) (h : Memory.wf m = true) : Memory.wf (Memory.clear m lo hi) = true :=
  Memory.wf_filter m _ h

theorem Sparse.mem_set {α : Type} (m : Sparse α) (k : Nat) (v : α) (x : Nat × α) (h : x ∈ Sparse.set m k v) :
    x = (k, v) ∨ x ∈ m := by
  induction m with
  | nil => simp only [Sparse.set, List.mem_singleton] at h; exact .inl h
  | cons y m ih =>
    obtain ⟨k', v'⟩ := y
    unfold Sparse.set at h
    split at h
    · rcases List.mem_cons.1 h with h | h
      · exact .inl h
      · exact .inr h
    · split at h
      · rcases List.mem_cons.1 h with h | h
        · exact .inl h
        · exact .inr (List.mem_cons_of_mem _ h)
      · rcases List.mem_cons.1 h with h | h
        · exact .inr (h ▸ List.mem_cons_self)
        · rcases ih h with h | h
          · exact .inl h
          · exact .inr (List.mem_cons_of_mem _ h)

/-- A write of one byte keeps the canonical form. -/
theorem Memory.wf_put (m : Memory) (a : Nat) (b : Byte) (h : Memory.wf m = true) : Memory.wf (Memory.put m a b) = true := by
  have h' := (Memory.wf_iff m).1 h
  unfold Memory.put
  split
  · rw [Sparse.del_eq_filter (α := Byte) m a h'.1]; exact Memory.wf_filter m _ h
  · rw [Memory.wf_iff]
    refine ⟨Sparse.sorted_set (α := Byte) m a b h'.1, fun c hc => ?_⟩
    rcases Sparse.mem_set (α := Byte) m a b c hc with rfl | hc
    · assumption
    · exact h'.2 c hc

/-- A write of bytes keeps the canonical form. -/
theorem Memory.wf_putAll (m : Memory) (a : Nat) (bs : List Byte) (h : Memory.wf m = true) :
    Memory.wf (Memory.putAll m a bs) = true := by
  induction bs generalizing m a with
  | nil => exact h
  | cons b bs ih => exact ih _ _ (Memory.wf_put m a b h)

/-- Read after a write of one byte. -/
theorem Memory.get_put (m : Memory) (a j : Nat) (b : Byte) (h : Memory.wf m = true) :
    Memory.get (Memory.put m a b) j = if j = a then b else Memory.get m j := by
  have h' := ((Memory.wf_iff m).1 h).1
  unfold Memory.put Memory.get
  split
  · rw [Sparse.get_del (α := Byte) 0 m a j h']; subst_vars; rfl
  · exact Sparse.get_set (α := Byte) 0 b m a j

/-- Read after a write of bytes, at an address outside them. -/
theorem Memory.get_putAll_out (m : Memory) (a j : Nat) (bs : List Byte) (h : Memory.wf m = true)
    (hj : j < a ∨ a + bs.length ≤ j) : Memory.get (Memory.putAll m a bs) j = Memory.get m j := by
  induction bs generalizing m a with
  | nil => rfl
  | cons b bs ih =>
    simp only [List.length_cons] at hj
    rw [Memory.putAll, ih _ _ (Memory.wf_put m a b h) (by omega), Memory.get_put m a j b h, if_neg (by omega)]

/-- Read after a write of bytes, at one of them. -/
theorem Memory.get_putAll_in (m : Memory) (a i : Nat) (bs : List Byte) (h : Memory.wf m = true) (hi : i < bs.length) :
    Memory.get (Memory.putAll m a bs) (a + i) = bs[i] := by
  induction bs generalizing m a i with
  | nil => exact absurd hi (Nat.not_lt_zero i)
  | cons b bs ih =>
    cases i with
    | zero =>
      rw [Memory.putAll, Memory.get_putAll_out _ _ _ bs (Memory.wf_put m a b h) (by omega), Memory.get_put m a _ b h]
      simp
    | succ i =>
      have := ih (Memory.put m a b) (a + 1) i (Memory.wf_put m a b h) (by simpa using hi)
      simpa [Memory.putAll, Nat.add_assoc, Nat.add_comm 1 i] using this

/-- Cleared addresses read 0, the others as before. -/
theorem Memory.get_filter (m : Memory) (p : Nat → Bool) (j : Nat) (h : Sparse.sorted (α := Byte) m = true) :
    Memory.get (m.filter fun c => p c.1) j = if p j then Memory.get m j else 0 := by
  unfold Memory.get
  induction m with
  | nil => simp [Sparse.get]
  | cons x m ih =>
    have hlt := Sparse.lt_of_mem (α := Byte) _ _ h
    have ih := ih (Sparse.sorted_tail (α := Byte) _ _ h)
    obtain ⟨k, v⟩ := x
    simp only at hlt
    simp only [List.filter]
    split
    · rename_i hp
      simp only [Sparse.get, ih]
      split
      · subst_vars; simp [hp]
      · split
        · simp
        · rfl
    · rename_i hp
      rw [ih]
      simp only [Sparse.get]
      split
      · split
        · subst_vars; simp_all
        · split
          · exact Sparse.get_below (α := Byte) 0 m _ fun y hy => Nat.lt_trans ‹_› (hlt y hy)
          · rfl
      · rfl

end Machine

end Sys2Proof
end

