-- ==== Sys2Proof/Laws/State.lean ====
section
/-! SUPPORT. Laws of the state's accessors: an update leaves every other field of the state alone, and a read after a
write gives what was written. -/

namespace Sys2Proof.Machine

/-! ### What an update leaves alone -/

@[simp] theorem Core.modCtx_frame (x : Core) (k : Nat) (f : Ctx → Ctx) :
    (x.modCtx k f).last = x.last ∧ (x.modCtx k f).v = x.v ∧ (x.modCtx k f).k = x.k ∧
    (x.modCtx k f).fmode = x.fmode ∧ (x.modCtx k f).fstat = x.fstat ∧ (x.modCtx k f).share = x.share ∧
    (x.modCtx k f).seq = x.seq ∧ (x.modCtx k f).pass = x.pass ∧ (x.modCtx k f).l1 = x.l1 ∧
    (x.modCtx k f).icache = x.icache ∧ (x.modCtx k f).itlb = x.itlb ∧ (x.modCtx k f).dtlb = x.dtlb ∧
    (x.modCtx k f).job = x.job ∧ (x.modCtx k f).rings = x.rings ∧ (x.modCtx k f).scratch = x.scratch ∧
    (x.modCtx k f).port = x.port ∧ (x.modCtx k f).dring = x.dring ∧ (x.modCtx k f).vq = x.vq ∧
    (x.modCtx k f).vload = x.vload ∧ (x.modCtx k f).fq = x.fq ∧ (x.modCtx k f).fwork = x.fwork ∧
    (x.modCtx k f).ru = x.ru ∧ (x.modCtx k f).copies = x.copies ∧ (x.modCtx k f).issued = x.issued ∧
    (x.modCtx k f).completed = x.completed ∧ (x.modCtx k f).copyTurn = x.copyTurn ∧
    (x.modCtx k f).events = x.events ∧ (x.modCtx k f).eventCount = x.eventCount ∧ (x.modCtx k f).eps = x.eps ∧
    (x.modCtx k f).sb = x.sb ∧ (x.modCtx k f).sbOut = x.sbOut ∧ (x.modCtx k f).cmos = x.cmos ∧
    (x.modCtx k f).unit = x.unit ∧ (x.modCtx k f).units = x.units ∧ (x.modCtx k f).late = x.late ∧
    (x.modCtx k f).flush = x.flush ∧ (x.modCtx k f).flushF = x.flushF ∧ (x.modCtx k f).fab = x.fab ∧
    (x.modCtx k f).jpos = x.jpos ∧ (x.modCtx k f).halted = x.halted ∧ (x.modCtx k f).cancelPend = x.cancelPend :=
  by and_intros <;> rfl

@[simp] theorem State.setCore_frame (s : State) (c : Nat) (x : Core) :
    (s.setCore c x).time = s.time ∧ (s.setCore c x).agenda = s.agenda ∧ (s.setCore c x).tickDue = s.tickDue ∧
    (s.setCore c x).core = s.core ∧ (s.setCore c x).ctx = s.ctx ∧ (s.setCore c x).draws = s.draws ∧
    (s.setCore c x).mem = s.mem ∧ (s.setCore c x).mems = s.mems ∧ (s.setCore c x).groves = s.groves ∧
    (s.setCore c x).dies = s.dies ∧ (s.setCore c x).parts = s.parts ∧ (s.setCore c x).cut = s.cut ∧
    (s.setCore c x).owners = s.owners ∧ (s.setCore c x).pieces = s.pieces ∧ (s.setCore c x).conns = s.conns ∧
    (s.setCore c x).outbox = s.outbox ∧ (s.setCore c x).ports = s.ports ∧ (s.setCore c x).sync = s.sync ∧
    (s.setCore c x).gangUp = s.gangUp ∧ (s.setCore c x).gangDown = s.gangDown ∧ (s.setCore c x).rate = s.rate ∧
    (s.setCore c x).tap = s.tap ∧ (s.setCore c x).log = s.log ∧ (s.setCore c x).stats = s.stats :=
  by and_intros <;> rfl

@[simp] theorem State.modCore_frame (s : State) (c : Nat) (f : Core → Core) :
    (s.modCore c f).time = s.time ∧ (s.modCore c f).agenda = s.agenda ∧ (s.modCore c f).tickDue = s.tickDue ∧
    (s.modCore c f).core = s.core ∧ (s.modCore c f).ctx = s.ctx ∧ (s.modCore c f).draws = s.draws ∧
    (s.modCore c f).mem = s.mem ∧ (s.modCore c f).mems = s.mems ∧ (s.modCore c f).groves = s.groves ∧
    (s.modCore c f).dies = s.dies ∧ (s.modCore c f).parts = s.parts ∧ (s.modCore c f).cut = s.cut ∧
    (s.modCore c f).owners = s.owners ∧ (s.modCore c f).pieces = s.pieces ∧ (s.modCore c f).conns = s.conns ∧
    (s.modCore c f).outbox = s.outbox ∧ (s.modCore c f).ports = s.ports ∧ (s.modCore c f).sync = s.sync ∧
    (s.modCore c f).gangUp = s.gangUp ∧ (s.modCore c f).gangDown = s.gangDown ∧ (s.modCore c f).rate = s.rate ∧
    (s.modCore c f).tap = s.tap ∧ (s.modCore c f).log = s.log ∧ (s.modCore c f).stats = s.stats :=
  by and_intros <;> rfl

@[simp] theorem State.modCtx_frame (s : State) (c k : Nat) (f : Ctx → Ctx) :
    (s.modCtx c k f).time = s.time ∧ (s.modCtx c k f).agenda = s.agenda ∧ (s.modCtx c k f).tickDue = s.tickDue ∧
    (s.modCtx c k f).core = s.core ∧ (s.modCtx c k f).ctx = s.ctx ∧ (s.modCtx c k f).draws = s.draws ∧
    (s.modCtx c k f).mem = s.mem ∧ (s.modCtx c k f).mems = s.mems ∧ (s.modCtx c k f).groves = s.groves ∧
    (s.modCtx c k f).dies = s.dies ∧ (s.modCtx c k f).parts = s.parts ∧ (s.modCtx c k f).cut = s.cut ∧
    (s.modCtx c k f).owners = s.owners ∧ (s.modCtx c k f).pieces = s.pieces ∧ (s.modCtx c k f).conns = s.conns ∧
    (s.modCtx c k f).outbox = s.outbox ∧ (s.modCtx c k f).ports = s.ports ∧ (s.modCtx c k f).sync = s.sync ∧
    (s.modCtx c k f).gangUp = s.gangUp ∧ (s.modCtx c k f).gangDown = s.gangDown ∧
    (s.modCtx c k f).rate = s.rate ∧ (s.modCtx c k f).tap = s.tap ∧ (s.modCtx c k f).log = s.log ∧
    (s.modCtx c k f).stats = s.stats :=
  by and_intros <;> rfl

@[simp] theorem State.modMe_frame (s : State) (f : Core → Core) :
    (s.modMe f).time = s.time ∧ (s.modMe f).agenda = s.agenda ∧ (s.modMe f).tickDue = s.tickDue ∧
    (s.modMe f).core = s.core ∧ (s.modMe f).ctx = s.ctx ∧ (s.modMe f).draws = s.draws ∧
    (s.modMe f).mem = s.mem ∧ (s.modMe f).mems = s.mems ∧ (s.modMe f).groves = s.groves ∧
    (s.modMe f).dies = s.dies ∧ (s.modMe f).parts = s.parts ∧ (s.modMe f).cut = s.cut ∧
    (s.modMe f).owners = s.owners ∧ (s.modMe f).pieces = s.pieces ∧ (s.modMe f).conns = s.conns ∧
    (s.modMe f).outbox = s.outbox ∧ (s.modMe f).ports = s.ports ∧ (s.modMe f).sync = s.sync ∧
    (s.modMe f).gangUp = s.gangUp ∧ (s.modMe f).gangDown = s.gangDown ∧ (s.modMe f).rate = s.rate ∧
    (s.modMe f).tap = s.tap ∧ (s.modMe f).log = s.log ∧ (s.modMe f).stats = s.stats :=
  by and_intros <;> rfl

@[simp] theorem State.modCx_frame (s : State) (f : Ctx → Ctx) :
    (s.modCx f).time = s.time ∧ (s.modCx f).agenda = s.agenda ∧ (s.modCx f).tickDue = s.tickDue ∧
    (s.modCx f).core = s.core ∧ (s.modCx f).ctx = s.ctx ∧ (s.modCx f).draws = s.draws ∧
    (s.modCx f).mem = s.mem ∧ (s.modCx f).mems = s.mems ∧ (s.modCx f).groves = s.groves ∧
    (s.modCx f).dies = s.dies ∧ (s.modCx f).parts = s.parts ∧ (s.modCx f).cut = s.cut ∧
    (s.modCx f).owners = s.owners ∧ (s.modCx f).pieces = s.pieces ∧ (s.modCx f).conns = s.conns ∧
    (s.modCx f).outbox = s.outbox ∧ (s.modCx f).ports = s.ports ∧ (s.modCx f).sync = s.sync ∧
    (s.modCx f).gangUp = s.gangUp ∧ (s.modCx f).gangDown = s.gangDown ∧ (s.modCx f).rate = s.rate ∧
    (s.modCx f).tap = s.tap ∧ (s.modCx f).log = s.log ∧ (s.modCx f).stats = s.stats :=
  by and_intros <;> rfl

@[simp] theorem State.modEp_frame (s : State) (c e : Nat) (f : Endpoint → Endpoint) :
    (s.modEp c e f).time = s.time ∧ (s.modEp c e f).agenda = s.agenda ∧ (s.modEp c e f).tickDue = s.tickDue ∧
    (s.modEp c e f).core = s.core ∧ (s.modEp c e f).ctx = s.ctx ∧ (s.modEp c e f).draws = s.draws ∧
    (s.modEp c e f).mem = s.mem ∧ (s.modEp c e f).mems = s.mems ∧ (s.modEp c e f).groves = s.groves ∧
    (s.modEp c e f).dies = s.dies ∧ (s.modEp c e f).parts = s.parts ∧ (s.modEp c e f).cut = s.cut ∧
    (s.modEp c e f).owners = s.owners ∧ (s.modEp c e f).pieces = s.pieces ∧ (s.modEp c e f).conns = s.conns ∧
    (s.modEp c e f).outbox = s.outbox ∧ (s.modEp c e f).ports = s.ports ∧ (s.modEp c e f).sync = s.sync ∧
    (s.modEp c e f).gangUp = s.gangUp ∧ (s.modEp c e f).gangDown = s.gangDown ∧ (s.modEp c e f).rate = s.rate ∧
    (s.modEp c e f).tap = s.tap ∧ (s.modEp c e f).log = s.log ∧ (s.modEp c e f).stats = s.stats :=
  by and_intros <;> rfl

@[simp] theorem State.modRing_frame (s : State) (c : Nat) (h : HReg) (f : Ring → Ring) :
    (s.modRing c h f).time = s.time ∧ (s.modRing c h f).agenda = s.agenda ∧
    (s.modRing c h f).tickDue = s.tickDue ∧ (s.modRing c h f).core = s.core ∧ (s.modRing c h f).ctx = s.ctx ∧
    (s.modRing c h f).draws = s.draws ∧ (s.modRing c h f).mem = s.mem ∧ (s.modRing c h f).mems = s.mems ∧
    (s.modRing c h f).groves = s.groves ∧ (s.modRing c h f).dies = s.dies ∧ (s.modRing c h f).parts = s.parts ∧
    (s.modRing c h f).cut = s.cut ∧ (s.modRing c h f).owners = s.owners ∧ (s.modRing c h f).pieces = s.pieces ∧
    (s.modRing c h f).conns = s.conns ∧ (s.modRing c h f).outbox = s.outbox ∧
    (s.modRing c h f).ports = s.ports ∧ (s.modRing c h f).sync = s.sync ∧ (s.modRing c h f).gangUp = s.gangUp ∧
    (s.modRing c h f).gangDown = s.gangDown ∧ (s.modRing c h f).rate = s.rate ∧ (s.modRing c h f).tap = s.tap ∧
    (s.modRing c h f).log = s.log ∧ (s.modRing c h f).stats = s.stats :=
  by and_intros <;> rfl

@[simp] theorem State.modGrove_frame (s : State) (g : Nat) (f : Grove → Grove) :
    (s.modGrove g f).time = s.time ∧ (s.modGrove g f).agenda = s.agenda ∧ (s.modGrove g f).tickDue = s.tickDue ∧
    (s.modGrove g f).core = s.core ∧ (s.modGrove g f).ctx = s.ctx ∧ (s.modGrove g f).draws = s.draws ∧
    (s.modGrove g f).mem = s.mem ∧ (s.modGrove g f).mems = s.mems ∧ (s.modGrove g f).cores = s.cores ∧
    (s.modGrove g f).dies = s.dies ∧ (s.modGrove g f).parts = s.parts ∧ (s.modGrove g f).cut = s.cut ∧
    (s.modGrove g f).owners = s.owners ∧ (s.modGrove g f).pieces = s.pieces ∧ (s.modGrove g f).conns = s.conns ∧
    (s.modGrove g f).outbox = s.outbox ∧ (s.modGrove g f).ports = s.ports ∧ (s.modGrove g f).sync = s.sync ∧
    (s.modGrove g f).gangUp = s.gangUp ∧ (s.modGrove g f).gangDown = s.gangDown ∧
    (s.modGrove g f).rate = s.rate ∧ (s.modGrove g f).tap = s.tap ∧ (s.modGrove g f).log = s.log ∧
    (s.modGrove g f).stats = s.stats :=
  by and_intros <;> rfl

@[simp] theorem State.modDie_frame (s : State) (d : Nat) (f : Die → Die) :
    (s.modDie d f).time = s.time ∧ (s.modDie d f).agenda = s.agenda ∧ (s.modDie d f).tickDue = s.tickDue ∧
    (s.modDie d f).core = s.core ∧ (s.modDie d f).ctx = s.ctx ∧ (s.modDie d f).draws = s.draws ∧
    (s.modDie d f).mem = s.mem ∧ (s.modDie d f).mems = s.mems ∧ (s.modDie d f).cores = s.cores ∧
    (s.modDie d f).groves = s.groves ∧ (s.modDie d f).parts = s.parts ∧ (s.modDie d f).cut = s.cut ∧
    (s.modDie d f).owners = s.owners ∧ (s.modDie d f).pieces = s.pieces ∧ (s.modDie d f).conns = s.conns ∧
    (s.modDie d f).outbox = s.outbox ∧ (s.modDie d f).ports = s.ports ∧ (s.modDie d f).sync = s.sync ∧
    (s.modDie d f).gangUp = s.gangUp ∧ (s.modDie d f).gangDown = s.gangDown ∧ (s.modDie d f).rate = s.rate ∧
    (s.modDie d f).tap = s.tap ∧ (s.modDie d f).log = s.log ∧ (s.modDie d f).stats = s.stats :=
  by and_intros <;> rfl

@[simp] theorem State.modBar_frame (s : State) (n : Nat) (f : Barrier → Barrier) :
    (s.modBar n f).time = s.time ∧ (s.modBar n f).agenda = s.agenda ∧ (s.modBar n f).tickDue = s.tickDue ∧
    (s.modBar n f).core = s.core ∧ (s.modBar n f).ctx = s.ctx ∧ (s.modBar n f).draws = s.draws ∧
    (s.modBar n f).mem = s.mem ∧ (s.modBar n f).mems = s.mems ∧ (s.modBar n f).cores = s.cores ∧
    (s.modBar n f).groves = s.groves ∧ (s.modBar n f).parts = s.parts ∧ (s.modBar n f).cut = s.cut ∧
    (s.modBar n f).owners = s.owners ∧ (s.modBar n f).pieces = s.pieces ∧ (s.modBar n f).conns = s.conns ∧
    (s.modBar n f).outbox = s.outbox ∧ (s.modBar n f).ports = s.ports ∧ (s.modBar n f).sync = s.sync ∧
    (s.modBar n f).gangUp = s.gangUp ∧ (s.modBar n f).gangDown = s.gangDown ∧ (s.modBar n f).rate = s.rate ∧
    (s.modBar n f).tap = s.tap ∧ (s.modBar n f).log = s.log ∧ (s.modBar n f).stats = s.stats :=
  by and_intros <;> rfl

@[simp] theorem State.modPart_frame (s : State) (p : Nat) (f : Part → Part) :
    (s.modPart p f).time = s.time ∧ (s.modPart p f).agenda = s.agenda ∧ (s.modPart p f).tickDue = s.tickDue ∧
    (s.modPart p f).core = s.core ∧ (s.modPart p f).ctx = s.ctx ∧ (s.modPart p f).draws = s.draws ∧
    (s.modPart p f).mem = s.mem ∧ (s.modPart p f).mems = s.mems ∧ (s.modPart p f).cores = s.cores ∧
    (s.modPart p f).groves = s.groves ∧ (s.modPart p f).dies = s.dies ∧ (s.modPart p f).cut = s.cut ∧
    (s.modPart p f).owners = s.owners ∧ (s.modPart p f).pieces = s.pieces ∧ (s.modPart p f).conns = s.conns ∧
    (s.modPart p f).outbox = s.outbox ∧ (s.modPart p f).ports = s.ports ∧ (s.modPart p f).sync = s.sync ∧
    (s.modPart p f).gangUp = s.gangUp ∧ (s.modPart p f).gangDown = s.gangDown ∧ (s.modPart p f).rate = s.rate ∧
    (s.modPart p f).tap = s.tap ∧ (s.modPart p f).log = s.log ∧ (s.modPart p f).stats = s.stats :=
  by and_intros <;> rfl

@[simp] theorem State.modPool_frame (s : State) (p n : Nat) (f : Pool → Pool) :
    (s.modPool p n f).time = s.time ∧ (s.modPool p n f).agenda = s.agenda ∧
    (s.modPool p n f).tickDue = s.tickDue ∧ (s.modPool p n f).core = s.core ∧ (s.modPool p n f).ctx = s.ctx ∧
    (s.modPool p n f).draws = s.draws ∧ (s.modPool p n f).mem = s.mem ∧ (s.modPool p n f).mems = s.mems ∧
    (s.modPool p n f).cores = s.cores ∧ (s.modPool p n f).groves = s.groves ∧ (s.modPool p n f).dies = s.dies ∧
    (s.modPool p n f).cut = s.cut ∧ (s.modPool p n f).owners = s.owners ∧ (s.modPool p n f).pieces = s.pieces ∧
    (s.modPool p n f).conns = s.conns ∧ (s.modPool p n f).outbox = s.outbox ∧
    (s.modPool p n f).ports = s.ports ∧ (s.modPool p n f).sync = s.sync ∧ (s.modPool p n f).gangUp = s.gangUp ∧
    (s.modPool p n f).gangDown = s.gangDown ∧ (s.modPool p n f).rate = s.rate ∧ (s.modPool p n f).tap = s.tap ∧
    (s.modPool p n f).log = s.log ∧ (s.modPool p n f).stats = s.stats :=
  by and_intros <;> rfl

@[simp] theorem State.modLaunch_frame (s : State) (p i : Nat) (f : Launch → Launch) :
    (s.modLaunch p i f).time = s.time ∧ (s.modLaunch p i f).agenda = s.agenda ∧
    (s.modLaunch p i f).tickDue = s.tickDue ∧ (s.modLaunch p i f).core = s.core ∧
    (s.modLaunch p i f).ctx = s.ctx ∧ (s.modLaunch p i f).draws = s.draws ∧ (s.modLaunch p i f).mem = s.mem ∧
    (s.modLaunch p i f).mems = s.mems ∧ (s.modLaunch p i f).cores = s.cores ∧
    (s.modLaunch p i f).groves = s.groves ∧ (s.modLaunch p i f).dies = s.dies ∧
    (s.modLaunch p i f).cut = s.cut ∧ (s.modLaunch p i f).owners = s.owners ∧
    (s.modLaunch p i f).pieces = s.pieces ∧ (s.modLaunch p i f).conns = s.conns ∧
    (s.modLaunch p i f).outbox = s.outbox ∧ (s.modLaunch p i f).ports = s.ports ∧
    (s.modLaunch p i f).sync = s.sync ∧ (s.modLaunch p i f).gangUp = s.gangUp ∧
    (s.modLaunch p i f).gangDown = s.gangDown ∧ (s.modLaunch p i f).rate = s.rate ∧
    (s.modLaunch p i f).tap = s.tap ∧ (s.modLaunch p i f).log = s.log ∧ (s.modLaunch p i f).stats = s.stats :=
  by and_intros <;> rfl

@[simp] theorem State.modGraph_frame (s : State) (p i : Nat) (f : Graph → Graph) :
    (s.modGraph p i f).time = s.time ∧ (s.modGraph p i f).agenda = s.agenda ∧
    (s.modGraph p i f).tickDue = s.tickDue ∧ (s.modGraph p i f).core = s.core ∧ (s.modGraph p i f).ctx = s.ctx ∧
    (s.modGraph p i f).draws = s.draws ∧ (s.modGraph p i f).mem = s.mem ∧ (s.modGraph p i f).mems = s.mems ∧
    (s.modGraph p i f).cores = s.cores ∧ (s.modGraph p i f).groves = s.groves ∧
    (s.modGraph p i f).dies = s.dies ∧ (s.modGraph p i f).cut = s.cut ∧ (s.modGraph p i f).owners = s.owners ∧
    (s.modGraph p i f).pieces = s.pieces ∧ (s.modGraph p i f).conns = s.conns ∧
    (s.modGraph p i f).outbox = s.outbox ∧ (s.modGraph p i f).ports = s.ports ∧
    (s.modGraph p i f).sync = s.sync ∧ (s.modGraph p i f).gangUp = s.gangUp ∧
    (s.modGraph p i f).gangDown = s.gangDown ∧ (s.modGraph p i f).rate = s.rate ∧
    (s.modGraph p i f).tap = s.tap ∧ (s.modGraph p i f).log = s.log ∧ (s.modGraph p i f).stats = s.stats :=
  by and_intros <;> rfl

@[simp] theorem State.modMem_frame (s : State) (d : Nat) (f : MemDie → MemDie) :
    (s.modMem d f).time = s.time ∧ (s.modMem d f).agenda = s.agenda ∧ (s.modMem d f).tickDue = s.tickDue ∧
    (s.modMem d f).core = s.core ∧ (s.modMem d f).ctx = s.ctx ∧ (s.modMem d f).draws = s.draws ∧
    (s.modMem d f).mem = s.mem ∧ (s.modMem d f).cores = s.cores ∧ (s.modMem d f).groves = s.groves ∧
    (s.modMem d f).dies = s.dies ∧ (s.modMem d f).parts = s.parts ∧ (s.modMem d f).cut = s.cut ∧
    (s.modMem d f).owners = s.owners ∧ (s.modMem d f).pieces = s.pieces ∧ (s.modMem d f).conns = s.conns ∧
    (s.modMem d f).outbox = s.outbox ∧ (s.modMem d f).ports = s.ports ∧ (s.modMem d f).sync = s.sync ∧
    (s.modMem d f).gangUp = s.gangUp ∧ (s.modMem d f).gangDown = s.gangDown ∧ (s.modMem d f).rate = s.rate ∧
    (s.modMem d f).tap = s.tap ∧ (s.modMem d f).log = s.log ∧ (s.modMem d f).stats = s.stats :=
  by and_intros <;> rfl

@[simp] theorem State.modPort_frame (s : State) (n : Nat) (f : ExtPort → ExtPort) :
    (s.modPort n f).time = s.time ∧ (s.modPort n f).agenda = s.agenda ∧ (s.modPort n f).tickDue = s.tickDue ∧
    (s.modPort n f).core = s.core ∧ (s.modPort n f).ctx = s.ctx ∧ (s.modPort n f).draws = s.draws ∧
    (s.modPort n f).mem = s.mem ∧ (s.modPort n f).mems = s.mems ∧ (s.modPort n f).cores = s.cores ∧
    (s.modPort n f).groves = s.groves ∧ (s.modPort n f).dies = s.dies ∧ (s.modPort n f).parts = s.parts ∧
    (s.modPort n f).cut = s.cut ∧ (s.modPort n f).owners = s.owners ∧ (s.modPort n f).pieces = s.pieces ∧
    (s.modPort n f).conns = s.conns ∧ (s.modPort n f).outbox = s.outbox ∧ (s.modPort n f).sync = s.sync ∧
    (s.modPort n f).gangUp = s.gangUp ∧ (s.modPort n f).gangDown = s.gangDown ∧ (s.modPort n f).rate = s.rate ∧
    (s.modPort n f).tap = s.tap ∧ (s.modPort n f).log = s.log ∧ (s.modPort n f).stats = s.stats :=
  by and_intros <;> rfl

@[simp] theorem State.send_frame (s : State) (m : Out) :
    (s.send m).time = s.time ∧ (s.send m).agenda = s.agenda ∧ (s.send m).tickDue = s.tickDue ∧
    (s.send m).core = s.core ∧ (s.send m).ctx = s.ctx ∧ (s.send m).draws = s.draws ∧ (s.send m).mem = s.mem ∧
    (s.send m).mems = s.mems ∧ (s.send m).cores = s.cores ∧ (s.send m).groves = s.groves ∧
    (s.send m).dies = s.dies ∧ (s.send m).parts = s.parts ∧ (s.send m).cut = s.cut ∧
    (s.send m).owners = s.owners ∧ (s.send m).pieces = s.pieces ∧ (s.send m).conns = s.conns ∧
    (s.send m).ports = s.ports ∧ (s.send m).sync = s.sync ∧ (s.send m).gangUp = s.gangUp ∧
    (s.send m).gangDown = s.gangDown ∧ (s.send m).rate = s.rate ∧ (s.send m).tap = s.tap ∧
    (s.send m).log = s.log ∧ (s.send m).stats = s.stats :=
  by and_intros <;> rfl

@[simp] theorem State.drawn_frame (s : State) :
    s.drawn.time = s.time ∧ s.drawn.agenda = s.agenda ∧ s.drawn.tickDue = s.tickDue ∧ s.drawn.core = s.core ∧
    s.drawn.ctx = s.ctx ∧ s.drawn.mem = s.mem ∧ s.drawn.mems = s.mems ∧ s.drawn.cores = s.cores ∧
    s.drawn.groves = s.groves ∧ s.drawn.dies = s.dies ∧ s.drawn.parts = s.parts ∧ s.drawn.cut = s.cut ∧
    s.drawn.owners = s.owners ∧ s.drawn.pieces = s.pieces ∧ s.drawn.conns = s.conns ∧
    s.drawn.outbox = s.outbox ∧ s.drawn.ports = s.ports ∧ s.drawn.sync = s.sync ∧ s.drawn.gangUp = s.gangUp ∧
    s.drawn.gangDown = s.gangDown ∧ s.drawn.rate = s.rate ∧ s.drawn.tap = s.tap ∧ s.drawn.log = s.log ∧
    s.drawn.stats = s.stats :=
  by and_intros <;> rfl

@[simp] theorem State.on_frame (s : State) (c k : Nat) :
    (s.on c k).time = s.time ∧ (s.on c k).agenda = s.agenda ∧ (s.on c k).tickDue = s.tickDue ∧
    (s.on c k).draws = s.draws ∧ (s.on c k).mem = s.mem ∧ (s.on c k).mems = s.mems ∧
    (s.on c k).cores = s.cores ∧ (s.on c k).groves = s.groves ∧ (s.on c k).dies = s.dies ∧
    (s.on c k).parts = s.parts ∧ (s.on c k).cut = s.cut ∧ (s.on c k).owners = s.owners ∧
    (s.on c k).pieces = s.pieces ∧ (s.on c k).conns = s.conns ∧ (s.on c k).outbox = s.outbox ∧
    (s.on c k).ports = s.ports ∧ (s.on c k).sync = s.sync ∧ (s.on c k).gangUp = s.gangUp ∧
    (s.on c k).gangDown = s.gangDown ∧ (s.on c k).rate = s.rate ∧ (s.on c k).tap = s.tap ∧
    (s.on c k).log = s.log ∧ (s.on c k).stats = s.stats :=
  by and_intros <;> rfl

@[simp] theorem State.on_core (s : State) (c k : Nat) : (s.on c k).core = c := rfl
@[simp] theorem State.on_ctx (s : State) (c k : Nat) : (s.on c k).ctx = k := rfl

/-! ### Reads after writes -/

@[simp] theorem State.getCore_modGrove (s : State) (g : Nat) (f : Grove → Grove) (c' : Nat) :
    (s.modGrove g f).getCore c' = s.getCore c' := rfl
@[simp] theorem State.getCore_modDie (s : State) (d : Nat) (f : Die → Die) (c' : Nat) :
    (s.modDie d f).getCore c' = s.getCore c' := rfl
@[simp] theorem State.getCore_modBar (s : State) (n : Nat) (f : Barrier → Barrier) (c' : Nat) :
    (s.modBar n f).getCore c' = s.getCore c' := rfl
@[simp] theorem State.getCore_modPart (s : State) (p : Nat) (f : Part → Part) (c' : Nat) :
    (s.modPart p f).getCore c' = s.getCore c' := rfl
@[simp] theorem State.getCore_modPool (s : State) (p n : Nat) (f : Pool → Pool) (c' : Nat) :
    (s.modPool p n f).getCore c' = s.getCore c' := rfl
@[simp] theorem State.getCore_modLaunch (s : State) (p i : Nat) (f : Launch → Launch) (c' : Nat) :
    (s.modLaunch p i f).getCore c' = s.getCore c' := rfl
@[simp] theorem State.getCore_modGraph (s : State) (p i : Nat) (f : Graph → Graph) (c' : Nat) :
    (s.modGraph p i f).getCore c' = s.getCore c' := rfl
@[simp] theorem State.getCore_modMem (s : State) (d : Nat) (f : MemDie → MemDie) (c' : Nat) :
    (s.modMem d f).getCore c' = s.getCore c' := rfl
@[simp] theorem State.getCore_modPort (s : State) (n : Nat) (f : ExtPort → ExtPort) (c' : Nat) :
    (s.modPort n f).getCore c' = s.getCore c' := rfl
@[simp] theorem State.getCore_send (s : State) (m : Out) (c' : Nat) :
    (s.send m).getCore c' = s.getCore c' := rfl
@[simp] theorem State.getCore_drawn (s : State) (c' : Nat) :
    s.drawn.getCore c' = s.getCore c' := rfl
@[simp] theorem State.getCore_on (s : State) (c k : Nat) (c' : Nat) :
    (s.on c k).getCore c' = s.getCore c' := rfl

@[simp] theorem State.getGrove_setCore (s : State) (c : Nat) (x : Core) (g' : Nat) :
    (s.setCore c x).getGrove g' = s.getGrove g' := rfl
@[simp] theorem State.getGrove_modCore (s : State) (c : Nat) (f : Core → Core) (g' : Nat) :
    (s.modCore c f).getGrove g' = s.getGrove g' := rfl
@[simp] theorem State.getGrove_modCtx (s : State) (c k : Nat) (f : Ctx → Ctx) (g' : Nat) :
    (s.modCtx c k f).getGrove g' = s.getGrove g' := rfl
@[simp] theorem State.getGrove_modMe (s : State) (f : Core → Core) (g' : Nat) :
    (s.modMe f).getGrove g' = s.getGrove g' := rfl
@[simp] theorem State.getGrove_modCx (s : State) (f : Ctx → Ctx) (g' : Nat) :
    (s.modCx f).getGrove g' = s.getGrove g' := rfl
@[simp] theorem State.getGrove_modEp (s : State) (c e : Nat) (f : Endpoint → Endpoint) (g' : Nat) :
    (s.modEp c e f).getGrove g' = s.getGrove g' := rfl
@[simp] theorem State.getGrove_modRing (s : State) (c : Nat) (h : HReg) (f : Ring → Ring) (g' : Nat) :
    (s.modRing c h f).getGrove g' = s.getGrove g' := rfl
@[simp] theorem State.getGrove_modDie (s : State) (d : Nat) (f : Die → Die) (g' : Nat) :
    (s.modDie d f).getGrove g' = s.getGrove g' := rfl
@[simp] theorem State.getGrove_modBar (s : State) (n : Nat) (f : Barrier → Barrier) (g' : Nat) :
    (s.modBar n f).getGrove g' = s.getGrove g' := rfl
@[simp] theorem State.getGrove_modPart (s : State) (p : Nat) (f : Part → Part) (g' : Nat) :
    (s.modPart p f).getGrove g' = s.getGrove g' := rfl
@[simp] theorem State.getGrove_modPool (s : State) (p n : Nat) (f : Pool → Pool) (g' : Nat) :
    (s.modPool p n f).getGrove g' = s.getGrove g' := rfl
@[simp] theorem State.getGrove_modLaunch (s : State) (p i : Nat) (f : Launch → Launch) (g' : Nat) :
    (s.modLaunch p i f).getGrove g' = s.getGrove g' := rfl
@[simp] theorem State.getGrove_modGraph (s : State) (p i : Nat) (f : Graph → Graph) (g' : Nat) :
    (s.modGraph p i f).getGrove g' = s.getGrove g' := rfl
@[simp] theorem State.getGrove_modMem (s : State) (d : Nat) (f : MemDie → MemDie) (g' : Nat) :
    (s.modMem d f).getGrove g' = s.getGrove g' := rfl
@[simp] theorem State.getGrove_modPort (s : State) (n : Nat) (f : ExtPort → ExtPort) (g' : Nat) :
    (s.modPort n f).getGrove g' = s.getGrove g' := rfl
@[simp] theorem State.getGrove_send (s : State) (m : Out) (g' : Nat) :
    (s.send m).getGrove g' = s.getGrove g' := rfl
@[simp] theorem State.getGrove_drawn (s : State) (g' : Nat) :
    s.drawn.getGrove g' = s.getGrove g' := rfl
@[simp] theorem State.getGrove_on (s : State) (c k : Nat) (g' : Nat) :
    (s.on c k).getGrove g' = s.getGrove g' := rfl

@[simp] theorem State.getDie_setCore (s : State) (c : Nat) (x : Core) (d' : Nat) :
    (s.setCore c x).getDie d' = s.getDie d' := rfl
@[simp] theorem State.getDie_modCore (s : State) (c : Nat) (f : Core → Core) (d' : Nat) :
    (s.modCore c f).getDie d' = s.getDie d' := rfl
@[simp] theorem State.getDie_modCtx (s : State) (c k : Nat) (f : Ctx → Ctx) (d' : Nat) :
    (s.modCtx c k f).getDie d' = s.getDie d' := rfl
@[simp] theorem State.getDie_modMe (s : State) (f : Core → Core) (d' : Nat) :
    (s.modMe f).getDie d' = s.getDie d' := rfl
@[simp] theorem State.getDie_modCx (s : State) (f : Ctx → Ctx) (d' : Nat) :
    (s.modCx f).getDie d' = s.getDie d' := rfl
@[simp] theorem State.getDie_modEp (s : State) (c e : Nat) (f : Endpoint → Endpoint) (d' : Nat) :
    (s.modEp c e f).getDie d' = s.getDie d' := rfl
@[simp] theorem State.getDie_modRing (s : State) (c : Nat) (h : HReg) (f : Ring → Ring) (d' : Nat) :
    (s.modRing c h f).getDie d' = s.getDie d' := rfl
@[simp] theorem State.getDie_modGrove (s : State) (g : Nat) (f : Grove → Grove) (d' : Nat) :
    (s.modGrove g f).getDie d' = s.getDie d' := rfl
@[simp] theorem State.getDie_modPart (s : State) (p : Nat) (f : Part → Part) (d' : Nat) :
    (s.modPart p f).getDie d' = s.getDie d' := rfl
@[simp] theorem State.getDie_modPool (s : State) (p n : Nat) (f : Pool → Pool) (d' : Nat) :
    (s.modPool p n f).getDie d' = s.getDie d' := rfl
@[simp] theorem State.getDie_modLaunch (s : State) (p i : Nat) (f : Launch → Launch) (d' : Nat) :
    (s.modLaunch p i f).getDie d' = s.getDie d' := rfl
@[simp] theorem State.getDie_modGraph (s : State) (p i : Nat) (f : Graph → Graph) (d' : Nat) :
    (s.modGraph p i f).getDie d' = s.getDie d' := rfl
@[simp] theorem State.getDie_modMem (s : State) (d : Nat) (f : MemDie → MemDie) (d' : Nat) :
    (s.modMem d f).getDie d' = s.getDie d' := rfl
@[simp] theorem State.getDie_modPort (s : State) (n : Nat) (f : ExtPort → ExtPort) (d' : Nat) :
    (s.modPort n f).getDie d' = s.getDie d' := rfl
@[simp] theorem State.getDie_send (s : State) (m : Out) (d' : Nat) :
    (s.send m).getDie d' = s.getDie d' := rfl
@[simp] theorem State.getDie_drawn (s : State) (d' : Nat) :
    s.drawn.getDie d' = s.getDie d' := rfl
@[simp] theorem State.getDie_on (s : State) (c k : Nat) (d' : Nat) :
    (s.on c k).getDie d' = s.getDie d' := rfl

@[simp] theorem State.getPart_setCore (s : State) (c : Nat) (x : Core) (p' : Nat) :
    (s.setCore c x).getPart p' = s.getPart p' := rfl
@[simp] theorem State.getPart_modCore (s : State) (c : Nat) (f : Core → Core) (p' : Nat) :
    (s.modCore c f).getPart p' = s.getPart p' := rfl
@[simp] theorem State.getPart_modCtx (s : State) (c k : Nat) (f : Ctx → Ctx) (p' : Nat) :
    (s.modCtx c k f).getPart p' = s.getPart p' := rfl
@[simp] theorem State.getPart_modMe (s : State) (f : Core → Core) (p' : Nat) :
    (s.modMe f).getPart p' = s.getPart p' := rfl
@[simp] theorem State.getPart_modCx (s : State) (f : Ctx → Ctx) (p' : Nat) :
    (s.modCx f).getPart p' = s.getPart p' := rfl
@[simp] theorem State.getPart_modEp (s : State) (c e : Nat) (f : Endpoint → Endpoint) (p' : Nat) :
    (s.modEp c e f).getPart p' = s.getPart p' := rfl
@[simp] theorem State.getPart_modRing (s : State) (c : Nat) (h : HReg) (f : Ring → Ring) (p' : Nat) :
    (s.modRing c h f).getPart p' = s.getPart p' := rfl
@[simp] theorem State.getPart_modGrove (s : State) (g : Nat) (f : Grove → Grove) (p' : Nat) :
    (s.modGrove g f).getPart p' = s.getPart p' := rfl
@[simp] theorem State.getPart_modDie (s : State) (d : Nat) (f : Die → Die) (p' : Nat) :
    (s.modDie d f).getPart p' = s.getPart p' := rfl
@[simp] theorem State.getPart_modBar (s : State) (n : Nat) (f : Barrier → Barrier) (p' : Nat) :
    (s.modBar n f).getPart p' = s.getPart p' := rfl
@[simp] theorem State.getPart_modMem (s : State) (d : Nat) (f : MemDie → MemDie) (p' : Nat) :
    (s.modMem d f).getPart p' = s.getPart p' := rfl
@[simp] theorem State.getPart_modPort (s : State) (n : Nat) (f : ExtPort → ExtPort) (p' : Nat) :
    (s.modPort n f).getPart p' = s.getPart p' := rfl
@[simp] theorem State.getPart_send (s : State) (m : Out) (p' : Nat) :
    (s.send m).getPart p' = s.getPart p' := rfl
@[simp] theorem State.getPart_drawn (s : State) (p' : Nat) :
    s.drawn.getPart p' = s.getPart p' := rfl
@[simp] theorem State.getPart_on (s : State) (c k : Nat) (p' : Nat) :
    (s.on c k).getPart p' = s.getPart p' := rfl

@[simp] theorem State.getPort_setCore (s : State) (c : Nat) (x : Core) (n' : Nat) :
    (s.setCore c x).getPort n' = s.getPort n' := rfl
@[simp] theorem State.getPort_modCore (s : State) (c : Nat) (f : Core → Core) (n' : Nat) :
    (s.modCore c f).getPort n' = s.getPort n' := rfl
@[simp] theorem State.getPort_modCtx (s : State) (c k : Nat) (f : Ctx → Ctx) (n' : Nat) :
    (s.modCtx c k f).getPort n' = s.getPort n' := rfl
@[simp] theorem State.getPort_modMe (s : State) (f : Core → Core) (n' : Nat) :
    (s.modMe f).getPort n' = s.getPort n' := rfl
@[simp] theorem State.getPort_modCx (s : State) (f : Ctx → Ctx) (n' : Nat) :
    (s.modCx f).getPort n' = s.getPort n' := rfl
@[simp] theorem State.getPort_modEp (s : State) (c e : Nat) (f : Endpoint → Endpoint) (n' : Nat) :
    (s.modEp c e f).getPort n' = s.getPort n' := rfl
@[simp] theorem State.getPort_modRing (s : State) (c : Nat) (h : HReg) (f : Ring → Ring) (n' : Nat) :
    (s.modRing c h f).getPort n' = s.getPort n' := rfl
@[simp] theorem State.getPort_modGrove (s : State) (g : Nat) (f : Grove → Grove) (n' : Nat) :
    (s.modGrove g f).getPort n' = s.getPort n' := rfl
@[simp] theorem State.getPort_modDie (s : State) (d : Nat) (f : Die → Die) (n' : Nat) :
    (s.modDie d f).getPort n' = s.getPort n' := rfl
@[simp] theorem State.getPort_modBar (s : State) (n : Nat) (f : Barrier → Barrier) (n' : Nat) :
    (s.modBar n f).getPort n' = s.getPort n' := rfl
@[simp] theorem State.getPort_modPart (s : State) (p : Nat) (f : Part → Part) (n' : Nat) :
    (s.modPart p f).getPort n' = s.getPort n' := rfl
@[simp] theorem State.getPort_modPool (s : State) (p n : Nat) (f : Pool → Pool) (n' : Nat) :
    (s.modPool p n f).getPort n' = s.getPort n' := rfl
@[simp] theorem State.getPort_modLaunch (s : State) (p i : Nat) (f : Launch → Launch) (n' : Nat) :
    (s.modLaunch p i f).getPort n' = s.getPort n' := rfl
@[simp] theorem State.getPort_modGraph (s : State) (p i : Nat) (f : Graph → Graph) (n' : Nat) :
    (s.modGraph p i f).getPort n' = s.getPort n' := rfl
@[simp] theorem State.getPort_modMem (s : State) (d : Nat) (f : MemDie → MemDie) (n' : Nat) :
    (s.modMem d f).getPort n' = s.getPort n' := rfl
@[simp] theorem State.getPort_send (s : State) (m : Out) (n' : Nat) :
    (s.send m).getPort n' = s.getPort n' := rfl
@[simp] theorem State.getPort_drawn (s : State) (n' : Nat) :
    s.drawn.getPort n' = s.getPort n' := rfl
@[simp] theorem State.getPort_on (s : State) (c k : Nat) (n' : Nat) :
    (s.on c k).getPort n' = s.getPort n' := rfl

@[simp] theorem State.getMem_setCore (s : State) (c : Nat) (x : Core) (d' : Nat) :
    (s.setCore c x).getMem d' = s.getMem d' := rfl
@[simp] theorem State.getMem_modCore (s : State) (c : Nat) (f : Core → Core) (d' : Nat) :
    (s.modCore c f).getMem d' = s.getMem d' := rfl
@[simp] theorem State.getMem_modCtx (s : State) (c k : Nat) (f : Ctx → Ctx) (d' : Nat) :
    (s.modCtx c k f).getMem d' = s.getMem d' := rfl
@[simp] theorem State.getMem_modMe (s : State) (f : Core → Core) (d' : Nat) :
    (s.modMe f).getMem d' = s.getMem d' := rfl
@[simp] theorem State.getMem_modCx (s : State) (f : Ctx → Ctx) (d' : Nat) :
    (s.modCx f).getMem d' = s.getMem d' := rfl
@[simp] theorem State.getMem_modEp (s : State) (c e : Nat) (f : Endpoint → Endpoint) (d' : Nat) :
    (s.modEp c e f).getMem d' = s.getMem d' := rfl
@[simp] theorem State.getMem_modRing (s : State) (c : Nat) (h : HReg) (f : Ring → Ring) (d' : Nat) :
    (s.modRing c h f).getMem d' = s.getMem d' := rfl
@[simp] theorem State.getMem_modGrove (s : State) (g : Nat) (f : Grove → Grove) (d' : Nat) :
    (s.modGrove g f).getMem d' = s.getMem d' := rfl
@[simp] theorem State.getMem_modDie (s : State) (d : Nat) (f : Die → Die) (d' : Nat) :
    (s.modDie d f).getMem d' = s.getMem d' := rfl
@[simp] theorem State.getMem_modBar (s : State) (n : Nat) (f : Barrier → Barrier) (d' : Nat) :
    (s.modBar n f).getMem d' = s.getMem d' := rfl
@[simp] theorem State.getMem_modPart (s : State) (p : Nat) (f : Part → Part) (d' : Nat) :
    (s.modPart p f).getMem d' = s.getMem d' := rfl
@[simp] theorem State.getMem_modPool (s : State) (p n : Nat) (f : Pool → Pool) (d' : Nat) :
    (s.modPool p n f).getMem d' = s.getMem d' := rfl
@[simp] theorem State.getMem_modLaunch (s : State) (p i : Nat) (f : Launch → Launch) (d' : Nat) :
    (s.modLaunch p i f).getMem d' = s.getMem d' := rfl
@[simp] theorem State.getMem_modGraph (s : State) (p i : Nat) (f : Graph → Graph) (d' : Nat) :
    (s.modGraph p i f).getMem d' = s.getMem d' := rfl
@[simp] theorem State.getMem_modPort (s : State) (n : Nat) (f : ExtPort → ExtPort) (d' : Nat) :
    (s.modPort n f).getMem d' = s.getMem d' := rfl
@[simp] theorem State.getMem_send (s : State) (m : Out) (d' : Nat) :
    (s.send m).getMem d' = s.getMem d' := rfl
@[simp] theorem State.getMem_drawn (s : State) (d' : Nat) :
    s.drawn.getMem d' = s.getMem d' := rfl
@[simp] theorem State.getMem_on (s : State) (c k : Nat) (d' : Nat) :
    (s.on c k).getMem d' = s.getMem d' := rfl

theorem State.getCore_modCore (s : State) (c j : Nat) (f : Core → Core) :
    (s.modCore c f).getCore j = if j = c then f (s.getCore c) else s.getCore j := Sparse.get_set _ _ _ _ _

@[simp] theorem State.getCore_modCore_same (s : State) (c : Nat) (f : Core → Core) :
    (s.modCore c f).getCore c = f (s.getCore c) := Sparse.get_set_same _ _ _ _

theorem State.getCore_modCore_other (s : State) (c j : Nat) (f : Core → Core) (h : j ≠ c) :
    (s.modCore c f).getCore j = s.getCore j := Sparse.get_set_other _ _ _ _ _ h

theorem Core.getCtx_modCtx (x : Core) (k j : Nat) (f : Ctx → Ctx) :
    (x.modCtx k f).getCtx j = if j = k then f (x.getCtx k) else x.getCtx j := Sparse.get_set _ _ _ _ _

@[simp] theorem Core.getCtx_modCtx_same (x : Core) (k : Nat) (f : Ctx → Ctx) :
    (x.modCtx k f).getCtx k = f (x.getCtx k) := Sparse.get_set_same _ _ _ _

@[simp] theorem State.getCore_modCtx_same (s : State) (c k : Nat) (f : Ctx → Ctx) :
    (s.modCtx c k f).getCore c = (s.getCore c).modCtx k f := State.getCore_modCore_same _ _ _

theorem State.getCore_modCtx_other (s : State) (c k j : Nat) (f : Ctx → Ctx) (h : j ≠ c) :
    (s.modCtx c k f).getCore j = s.getCore j := State.getCore_modCore_other _ _ _ _ h

@[simp] theorem State.getCtx_modCtx_same (s : State) (c k : Nat) (f : Ctx → Ctx) :
    (s.modCtx c k f).getCtx c k = f (s.getCtx c k) := by simp [State.getCtx]

theorem State.getCtx_modCtx (s : State) (c k c' k' : Nat) (f : Ctx → Ctx) :
    (s.modCtx c k f).getCtx c' k' = if c' = c ∧ k' = k then f (s.getCtx c k) else s.getCtx c' k' := by
  by_cases hc : c' = c
  · subst hc; by_cases hk : k' = k
    · subst hk; simp
    · simp [State.getCtx, Core.getCtx_modCtx, hk]
  · simp [State.getCtx, State.getCore_modCtx_other _ _ _ _ _ hc, hc]

@[simp] theorem State.cx_modCx (s : State) (f : Ctx → Ctx) : (s.modCx f).cx = f s.cx :=
  State.getCtx_modCtx_same _ _ _ _

@[simp] theorem State.me_modMe (s : State) (f : Core → Core) : (s.modMe f).me = f s.me :=
  State.getCore_modCore_same _ _ _

@[simp] theorem State.me_modCx (s : State) (f : Ctx → Ctx) : (s.modCx f).me = s.me.modCtx s.ctx f :=
  State.getCore_modCore_same _ _ _

theorem State.getGrove_modGrove (s : State) (g j : Nat) (f : Grove → Grove) :
    (s.modGrove g f).getGrove j = if j = g then f (s.getGrove g) else s.getGrove j := Sparse.get_set _ _ _ _ _

@[simp] theorem State.getGrove_modGrove_same (s : State) (g : Nat) (f : Grove → Grove) :
    (s.modGrove g f).getGrove g = f (s.getGrove g) := Sparse.get_set_same _ _ _ _

theorem State.getDie_modDie (s : State) (d j : Nat) (f : Die → Die) :
    (s.modDie d f).getDie j = if j = d then f (s.getDie d) else s.getDie j := Sparse.get_set _ _ _ _ _

@[simp] theorem State.getDie_modDie_same (s : State) (d : Nat) (f : Die → Die) :
    (s.modDie d f).getDie d = f (s.getDie d) := Sparse.get_set_same _ _ _ _

theorem State.getMem_modMem (s : State) (d j : Nat) (f : MemDie → MemDie) :
    (s.modMem d f).getMem j = if j = d then f (s.getMem d) else s.getMem j := Sparse.get_set _ _ _ _ _

@[simp] theorem State.getMem_modMem_same (s : State) (d : Nat) (f : MemDie → MemDie) :
    (s.modMem d f).getMem d = f (s.getMem d) := Sparse.get_set_same _ _ _ _

theorem State.getPart_modPart (s : State) (p j : Nat) (f : Part → Part) :
    (s.modPart p f).getPart j = if j = p then f (s.getPart p) else s.getPart j := Sparse.get_set _ _ _ _ _

@[simp] theorem State.getPart_modPart_same (s : State) (p : Nat) (f : Part → Part) :
    (s.modPart p f).getPart p = f (s.getPart p) := Sparse.get_set_same _ _ _ _

theorem State.getPort_modPort (s : State) (n j : Nat) (f : ExtPort → ExtPort) :
    (s.modPort n f).getPort j = if j = n then f (s.getPort n) else s.getPort j := by
  unfold State.getPort State.modPort
  by_cases h : j = n
  · subst h; rw [Sparse.get_set_same, if_pos rfl]; rfl
  · rw [Sparse.get_set_other _ _ _ _ _ h, if_neg h]

@[simp] theorem State.getEp_modEp_same (s : State) (c e : Nat) (f : Endpoint → Endpoint) :
    (s.modEp c e f).getEp c e = f (s.getEp c e) := by simp [State.getEp, State.modEp, Sparse.get_set_same]

theorem State.getEp_modEp (s : State) (c e c' e' : Nat) (f : Endpoint → Endpoint) :
    (s.modEp c e f).getEp c' e' = if c' = c ∧ e' = e then f (s.getEp c e) else s.getEp c' e' := by
  by_cases hc : c' = c
  · subst hc; by_cases he : e' = e
    · subst he; simp
    · simp [State.getEp, State.modEp, Sparse.get_set, he]
  · simp [State.getEp, State.modEp, State.getCore_modCore_other _ _ _ _ hc, hc]

@[simp] theorem State.getEp_modCtx (s : State) (c k c' e : Nat) (f : Ctx → Ctx) :
    (s.modCtx c k f).getEp c' e = s.getEp c' e := by
  unfold State.getEp
  by_cases hc : c' = c
  · subst hc; simp [Core.modCtx]
  · rw [State.getCore_modCtx_other _ _ _ _ _ hc]

@[simp] theorem State.getBar_modBar_same (s : State) (n : Nat) (f : Barrier → Barrier) :
    (s.modBar n f).getBar n = f (s.getBar n) := by simp [State.getBar, State.modBar, Sparse.get_set_same]

@[simp] theorem State.getPool_modPool_same (s : State) (p n : Nat) (f : Pool → Pool) :
    (s.modPool p n f).getPool p n = f (s.getPool p n) := by simp [State.getPool, State.modPool, Sparse.get_set_same]

@[simp] theorem State.getLaunch_modLaunch_same (s : State) (p i : Nat) (f : Launch → Launch) :
    (s.modLaunch p i f).getLaunch p i = f (s.getLaunch p i) := by
  simp [State.getLaunch, State.modLaunch, Sparse.get_set_same]

@[simp] theorem State.getGraph_modGraph_same (s : State) (p i : Nat) (f : Graph → Graph) :
    (s.modGraph p i f).getGraph p i = f (s.getGraph p i) := by
  simp [State.getGraph, State.modGraph, Sparse.get_set_same]

end Sys2Proof.Machine
end

