-- ==== Sys2Proof/Laws/Ops.lean ====
section
/-! SUPPORT. One law per shared operation of a context: what it can do. -/

namespace Sys2Proof.Machine

@[simp] theorem State.cx_started (s : State) (srcs : List SReg) :
    (s.started srcs).cx = { s.cx with popped := s.receives srcs } := State.cx_modCx _ _

@[simp] theorem State.me_started (s : State) (srcs : List SReg) :
    (s.started srcs).me = s.me.modCtx s.ctx fun x => { x with popped := s.receives srcs } := State.me_modCx _ _

@[simp] theorem State.started_core (s : State) (srcs : List SReg) : (s.started srcs).core = s.core := rfl
@[simp] theorem State.started_ctx (s : State) (srcs : List SReg) : (s.started srcs).ctx = s.ctx := rfl
@[simp] theorem State.started_part (s : State) (srcs : List SReg) : (s.started srcs).part = s.part := rfl
@[simp] theorem State.started_mine (s : State) (srcs : List SReg) : (s.started srcs).mine = s.mine := rfl
@[simp] theorem State.getPart_started (s : State) (srcs : List SReg) (p : Nat) :
    (s.started srcs).getPart p = s.getPart p := rfl

@[simp] theorem State.getEp_started (s : State) (srcs : List SReg) (c e : Nat) :
    (s.started srcs).getEp c e = s.getEp c e := State.getEp_modCtx _ _ _ _ _ _

@[simp] theorem State.rd_started (s : State) (srcs : List SReg) (r : SReg) : (s.started srcs).rd r = s.rd r := by
  unfold State.rd
  simp only [State.cx_started, State.getEp_started]
  rfl

@[simp] theorem State.rdC_started (s : State) (srcs : List SReg) (c : CReg) : (s.started srcs).rdC c = s.rdC c := by
  unfold State.rdC
  rw [State.cx_started]
  rfl

/-- An instruction whose sources are ready starts, and pops nothing yet. -/
theorem State.start_started (s : State) (srcs dests : List SReg) (k : State → State)
    (h : s.canStart srcs dests = true) : s.start srcs dests k = k (s.started srcs) := by
  simp only [State.canStart, Bool.and_eq_true, Bool.not_eq_true'] at h
  obtain ⟨h1, h2⟩ := h
  have e2 : srcs.find? s.starved = none := by
    rw [List.find?_eq_none]; intro x hx hs; simp [List.any_eq_false] at h2; exact absurd hs (by simp [h2 x hx])
  simp only [State.start, h1, e2]
  rfl

/-- Destinations that hold their grants delay nothing. -/
theorem State.granted_now (s : State) (dests : List SReg) (k : State → State) (h : dests.any s.ungranted = false) :
    s.granted dests k = k s := by
  have e : dests.find? s.ungranted = none := by
    rw [List.find?_eq_none]; intro x hx hs; simp [List.any_eq_false] at h; exact absurd hs (by simp [h x hx])
  simp only [State.granted, e]

@[simp] theorem State.granted_nil (s : State) (k : State → State) : s.granted [] k = k s := rfl

/-- What the start of an instruction can do: stall with nothing changed, wait for a word, or go on. -/
theorem State.start_cases (s : State) (srcs dests : List SReg) (k : State → State) :
    s.start srcs dests k = s ∨
    (∃ r ∈ srcs, s.starved r = true ∧ s.start srcs dests k = s.waitOn (.receive (s.cx.boundEp r.toNat)) none) ∨
    s.start srcs dests k = k (s.started srcs) := by
  unfold State.start
  split
  · exact .inl rfl
  · cases h2 : srcs.find? s.starved with
    | some r => exact .inr (.inl ⟨r, List.mem_of_find?_eq_some h2, List.find?_some h2, rfl⟩)
    | none => exact .inr (.inr rfl)

/-- What the wait for grants can do: wait for one, or go on. -/
theorem State.granted_cases (s : State) (dests : List SReg) (k : State → State) :
    (∃ r ∈ dests, s.ungranted r = true ∧ s.granted dests k = s.waitOn (.send (s.cx.boundEp r.toNat)) none) ∨
    s.granted dests k = k s := by
  unfold State.granted
  cases h : dests.find? s.ungranted with
  | some r => exact .inl ⟨r, List.mem_of_find?_eq_some h, List.find?_some h, rfl⟩
  | none => exact .inr rfl

/-- The start of an instruction leaves the grants of its destinations as they are. -/
@[simp] theorem State.ungranted_started (s : State) (srcs : List SReg) (r : SReg) :
    (s.started srcs).ungranted r = s.ungranted r := by
  unfold State.ungranted State.isBound Ctx.boundEp
  rw [State.cx_started, State.getEp_started]
  rfl

/-- An instruction whose registers are ready begins, and pops nothing yet. -/
theorem State.begin_started (s : State) (srcs dests : List SReg) (k : State → State)
    (h : s.canBegin srcs dests = true) : s.begin srcs dests k = k (s.started srcs) := by
  simp only [State.canBegin, Bool.and_eq_true, Bool.not_eq_true'] at h
  rw [State.begin, State.start_started _ _ _ _ h.1]
  apply State.granted_now
  simpa using h.2

/-- What the beginning of an instruction can do: stall with nothing changed, wait for a word or a grant, or go on. -/
theorem State.begin_cases (s : State) (srcs dests : List SReg) (k : State → State) :
    s.begin srcs dests k = s ∨
    (∃ r ∈ srcs, s.starved r = true ∧ s.begin srcs dests k = s.waitOn (.receive (s.cx.boundEp r.toNat)) none) ∨
    (∃ r ∈ dests, s.ungranted r = true ∧
      s.begin srcs dests k = (s.started srcs).waitOn (.send ((s.started srcs).cx.boundEp r.toNat)) none) ∨
    s.begin srcs dests k = k (s.started srcs) := by
  unfold State.begin
  rcases State.start_cases s srcs dests (fun s => s.granted dests k) with h | h | h
  · exact .inl h
  · exact .inr (.inl h)
  · rw [h]
    rcases State.granted_cases (s.started srcs) dests k with ⟨r, hr, hu, he⟩ | he
    · exact .inr (.inr (.inl ⟨r, hr, by simpa using hu, he⟩))
    · exact .inr (.inr (.inr he))

/-- An access that nothing delays is performed in the state that `accessNow` gives. -/
theorem State.gate_now (s t : State) (acc : Access) (va : Word) (n : Nat) (dests : List SReg) (rs : Runs)
    (k : State → Runs → State) (h : s.accessNow acc va n dests = some (t, rs)) : s.gate acc va n dests k = k t rs := by
  unfold State.accessNow at h
  unfold State.gate
  split at h
  · cases h
  · rename_i rs' s' he
    simp only [he]
    split at h
    · cases h
    · rename_i hn
      simp only [Bool.or_eq_true, not_or, Bool.not_eq_true] at hn
      rw [State.granted_now _ _ _ hn.1.1]
      simp only [hn.1.2, hn.2]
      split at h
      · split at h
        · dsimp only at h ⊢
          split at h
          · rename_i hw hc
            cases h
            simp only [hw, if_true, hc]
            rfl
          · cases h
        · rename_i hw
          obtain ⟨u, hu, hx⟩ := Option.map_eq_some_iff.mp h
          cases hx
          simp [hw, hu]
      · cases h; simp

/-- An access that a check of R212 refuses takes that fault. -/
theorem State.gate_fault (s : State) (acc : Access) (va : Word) (n : Nat) (f : AFault) (dests : List SReg)
    (k : State → Runs → State) (h : s.accessFault acc va n = some f) : s.gate acc va n dests k = s.takeFault f.code f.info f.addr := by
  unfold State.accessFault at h
  unfold State.gate
  split at h
  · rename_i f' he; cases h; simp only [he]
  · cases h

/-- A fence that waits for nothing goes on in the state that `fencedNow` gives. -/
theorem State.fenced_now (s t : State) (r w : Bool) (scope : Scope) (k : State → State)
    (h : s.fencedNow r w scope = some t) : s.fenced r w scope k = k t := by
  unfold State.fencedNow at h
  unfold State.fenced
  by_cases h1 : (r && !s.readsDone) = true
  · rw [if_pos h1] at h; cases h
  · rw [if_neg h1] at h ⊢
    cases w with
    | false =>
      simp only [Bool.false_eq_true, if_false, Option.some.injEq] at h ⊢
      rw [h]
    | true =>
      simp only [if_true] at h ⊢
      cases hu : s.writesDone scope with
      | none => rw [hu] at h; cases h
      | some u =>
        rw [hu] at h
        dsimp only at h ⊢
        split at h
        · cases h
        · rename_i h2; cases h; rw [if_neg h2]

end Sys2Proof.Machine
end

