-- ==== Sys2Proof/Tests/Slice0.lean ====
section
/-! SUPPORT. Tests of the model: ill-formed terms, words written out from the spec's encodings, single steps with results
from the spec, and for each obligation with hypotheses a witness that meets them. -/

open Sys2Proof Sys2Proof.Machine

set_option maxRecDepth 100000
set_option Elab.async false

namespace Sys2Proof.Tests

/-! ### States for the tests -/

/-- Registers of context 0 of core 0. -/
def regs (l : Sparse Word) : State := State.reset.modCtx 0 0 fun x => { x with regs := l }

/-- Changes core 0. -/
def core0 (f : Core → Core) : State := State.reset.modCore 0 f

/-- The page at 0x10000 is translated to itself for partition 0 on die 0, with every permission. -/
def mapped (s : State) : State :=
  s.modDie 0 fun d =>
    { d with tlb := [{ part := 0, va := 0x10000, log := 16, pa := 0x10000, level := 3, r := true, w := true, x := true }] }

/-- A page that leads to core 1's scratchpad, and one that leads to core 0's, beside it. -/
def mappedWin (s : State) : State :=
  s.modDie 0 fun d =>
    { d with tlb := [{ part := 0, va := 0x10000, log := 16, pa := winBase + 0x100000, level := 3, r := true, w := true, x := false },
                     { part := 0, va := 0x20000, log := 16, pa := winBase, level := 3, r := true, w := true, x := false }] }

/-- An entry of a queue of core 0. -/
def entryOf (i : Instr) (seq : BitVec 16) (a b c : Word) : QEntry :=
  { instr := i, words := [], seq := seq, ctx := 0, a := a, b := b, c := c, fmode := 0, journal := 0, unit := 0, sys := false }

/-- A dispatch-ring entry in flight. -/
def flying (i : Instr) (seq : BitVec 16) : DEntry :=
  { DEntry.reset with seq := seq, word := i.word, st := .inFlight }

/-- The head of core 0's vector queue is an instruction, numbered 0 and in flight. -/
def vec (i : Instr) (a b c : Word) : State :=
  core0 fun x => { x with vq := [entryOf i 0 a b c], seq := 1, dring := [(0, flying i 0)] }

/-- A ring of four slots of 1,024 bytes at the start of the scratchpad, with `n` of them filled. -/
def ringOf (n : BitVec 32) : Ring :=
  { base := 0, runs := [(0, 4096)], fill := n, drain := 0, valid := true, logSize := 10, logSlots := 2 }

/-- A unit of launch 3, generation 7. -/
def unit3 : UnitRec := { launch := some (3, 7), tag := 0, flagMask := 0, trap := false, stopped := false }

/-- Context 0 of core 0 binds s24 to endpoint 0, a declared live end of a channel to core 1's endpoint 5. -/
def bound (send : Bool) (grants : Nat) (msgs : List (List Word)) : State :=
  ((core0 fun c => { c with unit := some unit3 }).modCtx 0 0 fun x => { x with chbind := bindReg 0 0 0 }).modEp 0 0 fun _ =>
    { Endpoint.reset with declared := true, live := true, send := send, words := 1, slots := 2, peer := .core 1 5,
                          launch := 3, grants := grants, msgs := msgs }

/-! ### Witnesses: scalar instructions -/

/-- An integer instruction begins with plain registers, with a bound source that holds a word, and with a bound
destination that holds a grant; a shift immediate of 63 is the largest. -/
theorem witness_ArithmeticResult :
    State.reset.canBegin [1, 2] [3] = true ∧ State.reset.canBegin [1, 2, 3] [0] = true ∧
    State.reset.canBegin [1] [31] = true ∧ (bound false 0 [[7]]).canBegin [24, 1] [2] = true ∧
    (bound true 1 []).canBegin [1, 2] [24] = true ∧ (63 : Word).toNat ≤ 63 := by decide +kernel

/-- Both corners of R215 and the plain case are values of registers. -/
theorem witness_DivisionResult :
    let s := regs [(1, BitVec.intMin 64), (2, BitVec.allOnes 64), (3, 0)]
    s.canBegin [1, 2] [4] = true ∧ s.rd 1 = BitVec.intMin 64 ∧ s.rd 2 = BitVec.allOnes 64 ∧ s.canBegin [1, 3] [4] = true ∧
    s.rd 3 = 0 ∧ s.canBegin [2, 1] [4] = true := by decide +kernel

theorem witness_CompareAndBitResult :
    State.reset.canBegin [1, 2] [3] = true ∧ State.reset.canBegin [1, 2, 15] [0] = true ∧
    (regs [(1, 1)]).canBegin [1] [3] = true ∧ (regs [(1, 1)]).rd 1 ≠ 0 ∧ State.reset.rd 1 = 0 := by decide +kernel

theorem witness_ResultWrite :
    (State.reset.isBound 3 = false ∧ State.reset.cx.popped = []) ∧
    (let s := bound false 0 [[7]]
     s.isBound 24 = true ∧ s.cx.popped = [] ∧ (s.getEp 0 (s.cx.boundEp 24)).send = false ∧ s.canBegin [24, 24] [2] = true ∧
     s.isBound 2 = false ∧ s.receives [24, 24] = [0]) ∧
    (let s := bound true 1 []
     s.isBound 24 = true ∧ s.cx.popped = [] ∧ (s.getEp 0 (s.cx.boundEp 24)).send = true ∧
     (s.getEp 0 (s.cx.boundEp 24)).peer = .core 1 5 ∧ ((1, 5) : Nat × Nat) ≠ (s.core, s.cx.boundEp 24)) := by decide +kernel

/-- The largest number of a format is below its infinity; a number that is no NaN. -/
theorem witness_ScalarFloat :
    State.reset.canBegin [1, 2] [3] = true ∧ State.reset.canBegin [1] [3] = true ∧
    State.reset.canBegin [1, 2, 3] [4] = true ∧ fp32.infMag - 1 < fp32.infMag ∧ (0 : Nat) < bf16.infMag ∧
    (fctl 0).fz = false ∧ (fp64.num false 0).isNan = false := by decide +kernel

/-- A context's store may reach just below the windows; a store waits in core 0's buffer and may leave it. -/
theorem witness_StoreVisibility :
    inWindow 0x10000 = false ∧ inWindow (winBase - 1) = false ∧
    (let s := core0 fun c => { c with sb := [{ ctx := 0, pa := 31, bytes := [1, 2] }] }
     (s.getCore 0).sb = [{ ctx := 0, pa := 31, bytes := [1, 2] }] ∧ s.mayDrain 0 = true) := by decide +kernel

theorem witness_TransferAndNullify :
    State.reset.cx.popped = [] ∧ (State.reset.modCtx 0 0 fun x => { x with nul0 := true }).cx.nul0 = true := by decide +kernel

/-- Accesses that nothing delays, to the first and the last place of a page and to both windows; one that no page maps. -/
theorem witness_MemoryAccess :
    (mapped State.reset).canBegin [1] [2] = true ∧ (mapped State.reset).canBegin [2, 1] [] = true ∧
    ((mapped State.reset).accessNow .read 0x10000 8 [2]).isSome = true ∧
    ((mapped State.reset).accessNow .read 0x1FFFF 1 [2]).isSome = true ∧
    ((mapped State.reset).accessNow .write 0x1FFF8 8 []).isSome = true ∧
    ((mappedWin State.reset).accessNow .read 0x20000 8 [2]).isSome = true ∧
    ((mappedWin State.reset).accessNow .write 0x10000 8 []).isSome = true ∧
    ((mapped State.reset).accessFault .read 0x20000 8).isSome = true ∧
    ((mapped State.reset).accessFault .write 0x1FFFF 8).isSome = true ∧
    ((((mapped State.reset).modCtx 0 0 fun x => { x with pc := 0x10004 }).started []).accessNow .read
      ((0x10004 &&& ~~~7) + 1 * 8) 8 [2]).isSome = true ∧
    (mapped State.reset).canStart [1] [2] = true ∧ (bound true 0 []).canStart [1] [24] = true := by decide +kernel

theorem witness_AcquireReleaseResult :
    let s := mapped (regs [(1, 0x10000), (2, 0x10001), (4, 0x20000)])
    ((s.started [4]).accessFault .read 0x20000 8).isSome = true ∧ ((s.started [3, 4]).accessFault .write 0x20000 8).isSome = true ∧
    s.canStart [4] [3] = true ∧ s.canBegin [3, 4] [] = true ∧ (0x20000 : Word).toNat % 8 = 0 ∧
    s.safe = true ∧ inWindow 0x10000 = false ∧ ([1, 2, 3, 4, 5, 6, 7, 8] : List Byte).length ≤ 64 ∧
    (∀ l ∈ linesOf 0x10000 8, l ∈ (s.getCore s.core).l1 ∨ ((s.getCore s.core).l1.filter fun x => x % 2048 == l % 2048).length < 12) ∧
    s.canBegin [1] [3] = true ∧ s.canBegin [3, 1] [] = true ∧ s.canBegin [3, 2] [] = true ∧ s.canStart [2] [3] = true ∧
    (s.rd 2 + 0 * BitVec.ofNat 64 (2 ^ (3 : BitVec 2).toNat)).toNat % 2 ^ (3 : BitVec 2).toNat ≠ 0 ∧
    (s.rd 1 + 0 * BitVec.ofNat 64 (2 ^ (3 : BitVec 2).toNat)).toNat % 2 ^ (3 : BitVec 2).toNat = 0 ∧
    Scope.wide .c = false ∧ Scope.wide .v = true ∧ (s.started [1]).readsDone = true ∧
    (((s.started [1]).accessNow .read 0x10000 8 [3]).any fun x => x.1.readsDone && x.1.drainable x.1.core x.1.ctx) = true ∧
    (((s.started [3, 1]).accessNow .write 0x10000 8 []).any fun x =>
      (x.2.all fun r => !inWindow r.1) && (x.1.fencedNow false true .d).isSome && (x.1.fencedNow true true .v).isSome) = true ∧
    (let w := mappedWin (regs [(1, 0x10000)])
     (((w.started [3, 1]).accessNow .write 0x10000 8 []).any fun x =>
       (x.2.any fun r => inWindow r.1) && (x.1.fencedNow false true .c).isSome) = true) := by decide +kernel

/-- Both outcomes of a condition, and an odd target. -/
theorem witness_BranchResult :
    let s := regs [(1, BitVec.allOnes 64)]
    s.canBegin [1] [] = true ∧ s.canBegin [1, 2] [] = true ∧ s.rd 2 = 0 ∧ s.rd 1 ≠ 0 ∧ (s.rd 1).toInt < 0 ∧
    ¬ (s.rd 1).toNat < (s.rd 2).toNat ∧ (s.rd 2).toNat < (s.rd 1).toNat := by decide +kernel

theorem witness_JumpResult :
    let s := regs [(2, 3)]
    s.canBegin [] [] = true ∧ s.canBegin [] [1] = true ∧ s.canBegin [2] [1] = true ∧ s.canBegin [3] [] = true ∧
    (s.rd 2 + 2 * 0).toNat % 2 = 1 ∧ (s.rd 3 + 2 * 0).toNat % 2 ≠ 1 := by decide +kernel

/-- An aligned word in memory and one in a window, each ready in the scopes of the two clauses, and a misaligned one. -/
theorem witness_Atomics :
    let s := mapped (regs [(1, 0x10000), (2, 0x10004)])
    let w := mappedWin (regs [(1, 0x10000)])
    s.canBegin [1, 3] [4] = true ∧ s.canBegin [1, 3, 5] [4] = true ∧ (s.rd 2).toNat % 8 ≠ 0 ∧ (s.rd 1).toNat % 8 = 0 ∧
    (((s.started [1, 3]).accessNow .atomic 0x10000 8 [4]).any fun x =>
      (match x.2 with | (pa, _) :: _ => !inWindow pa | [] => false) && (x.1.fencedNow true true .d).isSome &&
      (x.1.fencedNow true true .v).isSome) = true ∧
    (((w.started [1, 3]).accessNow .atomic 0x10000 8 [4]).any fun x =>
      match x.2 with
      | (pa, _) :: _ => inWindow pa && ((x.1.fencedNow true true .c).any fun u => u.portReady pa fun o => o)
      | [] => false) = true ∧
    (0x10000 : Nat) % 8 = 0 ∧ s.safe = true ∧
    (∀ off ∈ [0, 0x3FFF8, 0x45000 + 256 * 10 + 8 * 31, 0x48000, 0x48FF8, 0x49000, 0x49010, 0x49018],
      inWindow (winBase + off) = true ∧ (winBase + off) % 8 = 0 ∧ winOff (winBase + off) = off ∧ winCore (winBase + off) = 0) ∧
    Memory.wf ((s.reach 0 0).getCore 0).scratch = true ∧ Memory.wf ((s.reach 0 0).getCore 0).port.inbox = true ∧
    (((bound true 1 []).reach 0 0).getCtx 0 0).bound 24 = true ∧ (10 < 11 ∧ 31 < 32) := by decide +kernel

theorem witness_FenceResult :
    ((State.reset.started []).fencedNow (decide (FenceClass.rw ≠ .w)) (decide (FenceClass.rw ≠ .r)) .y).isSome = true ∧
    ((State.reset.started []).fencedNow (decide (FenceClass.w ≠ .w)) (decide (FenceClass.w ≠ .r)) .c).isSome = true := by
  decide +kernel

/-- A range of length 0, one that is mapped and one that is not; a maintenance operation under way; a die that holds a
dirty line. -/
theorem witness_CacheMaintenance :
    let s := mapped (regs [(1, 0x10000), (2, 0x20000)])
    s.canBegin [1, 3] [] = true ∧ (s.rd 3 + 0).toNat = 0 ∧ (s.rd 3 + 64).toNat ≠ 0 ∧
    (match (s.started [1, 3]).cmoRange .read (s.rd 1) 64 with | .ok _ => true | .error _ => false) = true ∧
    (match (s.started [2, 3]).cmoRange .write (s.rd 2) 64 with | .ok _ => false | .error _ => true) = true ∧
    (let j : CmoJob := { ctx := 0, kind := .clean, level := .llc, ranges := [(0x10000, 64)], mark := 0, seq := 1 }
     let c := core0 fun c => { c with cmos := [j] }
     (c.getCore 0).cmos = j :: [] ∧ c.cmoReady 0 j = true) ∧
    (let d := State.reset.storeByte 0 0x10001 5
     d.safe = true ∧ d.storesOk = true ∧ (d.copyOf 0 (0x10001 / 32)).isSome = true ∧ Memory.wf d.mem = true ∧ d.copiesOk = true) := by
  decide +kernel

/-! ### Witnesses: channels, control registers, traps -/

/-- A busy endpoint, one that is not declared, one to bind, a send endpoint of one word and one of two; a message of one
word to send with its grant, and the operands that chsend refuses. -/
theorem witness_Channels :
    let s := (bound true 1 []).modCtx 0 1 fun x => { x with chbind := bindReg 0 7 0 }
    (s.getCtx s.core 1).binds (0 : BitVec 6).toNat = true ∧ (1 : Nat) ≠ s.ctx ∧
    (s.declaredEp (63 : BitVec 6).toNat = false ∧ ∀ k < 11, k ≠ s.ctx → (s.getCtx s.core k).binds 63 = false) ∧
    (let t := bound false 0 []
     t.declaredEp 0 = true ∧ (t.getEp t.core 0).send = false ∧ ∀ k < 11, k ≠ t.ctx → (t.getCtx t.core k).binds 0 = false) ∧
    (let m := (mapped (bound true 1 [])).modCtx 0 0 fun x => { x with regs := [(1, 0), (2, 0x10008), (3, 64), (5, 4), (6, 0x20000)] }
     m.canBegin [1, 2] [] = true ∧ m.declaredEp (m.rd 1).toNat = true ∧ ¬ 63 < (m.rd 1).toNat ∧
     (m.getEp m.core (m.rd 1).toNat).send = true ∧ (m.rd 2).toNat % 8 = 0 ∧ (m.getEp m.core (m.rd 1).toNat).grants ≠ 0 ∧
     (match (m.started [1, 2]).access m.core .read (m.rd 2) (8 * (m.getEp m.core 0).words) with
      | .ok (_, v) => v.linkUp (m.getEp m.core 0) && (v.accessNow .read (m.rd 2) (8 * (m.getEp m.core 0).words) []).isSome &&
          v.drainable v.core v.ctx && ((v.drainCtx v.core v.ctx).accessNow .read (m.rd 2) 8 []).isSome
      | .error _ => false) = true ∧
     63 < (m.rd 3).toNat ∧ (m.rd 5).toNat % 8 ≠ 0 ∧ (m.rd 6).toNat % 8 = 0 ∧
     ((m.started [1, 6]).accessFault .read (m.rd 6) 8).isSome = true ∧ m.canBegin [1, 5] [] = true ∧
     m.canBegin [1, 6] [] = true ∧ m.canBegin [3, 2] [] = true) ∧
    (let e := bound false 0 []
     e.declaredEp 0 = true ∧ (e.getEp e.core 0).send = false ∧ (e.rd 1).toNat = 0) := by decide +kernel

/-- The numbers 0 to 12; values of FMODE, FSTAT, SHARE, XNUL and POOLBOUND at the edges of what each takes. -/
theorem witness_ControlRegisters :
    (bound true 1 []).isBound 24 = true ∧ State.reset.isBound 3 = false ∧ State.reset.canBegin [] [3] = true ∧
    (∀ n < 12, n ≠ 4 → (Claims.controlRegister State.reset n).isSome = true) ∧ 11 < (12 : Word).toNat ∧
    State.reset.canBegin [1] [] = true ∧
    (let s := regs [(1, 64), (2, 1 <<< 62), (3, 16 <<< 56), (4, (15 <<< 56) + (1 <<< 63) + (64 <<< 32) + 1), (5, (64 <<< 32) + 16),
        (6, (63 <<< 32) + 1), (7, (64 <<< 32))]
     let x (r : SReg) := (s.rd r).toNat
     (bits (x 2) 62 62 ≠ 0 ∧ s.canBegin [2] [] = true) ∧
     (bits (x 3) 62 62 = 0 ∧ bits (x 3) 55 48 = 0 ∧ 16 * s.k ≤ s.poolsPer ∧ bits (x 3) 61 56 = 16) ∧
     (bits (x 4) 63 63 = 1 ∧ bits (x 4) 61 56 = 15 ∧ 15 < s.poolsPer ∧ bits (x 4) 15 0 = 1 ∧ bits (x 4) 47 32 = 64) ∧
     (bits (x 5) 15 0 = 16 ∧ s.k ≤ 16) ∧ bits (x 6) 47 32 < 64 ∧ bits (x 7) 15 0 = 0) ∧
    (let t := { State.reset with cut := 4 }
     t.poolsPer ≤ bits ((16 : Word) <<< 56).toNat 61 56) := by decide +kernel

/-- Partition 0's trap records lie at 0x10000. -/
def trapping (s : State) : State :=
  mapped (s.modPart 0 fun p => { p with desc := { p.desc with trb := 0x10000, tvb := 0x8000 } })

theorem witness_Traps :
    (let s := trapping State.reset
     (match ((s.leaveWait s.core s.ctx).modCx Ctx.saveChain).recordAccess with
      | .ok (rs, _) => rs.all fun r => !inWindow r.1
      | .error _ => false) = true ∧ s.cx.fresh = true ∧ preciseCode 0x0005 = true ∧ (s.started []).recordOwned = false ∧ s.cx.mode = .ready ∧
     (s.modCx fun x => { x with popped := [] }).recordOwned = false) ∧
    (let s := trapping (State.reset.modCtx 0 0 fun x => { x with fresh := false, tl := true })
     (match ((s.leaveWait s.core s.ctx).modCx Ctx.saveChain).recordAccess with | .ok _ => true | .error _ => false) = true ∧
     s.cx.fresh = false ∧ s.cx.tl = true) ∧
    (let l : LatePend := { seq := 3, code := 0x0029, info := 0, faddr := 0, addr := 0x40, queue := some true }
     let m : LatePend := { seq := 5, code := 0x0040, info := 0, faddr := 0, addr := 0x44, queue := none }
     let s := trapping (core0 fun c => { c with late := [m, l], seq := 6 })
     l ∈ (s.getCore 0).late ∧
     (∀ x ∈ (s.getCore 0).late, x ≠ l → ((s.getCore 0).seq - x.seq).toNat < ((s.getCore 0).seq - l.seq).toNat) ∧
     (s.getCore 0).deliverable = true ∧ (s.on 0 0).recordOwned = false) ∧
    (let s := trapping (State.reset.modCtx 0 0 fun x => { x with timerPend := true })
     (s.getCtx 0 0).timerPend = true ∧ (s.getCore 0).deliverable = true ∧ (s.getCore 0).late = [] ∧
     (s.getCtx 0 0).inBarrier = false ∧ (s.on 0 0).recordOwned = false) ∧
    (let x (pc npc nn : Word) (nul : BitVec 5) (sl : Bool) : Ctx :=
       (State.reset.modCtx 0 0 fun x => { x with xpc := pc, xnpc := npc, xnnpc := nn, xnul := nul, sl0 := sl }).cx
     (x 0 0 0 0 true).sl0 = true ∧ (x 1 0 0 0 false).xpc.toNat % 2 = 1 ∧ 16 ≤ (x 2 1 1 16 false).xnul.toNat ∧
     ¬ 16 ≤ (x 2 1 0 15 false).xnul.toNat ∧ (x 2 1 0 15 false).xnpc.toNat % 2 = 1 ∧
     (x 2 4 1 15 false).xnnpc.toNat % 2 = 1 ∧ (x 2 4 6 15 false).xnnpc.toNat % 2 ≠ 1) := by decide +kernel

/-! ### Witnesses: helpers, barriers, units, cancels -/

/-- Context 1 of core 0 acts. -/
def helper (f : Ctx → Ctx) : State := (State.reset.modCtx 0 1 fun x => f { x with mode := .ready }).on 0 1

theorem witness_Helpers :
    (Claims.controlOnly .gdone ∧ (helper id).ctx ≠ 0) ∧
    (let s := State.reset
     s.ctx = 0 ∧ s.isBound 2 = false ∧ s.canBegin [1] [2] = true ∧ (s.getCtx s.core 1).mode = .free) ∧
    (let s := (List.range 10).foldl (fun s i => s.modCtx 0 (i + 1) fun x => { x with mode := .ready }) State.reset
     (∀ h, 1 ≤ h → h ≤ 10 → (s.getCtx s.core h).mode ≠ .free) ∧ s.canBegin [1] [2] = true) ∧
    (let s := (List.range 9).foldl (fun s i => s.modCtx 0 (i + 1) fun x => { x with mode := .ready }) State.reset
     (s.getCtx s.core 10).mode = .free ∧ ∀ j, 1 ≤ j → j < 10 → (s.getCtx s.core j).mode ≠ .free) ∧
    ((helper id).cx.sl0 = false ∧ (helper fun x => { x with sl0 := true }).cx.sl0 = true) ∧
    (let s := State.reset.modCtx 0 10 fun x => { x with mode := .ready }
     s.canBegin [1] [] = true ∧ 1023 < (1024 : Word).toNat ∧ (1023 : Word).toNat ≤ 1023 ∧
     ((s.rd 1 ||| 1023).setWidth 10 : BitVec 10).getLsbD 9 = true ∧ (s.getCtx s.core (9 + 1)).mode ≠ .free ∧
     ((s.rd 1 ||| 511).setWidth 10 : BitVec 10).getLsbD 9 = false) := by
  refine ⟨⟨trivial, by decide +kernel⟩, by decide +kernel, ⟨?_, by decide +kernel⟩, ⟨by decide +kernel, ?_⟩, by decide +kernel, by decide +kernel⟩
  · intro h h1 h2
    have : ∀ h < 11, 1 ≤ h → ¬ (((List.range 10).foldl (fun s i => s.modCtx 0 (i + 1) fun x => { x with mode := .ready })
      State.reset).getCtx 0 h).mode = .free := by decide +kernel
    exact this h (by omega) h1
  · intro h h1 h2
    have : ∀ h < 10, 1 ≤ h → ¬ (((List.range 9).foldl (fun s i => s.modCtx 0 (i + 1) fun x => { x with mode := .ready })
      State.reset).getCtx 0 h).mode = .free := by decide +kernel
    exact this h h2 h1

/-- Barrier 0 with a count, and barrier 0 with core 1's arrival. -/
def barred (count : Nat) (arrivals : List Arrival) : State :=
  (regs [(1, 1), (2, 512), (3, 513)]).modBar 0 fun _ => { count := count, op := .max, gen := 0, arrivals := arrivals }

/-- Core 1's arrival. -/
def arrival1 : Arrival := { core := 1, ctx := 0, flags := 3, vote := 5 }

theorem witness_Barriers :
    (let s := barred 0 []
     s.ctx = 0 ∧ s.canBegin [1] [] = true ∧ 32 * s.k ≤ (127 : BitVec 7).toNat + 1 ∧ (s.rd 4).toNat = 0 ∧ 512 < (s.rd 3).toNat ∧
     (0 : BitVec 7).toNat < 32 * s.k ∧ 1 ≤ (s.rd 1).toNat ∧ (s.rd 2).toNat ≤ 512 ∧
     (s.getBar (32 * lowDie s.cut s.part + 0)).arrivals = [] ∧ (s.getBar (32 * lowDie s.cut s.part + 0)).count = 0) ∧
    ({ State.reset with cut := 4 }).k * 32 ≤ (32 : BitVec 7).toNat ∧
    (barred 2 [arrival1]).getBar (32 * lowDie 1 0 + 0) ≠ (barred 2 []).getBar 0 ∧
    ((barred 2 [arrival1]).getBar 0).arrivals ≠ [] ∧
    (let s := (barred 2 []).modCtx 0 0 fun x => { x with barResult := some { bar := 0, flags := 1, vote := 2 } }
     s.ctx = 0 ∧ [(5 : SReg), 6].any s.isBound = false ∧ s.canBegin [7] [5, 6] = true ∧ s.canBegin [] [5] = true ∧
     s.cx.barDone = none ∧ s.cx.barResult = some { bar := 0, flags := 1, vote := 2 } ∧
     32 * lowDie s.cut s.part + (0 : BitVec 7).toNat = 0) ∧
    (let s := (barred 2 []).modCtx 0 0 fun x => { x with barDone := some { bar := 0, flags := 1, vote := 2 } }
     s.ctx = 0 ∧ s.canBegin [7] [5, 6] = true ∧ s.cx.barDone = some { bar := 0, flags := 1, vote := 2 }) ∧
    (let s := (barred 2 [arrival1]).modCtx 0 0 fun x => { x with barResult := some { bar := 31, flags := 1, vote := 2 } }
     let n := 32 * lowDie s.cut s.part + (0 : BitVec 7).toNat
     let w := (s.started []).modCx fun x => { x with barResult := none }
     s.cx.barDone = none ∧ s.cx.barResult = some { bar := 31, flags := 1, vote := 2 } ∧ (31 : Nat) ≠ n ∧ (31 : Nat) ≠ 128 ∧
     (s.getBar n).count ≠ 0 ∧ (∀ x ∈ (s.getBar n).arrivals, ¬ (x.core = s.core ∧ x.ctx = 0)) ∧
     w.flagsFinal = true ∧ (w.fencedNow true true .v).isSome = true) ∧
    (let s := (barred 2 [arrival1]).modCtx 1 0 fun x =>
       { x with mode := .waiting, wait := some { obj := .barrier 0, seq := none } }
     arrival1 ∈ (s.getBar 0).arrivals ∧ ¬ (arrival1.core = s.core ∧ arrival1.ctx = s.ctx) ∧
     ((s.getCtx 1 0).wait.any fun w => w.obj == .barrier 0) = true ∧ (s.getCtx 1 0).mode = .waiting ∧
     ((s.getCtx 2 0).wait.any fun w => w.obj == .barrier 0) = false) := by decide +kernel

/-- An empty inbox and one with a record; every pool number of the partition is in range. -/
theorem witness_InboxInstructions :
    (let s := core0 fun c => { c with port := { c.port with tail := 1 } }
     s.ctx = 0 ∧ s.isBound 2 = false ∧ s.canBegin [] [2] = true ∧ s.canBegin [1] [2] = true ∧
     s.me.port.head.toNat < s.me.port.tail.toNat ∧ bits (s.rd 1).toNat 5 0 < s.poolsPer) ∧
    (let s := State.reset
     s.me.port.tail.toNat ≤ s.me.port.head.toNat ∧ (s.getPool s.part 0).present = [] ∧ s.cx.woken = false) ∧
    (State.reset.modCtx 0 0 fun x => { x with woken := true }).cx.woken = true ∧
    (let s := State.reset.modPool 0 0 fun p => p.put 1 0 0 5 6 0 0
     (s.getPool s.part 0).present ≠ [] ∧ s.canBegin [1] [2] = true) ∧
    (let s := { regs [(1, 16)] with cut := 4 }
     s.poolsPer ≤ bits (s.rd 1).toNat 5 0 ∧ s.canBegin [1] [2] = true) := by decide +kernel

theorem witness_UnitDone :
    (State.reset.ctx = 0 ∧ State.reset.me.unit = none) ∧
    (let s := core0 fun c => { c with unit := some unit3 }
     s.ctx = 0 ∧ s.me.unit = some unit3 ∧ (∀ h < 11, 1 ≤ h → (s.getCtx s.core h).mode = .free) ∧ s.me.late = []) ∧
    (let l : LatePend := { seq := 3, code := 0x0029, info := 0, faddr := 0, addr := 0x40, queue := none }
     let s := (core0 fun c => { c with unit := some unit3, late := [l] }).modLaunch 0 3 fun x => { x with gen := 7 }
     s.me.unit = some unit3 ∧ s.me.late ≠ [] ∧ unit3.launch = some (3, 7) ∧ (s.getLaunch s.part 3).gen = 7 ∧
     ({ unit3 with launch := none } : UnitRec).launch = none) ∧
    (let s := (core0 fun c => { c with unit := some unit3 }).modCtx 0 10 fun x => { x with mode := .waiting }
     s.me.unit = some unit3 ∧ (s.getCtx s.core 10).mode ≠ .free) := by decide +kernel

theorem witness_Cancels :
    ((State.reset.getCore 511).halted = false ∧ (State.reset.getCore 511).unit = none) ∧
    (let s := core0 fun c => { c with unit := some unit3 }
     (s.getCore 0).halted = false ∧ (s.getCore 0).unit = some unit3) ∧
    (let s := core0 fun c => { c with unit := some unit3, halted := true }
     (s.getCore 0).halted = true ∧ (s.getCore 0).unit.isSome = true) ∧
    (let s := regs [(1, 511), (2, 512), (3, 4095), (4, 4096), (5, 251), (6, 252)]
     s.ctx = 0 ∧ s.canBegin [1] [] = true ∧ (s.rd 1).toNat < 512 ∧ s.partOf (s.rd 1).toNat = s.part ∧ ¬ (s.rd 2).toNat < 512 ∧
     (s.rd 3).toNat ≤ 4095 ∧ ¬ (s.rd 4).toNat ≤ 4095 ∧ (s.rd 5).toNat < s.phaseCountOf s.part ∧
     ¬ (s.rd 6).toNat < s.phaseCountOf s.part) := by decide +kernel

/-- A slot without a graph, one whose graph is armed, and the last launch record and argument word. -/
theorem witness_ArmAndPatch :
    (let s := regs [(1, 4095), (2, 4096), (3, 15), (4, 16)]
     s.ctx = 0 ∧ s.isBound 5 = false ∧ s.canBegin [1] [5] = true ∧ s.canBegin [2] [5] = true ∧ 4095 < (s.rd 2).toNat ∧
     s.loaded s.part (s.rd 1).toNat = false ∧ s.canBegin [1, 3, 5] [] = true ∧ (s.rd 1).toNat ≤ 4095 ∧
     (s.rd 3).toNat ≤ 15 ∧ 15 < (s.rd 4).toNat) ∧
    (let s := (regs [(1, 4095)]).modGraph 0 4095 fun g => { g with n := 1, nodes := [(0, { g.node 0 with state := .running })] }
     s.canBegin [1] [5] = true ∧ s.loaded s.part (s.rd 1).toNat = true ∧
     (let g := s.getGraph s.part (s.rd 1).toNat
      0 < g.n ∧ (g.node 0).final = false ∧ (g.node 0).state ≠ .idle)) := by decide +kernel

/-! ### Witnesses: launches, graphs, pools -/

/-- Launch 3 of partition 0. -/
def launched (f : Launch → Launch) : State := State.reset.modLaunch 0 3 f

/-- Core 0 has a delivery of launch 3 at a stage. -/
def delivering (stage : Nat) (k : Word) (tail : Word) : State :=
  (State.reset.modPart 0 fun p => { p with held := [{ idx := 3, core := 0, stage := stage, k := k, bytes := Launch.reset.task }] }).modCore
    0 fun c => { c with port := { c.port with tail := tail } }

theorem witness_LaunchEvents :
    (State.reset.getLaunch 0 3).held = false ∧
    (let s := launched fun l => { l with held := true, mask := 1 }
     (s.getLaunch 0 3).held = true ∧ s.armReady 0 (s.getLaunch 0 3) = true) ∧
    (let d : BitVec 64 := 0x200                    -- core 0's endpoint 0 to core 0's endpoint 1
     let s := (launched fun l => { l with held := true, mask := 1, chans := [d] }).modEp 0 0 fun e => { e with declared := true }
     (s.getLaunch 0 3).held = true ∧ s.armReady 0 (s.getLaunch 0 3) = false) ∧
    (let s := delivering 0 0 0
     s.deliver 0 = none ∧ (s.nextReserve 0).isSome = true ∧ s.replayAdmits 0 1 3 20 0 0x49010 = true ∧
     (s.getCore 0).job = (s.getPart (s.partOf 0)).jobs) ∧
    (let s := delivering 1 63 0
     (∃ d, s.nextDelivery 0 = some d ∧ d.stage = 1 ∧ d.k.toNat < (s.getCore 0).port.head.toNat + 64 ∧
       s.admits (frontPiece 0 (0x48000 + 64 * (d.k.toNat % 64)) d.bytes) = true)) ∧
    (∃ d, (delivering 1 64 0).nextDelivery 0 = some d ∧ d.stage = 1 ∧ 0 + 64 ≤ d.k.toNat ∧
       (delivering 1 64 0).nextReserve 0 = none) ∧
    (let s := delivering 2 5 5
     ∃ d, s.nextDelivery 0 = some d ∧ d.stage = 2 ∧ (s.getCore 0).port.tail = d.k ∧
       s.admits (frontPiece 0 0x49000 (bytesOf 8 (d.k + 1).toNat)) = true) ∧
    ((State.reset.getLaunch 0 3).armed = false ∧
     let s := launched fun l => { l with armed := true, bound := true }
     (s.getLaunch 0 3).armed = true ∧ s.drained? 0 3 (s.getLaunch 0 3).gen = true ∧ (s.getLaunch 0 3).bound = true ∧
     (s.getLaunch 0 3).stopped = false) ∧
    (let s := launched fun l => { l with armed := true, bound := true, stopped := true }
     s.drained? 0 3 (s.getLaunch 0 3).gen = true ∧ (s.getLaunch 0 3).stopped = true) ∧
    (∀ st ∈ [0, 1, 2], (delivering st 5 5).markHeld 0 = none) ∧
    (let s := (delivering 3 0 1).modCore 0 fun c => { c with port := { c.port with marks := 1 } }
     (((s.getPart 0).held.find? fun d => d.core == 0 && d.stage == 3).any fun d =>
       (s.getCore 0).slotOf (BitVec.ofNat 64 (natOf ((d.bytes.drop 8).take 8))) == some 0) = true ∧
     s.admits (s.markPiece 0 0) = true) := by
  refine ⟨by decide +kernel, by decide +kernel, ?_, ?_, ⟨_, rfl, rfl, ?_, ?_⟩, ⟨_, rfl, rfl, ?_, ?_⟩, ⟨_, rfl, rfl, ?_, ?_⟩, ?_, ?_, ?_, ?_⟩
  all_goals decide +kernel

/-- Graph 0 of partition 0, of two nodes, 0 before 1, with the engine's backlog. -/
def graphed (st0 st1 : NodeState) (f : Graph → Graph) (backlog : List GraphEvent) : State :=
  (State.reset.modGraph 0 0 fun g =>
    f { g with n := 2, nodes := [(0, { Node.reset with state := st0, succs := [1] }),
                                 (1, { Node.reset with state := st1, preds := [0], pending := 1 })] }).modPart 0 fun p =>
    { p with backlog := backlog }

theorem witness_GraphEvents :
    (let s := graphed .running .armed id [.token 0 1]
     (s.takeEvent 0 (.token 0 1)).any (fun u => ((u.getGraph 0 0).node 1).state == .armed) = true ∧
     s.takeEvent 0 (.token 0 0) = none ∧ s.takeEvent 0 (.provisional 0) = none ∧ s.takeEvent 0 (.confirm 0) = none ∧
     s.takeEvent 0 (.fault 0 7) = none) ∧
    (let s := graphed .running .confirmed id [.token 0 1]
     (s.takeEvent 0 (.token 0 1)).any (fun u => ((u.getGraph 0 0).node 1).state != .armed) = true) ∧
    (let s := graphed .running .armed id [.provisional 0]
     (s.takeEvent 0 (.provisional 0)).any (fun u =>
       (u.current 0 0).any fun n => n.2.2.state == .running && (u.getPart 0).backlog.length + n.2.2.succs.length ≤ tokenRoom) = true) ∧
    (let s := graphed .cancelled .armed id [.provisional 0]
     (s.takeEvent 0 (.provisional 0)).any (fun u => (u.current 0 0).any fun n => n.2.2.state != .running) = true) ∧
    (let old : Word := 1 <<< 32
     let s := graphed .running .armed id [.provisional old]
     (s.takeEvent 0 (.provisional old)).any (fun u => u.current 0 old == none) = true) ∧
    (let s := graphed .doneProvisional .armed id [.confirm 0]
     (s.takeEvent 0 (.confirm 0)).any (fun u => (u.current 0 0).isSome) = true) ∧
    (let s := graphed .running .armed id [.confirm (1 <<< 32)]
     (s.takeEvent 0 (.confirm (1 <<< 32))).any (fun u => u.current 0 (1 <<< 32) == none) = true) ∧
    (let s := graphed .running .armed id [.fault (1 <<< 32) 7]
     (s.takeEvent 0 (.fault (1 <<< 32) 7)).any (fun u => u.current 0 (1 <<< 32) == none) = true) ∧
    (let s := graphed .running .armed id [.fault 0 7]
     (s.takeEvent 0 (.fault 0 7)).any (fun u => (u.current 0 0).any (fun n => n.2.2.state == .running) && (u.getGraph 0 0).phase == .idle &&
       (u.getGraph 0 0).merge == [] && !u.faultNext 0 0) = true) ∧
    (let s := graphed .running .armed id [.fault 0 7, .fault 1 7]
     (s.takeEvent 0 (.fault 0 7)).any (fun u => (u.current 0 0).isSome && (u.getGraph 0 0).phase == .idle && u.faultNext 0 0) = true) ∧
    (let s := graphed .running .faulted (fun g => { g with merge := [(1, 0, 7)] }) [.fault 0 7]
     (s.takeEvent 0 (.fault 0 7)).any (fun u => (u.current 0 0).isSome && (u.getGraph 0 0).phase == .idle &&
       !u.faultNext 0 0) = true ∧ (s.getGraph 0 0).merge.length < 16 ∧
     ((s.getGraph 0 0).merge.filter fun m => ((s.getGraph 0 0).node m.1).gen == m.2.1 &&
       ((s.getGraph 0 0).node m.1).state == .faulted) ≠ []) ∧
    (let s := graphed .running .armed (fun g => { g with merge := List.replicate 16 (1, 0, 0) }) [.fault 0 7]
     (s.takeEvent 0 (.fault 0 7)).any (fun u => (u.current 0 0).isSome && (u.getGraph 0 0).phase == .idle &&
       16 ≤ (u.getGraph 0 0).merge.length) = true) ∧
    (let s := graphed .faulted .armed id [.fault 0 7]
     (s.takeEvent 0 (.fault 0 7)).any (fun u => (u.current 0 0).any fun n => n.2.2.state == .faulted) = true) ∧
    (let s := graphed .running .armed (fun g => { g with phase := .marking, merge := List.replicate 15 (1, 0, 0) }) [.fault 0 7]
     (s.takeEvent 0 (.fault 0 7)).any (fun u => (u.current 0 0).isSome && (u.getGraph 0 0).phase != .idle &&
       (u.getGraph 0 0).merge.length < 16) = true) ∧
    (let s := graphed .running .armed (fun g => { g with phase := .marking, merge := List.replicate 16 (1, 0, 0) }) [.fault 0 7]
     (s.takeEvent 0 (.fault 0 7)).any (fun u => (u.current 0 0).isSome && (u.getGraph 0 0).phase != .idle &&
       16 ≤ (u.getGraph 0 0).merge.length) = true) := by decide +kernel

/-- A provisional completion whose one token finds no room in the backlog. -/
def crowded (k : Nat) : State := graphed .running .armed id (.provisional 0 :: List.replicate k (.token 1 0))

theorem crowded_full (k : Nat) (h : tokenRoom ≤ k) :
    ∃ u n, (crowded k).takeEvent 0 (.provisional 0) = some u ∧ u.current 0 0 = some (0, 0, n) ∧ n.state = .running ∧
      tokenRoom < (u.getPart 0).backlog.length + n.succs.length ∧ n.succs.count 1 = 1 ∧ ((u.getGraph 0 0).node 1).state = .armed := by
  refine ⟨_, _, rfl, rfl, rfl, ?_, rfl, rfl⟩
  show tokenRoom < (List.replicate k (GraphEvent.token 1 0) ++ []).length + 1
  simp only [List.append_nil, List.length_replicate]
  omega

theorem witness_GraphBacklog :
    ∃ u n, (crowded tokenRoom).takeEvent 0 (.provisional 0) = some u ∧ u.current 0 0 = some (0, 0, n) ∧ n.state = .running ∧
      tokenRoom < (u.getPart 0).backlog.length + n.succs.length ∧ n.succs.count 1 = 1 ∧ ((u.getGraph 0 0).node 1).state = .armed :=
  crowded_full tokenRoom (Nat.le_refl _)

theorem witness_WalkSteps :
    (State.reset.getGraph 0 0).phase ≠ .marking ∧ (State.reset.getPart 0).replays = 0 ∧
    (0 : Nat) < ((State.reset.modPart 0 fun p => { p with replays := 1 }).getPart 0).replays ∧
    (let s := graphed .faulted .armed (fun g => { g with phase := .marking, root := 0, next := 1 }) []
     let g := s.getGraph 0 0
     g.phase = .marking ∧ (∃ j ∈ (g.node g.next).preds, j = g.root ∨ (g.node j).state = .cancelling) ∧ (g.node g.next).state ≠ .confirmed ∧
     (g.node g.next).state ≠ .cancelled ∧ g.n ≤ g.next + 1) ∧
    (let s := graphed .faulted .confirmed (fun g => { g with phase := .marking, n := 3, next := 1 }) []
     let g := s.getGraph 0 0
     g.phase = .marking ∧ (g.node g.next).state = .confirmed ∧ g.next + 1 < g.n) ∧
    (let s := graphed .faulted .cancelling (fun g => { g with phase := .recount, next := 0 }) []
     let g := s.getGraph 0 0
     g.phase = .recount ∧ s.allDrained 0 g.stopped = true ∧ g.next = g.root ∧ (g.node g.next).budget = 0) ∧
    (let s := graphed .faulted .cancelling (fun g => { g with phase := .recount, n := 3, next := 1 }) []
     let g := s.getGraph 0 0
     g.phase = .recount ∧ s.allDrained 0 g.stopped = true ∧ g.next ≠ g.root ∧ (g.node g.next).state = .cancelling ∧
     g.next + 1 < g.n) ∧
    (let s := (graphed .faulted .cancelling (fun g => { g with phase := .recount, stopped := [(3, 0)] }) []).modLaunch 0 3
       fun l => { l with remain := 1 }
     s.allDrained 0 (s.getGraph 0 0).stopped = false) ∧
    (State.reset.getGraph 0 0).left = 0 ∧ ((graphed .running .armed id []).getGraph 0 0).left ≠ 0 ∧
    ((graphed .running .armed id []).getGraph 0 0).armed = false ∧
    ((graphed .running .armed (fun g => { g with armed := true }) []).getGraph 0 0).armed = true := by decide +kernel

/-- A module of four partitions: core 0's partition has one die. Its store has two places. -/
def quartered (l : Sparse Word) : State :=
  { (regs l).modPart 0 fun p => { p with desc := { p.desc with poolCap := 2 } } with cut := 4 }

/-- Pool 1 of partition 0. -/
def pooled (s : State) (f : Pool → Pool) : State := s.modPool 0 1 f

theorem witness_Pools :
    (let s := quartered [(1, 5), (2, 9), (3, BitVec.allOnes 64)]
     s.canBegin [1, 2] [] = true ∧ s.canBegin [3, 2] [] = true ∧ s.poolsPer ≤ (16 : Word).toNat ∧ (15 : Word).toNat < s.poolsPer ∧
     s.rd 3 = BitVec.allOnes 64 ∧ s.rd 1 ≠ BitVec.allOnes 64 ∧ s.poolBusy 1 = false ∧
     (s.getPool s.part 1).places < s.mine.desc.poolCap.toNat ∧
     State.reset.mine.desc.poolCap.toNat ≤ (State.reset.getPool 0 1).places ∧ State.reset.poolBusy 1 = false ∧
     [(1 : SReg), 2].any s.isBound = false ∧ s.canBegin [] [1, 2] = true ∧ s.isBound 1 = false ∧ s.canBegin [2] [1] = true ∧
     (s.getPool s.part 1).admitted s.k s.myShard = none ∧ (s.getPool s.part 1).present = []) ∧
    (let s := pooled (quartered []) fun p => p.put 1 0 0 5 6 0 0
     ((s.getPool s.part 1).admitted s.k s.myShard).isSome = true) ∧
    (let s := pooled (quartered []) fun p => { p.put 1 0 0 5 6 0 0 with bound := 1 }
     (s.getPool s.part 1).admitted s.k s.myShard = none ∧ (s.getPool s.part 1).present ≠ [] ∧ s.poolBusy 1 = false) ∧
    (let p := (Pool.reset.put 1 0 0 5 6 0 0).put 1 1 0 3 7 0 0
     p.arbitrate.isSome = true ∧ (p.admitted 1 0).isSome = true ∧ ∀ x ∈ p.present, p.aged x = false) ∧
    (let p := { Pool.reset.put 1 0 0 5 6 0 0 with takes := 4092 }
     p.arbitrate.isSome = true ∧ ∃ x ∈ p.present, p.aged x = true) := by decide +kernel

theorem witness_PoolEvents :
    (let m : Summary := { serial := 1, count := 0, min := none, bar := none, puts := 0, aged := false }
     let s := pooled State.reset fun p => { p with shards := [(0, { Shard.reset with inFlight := [(3, m)] })] }
     (0 : Nat) ≠ 3 ∧ ((s.getPool 0 1).shard 0).inFlight.find? (fun m => m.1 == 3) = some (3, m) ∧ 3 < s.k) ∧
    (let q : PendPut := { key := 5, payload := 6, core := 0, ctx := 0, serial := 1 }
     let s := pooled (quartered []) fun p => { p with shards := [(0, { Shard.reset with pend := [q] })] }
     ((s.getPool 0 1).shard 0).pend = [q] ∧ ((s.getPool 0 1).shard 0).acked q.serial = true ∧
     (s.getPool 0 1).places ≤ (s.getPart 0).desc.poolCap.toNat) ∧
    (let q : PendPut := { key := 5, payload := 6, core := 0, ctx := 0, serial := 1 }
     let m : Summary := { serial := 1, count := 0, min := none, bar := none, puts := 0, aged := false }
     let s := pooled State.reset fun p => { p with shards := [(0, { Shard.reset with pend := [q], inFlight := [(1, m)] })] }
     ((s.getPool 0 1).shard 0).pend = [q] ∧ ((s.getPool 0 1).shard 0).acked q.serial = false) ∧
    (let r (w : Bool) : ArbReq := { core := 0, ctx := 0, d := 1, a := 2, waits := w, live := true }
     let s (w : Bool) := pooled (quartered []) fun p => { p.put 1 0 0 5 6 0 0 with arb := [r w] }
     let e (w : Bool) := (s w).getPool 0 1
     (e false).sweep = none ∧ (e false).arb.find? (fun r => !(s false).heldTake r) = some (r false) ∧
     (e false).arbitrate.isSome = true ∧
     (let t := (s true).modCtx 0 0 fun x => { x with mode := .waiting, wait := some { obj := .pool 1, seq := none } }
      (t.getPool 0 1).arb.find? (fun r => !t.heldTake r) = some (r true) ∧ (r true).live = true)) ∧
    (let r : ArbReq := { core := 0, ctx := 0, d := 1, a := 2, waits := false, live := true }
     let s := pooled (quartered []) fun p => { p with arb := [r] }
     (s.getPool 0 1).sweep = none ∧ (s.getPool 0 1).arb.find? (fun r => !s.heldTake r) = some r ∧
     (s.getPool 0 1).arbitrate = none) ∧
    (let r : ArbReq := { core := 0, ctx := 0, d := 1, a := 2, waits := true, live := true }
     let s := (pooled (quartered []) fun p => { p with arb := [r] }).modCtx 0 0 fun x =>
       { x with mode := .waiting, wait := some { obj := .pool 1, seq := none } }
     (s.getPool 0 1).sweep = none ∧ (s.getPool 0 1).arb.find? (fun r => !s.heldTake r) = some r ∧
     (s.getPool 0 1).arbitrate = none) ∧
    (let r : ArbReq := { core := 0, ctx := 0, d := 1, a := 2, waits := false, live := true }
     let s (n : Nat) := pooled (quartered []) fun p => { p with arb := [r], sweep := some [(0, n)] }
     ((s 0).getPool 0 1).sweep = some [(0, 0)] ∧ ((s 0).getPool 0 1).arb = [r] ∧ ((s 0).getPool 0 1).present = [] ∧
     (∀ x ∈ [((0 : Nat), (0 : Nat))], (((s 0).getPool 0 1).shard x.1).puts = x.2) ∧
     ¬ (((s 1).getPool 0 1).shard 0).puts = 1) := by decide +kernel

/-- Partition 0 runs a job of two phases, of which 0 has graph 0 and 5 has none. -/
def jobbed (f : Part → Part) : State :=
  (graphed .running .armed (fun g => { g with armed := true }) []).modPart 0 fun p =>
    f { p with job := { p.job with state := 1, left := 2, phases := [(0, { Phase.reset with graphs := 1 }), (5, Phase.reset)] } }

/-- Launches that a cancel stops and leaves, one held and one that runs on core 0; an armed graph; phases with and without graphs,
cancelled before, and of no running job; the running job, its launches and a unit of no launch. -/
theorem witness_CancelLevels :
    (let s (held : Bool) := (launched fun l => { l with armed := true, remain := 3, held := held, mask := 1 }).modCore 0 fun c =>
       { c with unit := some unit3 }
     let l := (s true).getLaunch 0 3
     (State.reset.getLaunch 0 3).armed = false ∧ l.armed = true ∧ l.stopped = false ∧ l.remain ≠ 0 ∧ l.held = true ∧
     ((s false).getLaunch 0 3).held = false ∧ ((s false).getLaunch 0 3).mask.getLsbD 0 = true ∧
     ((s false).getCore ((s false).coreAt 0 0)).unit = some unit3 ∧ unit3.launch = some (3, 7) ∧ ((s false).getCore 0).halted = false) ∧
    ((State.reset.getGraph 0 0).left = 0 ∧ ((jobbed id).getGraph 0 0).left ≠ 0 ∧ ((jobbed id).getGraph 0 0).armed = true) ∧
    (let j := ((jobbed id).getPart 0).job
     j.state = 1 ∧ Sparse.has j.phases 0 = true ∧ Sparse.has j.phases 7 = false ∧ (j.phase 0).state = 0 ∧ (j.phase 0).cancel = false ∧
     (jobbed id).graphsOf 0 0 = [0] ∧ (jobbed id).graphsOf 0 5 = [] ∧ j.cancel = false ∧
     (j.phases.filter fun p => p.2.state == 0).length ≤ j.left ∧
     (({ j with phases := [(0, { Phase.reset with cancel := true })] } : Job).phase 0).cancel = true) ∧
    ((graphed .running .armed (fun g => { g with armed := true }) []).getPart 0).job.state ≠ 1 ∧
    (let s := ((jobbed id).modLaunch 0 3 fun l => { l with armed := true, remain := 1 }).modCore 0 fun c =>
       { c with unit := some { unit3 with launch := none } }
     Sparse.has (s.getPart 0).launches 3 = true ∧ (s.getLaunch 0 3).armed = true ∧ (s.getLaunch 0 3).bound = false ∧
     (s.getLaunch 0 3).remain ≠ 0 ∧ ((s.getCore (s.coreAt 0 0)).unit.map fun u => u.launch) = some none) := by
  and_intros <;> decide +kernel

/-! ### Witnesses: engine-bound instructions -/

theorem only_vec (i : Instr) (a b c : Word) : Claims.only (vec i a b c) 0 (entryOf i 0 a b c) := by
  refine ⟨rfl, rfl, rfl, fun x _ hx => ?_⟩
  unfold vec core0
  rw [State.getCore_modCore_other _ _ _ _ hx]
  rfl

/-- An empty queue and one with its last place free, full, and in a flush; a destination bound to an endpoint. -/
theorem witness_EngineDispatch :
    (Claims.route (.vsortxF32 1 2 0) = some (.vector, 0, 0, 0) ∧ Claims.route .afrun = some (.fabric, 0, 0, 0)) ∧
    (let s := State.reset
     s.ctx = 0 ∧ s.canBegin [0, 0, 0] (Instr.vredor 5 1 0).lateDests = true ∧ (Instr.vredor 5 1 0).lateDests.any s.isBound = false ∧
     s.me.flushing .vector = false ∧ (s.me.entry s.me.seq).st ≠ .inFlight ∧ s.drainable s.core s.ctx = true) ∧
    ((Instr.vredor 24 1 0).lateDests.any (bound false 0 []).isBound = true) ∧
    (let s := core0 fun c => { c with vq := List.replicate 31 (entryOf .mswap 0 0 0 0), fq := List.replicate 7 (entryOf .afrun 0 0 0 0) }
     s.me.vq.length < 32 ∧ s.me.fq.length < 8) ∧
    (let s := core0 fun c => { c with vq := List.replicate 32 (entryOf .mswap 0 0 0 0) }
     ¬ s.me.vq.length < 32 ∧ s.canBegin [0, 0, 0] [] = true) ∧
    (core0 fun c => { c with flush := true }).me.flushing .vector = true := by
  and_intros <;> decide +kernel

/-- The grove of core 0 with a lease record. -/
def leased (f : Grove → Grove) (s : State) : State := s.modGrove 0 f

theorem witness_Lease :
    (let s := State.reset
     s.ctx = 0 ∧ s.canBegin [0, 0, 0] [] = true ∧ Claims.takes s .vector ∧ s.me.flush = false ∧
     (s.getGrove (groveOf s.core)).holder ≠ some (inGrove s.core)) ∧
    ((leased (fun g => { g with holder := some 0 }) State.reset).getGrove 0).holder = some (inGrove 0) ∧
    (let g := (leased (fun g => { g with requests := 9 }) State.reset).getGrove 0
     g.holder = none ∧ g.requests.getLsbD (3 : Fin 4).val = true ∧ g.requests.getLsbD (0 : Fin 4).val = true ∧
     ∀ k : Fin 4, (k - g.last - 1).val < ((0 : Fin 4) - g.last - 1).val → g.requests.getLsbD k.val = false) ∧
    (let g := (leased (fun g => { g with holder := some 2, requests := 4 }) State.reset).getGrove 0
     g.holder = some 2 ∧ (∀ k : Fin 4, k ≠ 2 → g.requests.getLsbD k.val = false) ∧ g.requests.getLsbD (2 : Fin 4).val = true) ∧
    (let g := (leased (fun g => { g with holder := some 2, requests := 5 }) State.reset).getGrove 0
     ∃ k : Fin 4, k ≠ 2 ∧ g.requests.getLsbD k.val = true) ∧
    ((vec .mleaseRel 0 0 0).getCore 0).vq = [entryOf .mleaseRel 0 0 0 0] ∧
    (entryOf .mleaseRel 0 0 0 0).instr = .mleaseRel := by
  and_intros <;> decide +kernel

/-- A matrix command at the head of core 0's queue, with ring 1 as it needs, the lease requested and held. -/
def commanded (i : Instr) (b : Word) (r : Ring) (holder : Option (Fin 4)) (requests : BitVec 4) (used : Nat) : State :=
  ((vec i 0 b 0).modRing 0 1 fun _ => r).modGrove 0 fun g => { g with holder := holder, requests := requests, used := used }

/-- A ring of 128 slots of 1,024 bytes, with `n` filled. -/
def ring128 (n : BitVec 32) : Ring := { ringOf n with logSlots := 7, runs := [(0, 131072)] }

/-- The array of grove 0 holds one accepted command of core 0, numbered 0 and in flight. -/
def accepted (i : Instr) (b : Word) (r : Ring) : State :=
  ((core0 fun x => { x with seq := 1, dring := [(0, flying i 0)] }).modRing 0 1 fun _ => r).modGrove 0 fun g =>
    { g with accepted := [{ core := 0, entry := entryOf i 0 0 b 0, bank := 0, group := [] }] }

theorem natOf_zeros (n : Nat) : natOf (List.replicate n 0) = 0 := by
  induction n with
  | zero => rfl
  | succ n ih => simpa [List.replicate_succ, natOf] using ih

theorem witness_Matrix :
    (isMatrix (.vand 1 2 3 0) = false ∧ isMatrix .mswap = true) ∧
    ((commanded (.mloadW 0 1) 0 (ring128 128) (some 0) 1 0).matrixFault 0 (entryOf (.mloadW 0 1) 0 0 0 0) = none ∧
     (commanded (.mloadW 0 1) 0 (ring128 128) (some 0) 1 0).slotsReady 0 (entryOf (.mloadW 0 1) 0 0 0 0) = .accept [] ∧
     (commanded (.mloadW 0 1) 0 (ring128 127) (some 0) 1 0).slotsReady 0 (entryOf (.mloadW 0 1) 0 0 0 0) = .wait) ∧
    ((commanded (.mloadW 0 1) 0 (ringOf 4) (some 0) 1 0).matrixFault 0 (entryOf (.mloadW 0 1) 0 0 0 0)).isSome = true ∧
    (let s (r : Ring) (x : Byte) := ((commanded (.mgrp 2 1 3 2) 0 r (some 0) 1 0).modRing 0 2
       fun _ => { ringOf 1 with base := 0x20000, runs := [(0x20000, 4096)] }).modCore 0 fun c =>
       { c with scratch := Memory.put c.scratch 0x20000 x }
     let q := entryOf (.mgrp 2 1 3 2) 0 0 0 0
     (s (ring128 9) 9).matrixFault 0 q = none ∧ (s (ring128 9) 9).slotsReady 0 q = .accept (9 :: List.replicate 15 0) ∧
     (s (ring128 8) 9).slotsReady 0 q = .wait ∧ (s (ring128 9) 129).slotsReady 0 q = .fault 0x0023 ∧
     (s (ringOf 4) 5).matrixFault 0 q = none ∧ (s (ringOf 4) 5).slotsReady 0 q = .fault 0x0022) ∧
    (let s := commanded .mswap 0 (ringOf 0) none 0 0
     (s.getCore 0).vq = [entryOf .mswap 0 0 0 0] ∧ s.matrixFault 0 (entryOf .mswap 0 0 0 0) = none ∧
     (s.getGrove (groveOf 0)).requests.getLsbD (0 % 4) = false) ∧
    (let s := commanded .mswap 0 (ringOf 0) (some 0) 1 30
     (s.getGrove (groveOf 0)).holder = some (inGrove 0) ∧ (s.getGrove (groveOf 0)).used + 1 < 32) ∧
    (32 ≤ ((commanded .mswap 0 (ringOf 0) (some 0) 1 31).getGrove (groveOf 0)).used + 1) ∧
    ((State.reset.getGrove 0).accepted = []) ∧
    (let s := accepted (.mloadW 0 1) 0 (ring128 128)
     (s.getGrove (groveOf 0)).accepted = [{ core := 0, entry := entryOf (.mloadW 0 1) 0 0 0 0, bank := 0, group := [] }] ∧
     Memory.wf (Sparse.get [] (s.getGrove 0).banks 0) = true) ∧
    (let s := accepted (.mst 1 2) 0 { ring128 0 with logSlots := 6, runs := [(0, 65536)] }
     let r := (s.getCore 0).getRing 1
     r.rowsPerSlot = 2 ∧ (∀ n < 64, r.fillSlot n + r.size ≤ 0x40000) ∧
     (∀ i < 64, ∀ j < 64, i ≠ j → r.fillSlot i + r.size ≤ r.fillSlot j ∨ r.fillSlot j + r.size ≤ r.fillSlot i) ∧
     Memory.wf (s.getCore 0).scratch = true) ∧
    (((accepted (.mmac 3 1 2) (127 <<< 56) (ring128 127)).getGrove 0).accepted.map fun a => a.entry.instr) = [.mmac 3 1 2] ∧
    ((1 : HReg) ≠ 2 ∧ (((accepted (.mgrp 3 1 2 2) 0 (ring128 9)).getGrove 0).accepted.map fun a => a.entry.instr) = [.mgrp 3 1 2 2]) ∧
    (let s := accepted (.mloadT 2 1 5) 9 (ringOf 1)
     ¬ (9 : Word).toNat ≤ 8 ∧ ((s.getCore 0).entry 0).st = .inFlight ∧ ((s.getCore 0).entry 0).seq = 0) ∧
    (let s := accepted (.mloadT 2 1 5) 8 (ringOf 1)
     let e (c : Nat) : Nat := natOf (((s.scratchRead 0 (((s.getCore 0).getRing 1).drainSlot 0) 1024).drop (4 * c)).take 4)
     1 ≤ (8 : Word).toNat ∧ (8 : Word).toNat ≤ 8 ∧
     ∀ c < 256, bits (e c) 31 19 = 0 ∧ (bits (e c) 17 10 = 0 → bits (e c) 9 0 = 0)) := by
  refine ⟨by decide +kernel, ?_, ?_, ?_, ?_, ?_, ?_, ?_, ⟨rfl, by decide +kernel⟩, ?_, ?_, ?_, ?_, by decide, by decide, fun c _ => ?_⟩
  iterate 11 decide +kernel
  have h : (accepted (.mloadT 2 1 5) 8 (ringOf 1)).scratchRead 0
      ((((accepted (.mloadT 2 1 5) 8 (ringOf 1)).getCore 0).getRing 1).drainSlot 0) 1024 = List.replicate 1024 0 := by decide +kernel
  simp only [h, List.drop_replicate, List.take_replicate, natOf_zeros]
  decide

/-- Each instruction alone in the grove's queues, unmasked; the ends of the exact powers of two, and a number between two. -/
theorem witness_VectorLanes :
    (∀ (i : Instr) (a b c : Word), Claims.only (vec i a b c) 0 (entryOf i 0 a b c)) ∧
    (vec (.vaddI32 1 2 3 0) 0 0 0).flagMaskOf 0 (((vec (.vaddI32 1 2 3 0) 0 0 0).getCore 0).entry 0).launch = 0 ∧ (3 : KReg) ≠ 0 ∧
    (∀ p ∈ ([(-149, 149, 0), (127, 127, 0), (1, 2, -1), (-1, 4, -2)] : List (Int × Nat × Int)),
      p.1 ≠ 0 ∧ -149 ≤ p.1 ∧ p.1 ≤ 127 ∧ (0 ≤ p.2.2 → p.2.1 * 2 ^ p.2.2.toNat = p.1.natAbs) ∧
      (p.2.2 < 0 → p.2.1 = p.1.natAbs * 2 ^ (-p.2.2).toNat)) ∧
    (fctl 0).rm = 0 ∧ (-126 : Int) * 2 ^ 1 < signed true 251 ∧ signed true 251 < (-126 + 1 : Int) * 2 ^ 1 ∧
    (126 : Int) * 2 ^ 1 < signed false 253 ∧ signed false 253 < (126 + 1 : Int) * 2 ^ 1 :=
  ⟨only_vec, by decide +kernel, by decide, by decide, by decide, by decide, by decide, by decide, by decide⟩

/-- Operands of vmovs at the last lane and beyond it, and of vslide at the edges; a destination that is not bound. -/
theorem witness_VectorMovesAndScans :
    (∀ (i : Instr) (a b c : Word), Claims.only (vec i a b c) 0 (entryOf i 0 a b c)) ∧
    (127 : Word).toNat < 128 ∧ ¬ (128 : Word).toNat < 128 ∧ (127 : Int) + (-127 : Word).toInt = 0 ∧
    ((vec (.vredmaxI32 5 1 0) 0 0 0).getCtx 0 0).bound (5 : SReg).toNat = false ∧ (5 : SReg) ≠ 0 ∧
    ((vec (.vredmaxI32 5 1 0) 0 0 0).getCore 0).getK (0 : KReg).toNat ≠ 0 ∧
    ((vec (.vsortxF32 1 2 0) 0 0 0).getCore 0).getK (1 : KReg).toNat = 0 :=
  ⟨only_vec, by decide, by decide, by decide, by decide +kernel, by decide, by decide +kernel, by decide +kernel⟩

/-- Operands of an element of the contraction: exact sums at and past the clamp, a block of scale 0xFF, 0 × ∞, products that are
all 0, and products of which one has the greatest exponent. -/
theorem witness_Contraction :
    (∃ oa ob, intPath oa ob = true) ∧ (∃ oa ob, intPath oa ob = false) ∧
    (let x : List (Machine.Num × Option Int) := [(.fin false 1 0, none)]
     let y : List (Machine.Num × Option Int) := [(.zero false, none)]
     (-2 ^ 31 : Int) = (BitVec.intMin 32).toInt + ((x.zip y).map fun p => p.1.1.toExact * p.2.1.toExact).sum ∧
     (2 ^ 31 : Int) ≤ (BitVec.intMax 32).toInt + ((x.zip x).map fun p => p.1.1.toExact * p.2.1.toExact).sum) ∧
    mulNum (.zero true) (.inf false) = none ∧ mulNum (.zero true) (.fin false 3 5) = some (.zero true) ∧
    (let ps : List ((Machine.Num × Option Int) × (Machine.Num × Option Int)) :=
       [((.fin false 3 2, some 4), (.fin true 5 1, some 7)), ((.zero false, some 4), (.fin true 5 1, some 7))]
     ps ≠ [] ∧ (∀ p ∈ ps, p.1.2 = some 4 ∧ p.2.2 = some 7) ∧
     ps.map (fun p => mulNum p.1.1 p.2.1) = [some (.fin true 15 3), some (.zero true)] ∧ (3 : Int) + Nat.log2 15 = 6) := by
  refine ⟨⟨opndA 15, opndA 22, ?_⟩, ⟨opndA 15, opndA 0, ?_⟩, ?_⟩ <;> decide +kernel

/-- Addresses at and off each alignment; a translation that fails; an empty and a full ring for venc and vdec. -/
theorem witness_VectorMemory :
    Claims.only (vec (.vldW 1 2 3 0) 4 0 0) 0 (entryOf (.vldW 1 2 3 0) 0 4 0 0) ∧
    ((4 + (0 : Word) * 4).toNat % 4 = 0 ∧ (2 + (0 : Word) * 4).toNat % 4 ≠ 0 ∧ (4 + (0 : Word) * 8).toNat % 8 ≠ 0 ∧
     (8 : Word).toNat % 16 ≠ 0 ∧ (16 : Word).toNat % 16 = 0) ∧
    ((vec (.vldW 1 2 3 0) 4 0 0).getCore 0).getK (3 : KReg).toNat = 0 ∧
    (match ((vec (.kld 1 2) 16 0 0).bindLane 0).laneAccess 0 .read 16 [16] with | .error _ => true | .ok _ => false) = true ∧
    (let s (n : BitVec 32) := (vec (.venc 1 2 3) 0 (0xFF <<< 24) 0).modRing 0 1 fun _ => ringOf n
     (((s 0).getCore 0).getRing 1).valid = true ∧ ((vec (.venc 1 2 3) 0 0 0).getCore 0).getRing 1 = Machine.Ring.reset ∧
     encFault ((s 0).getGrove (groveOf 0)) (0xFF <<< 24) (((s 0).getCore 0).getRing 1) true = false ∧
     (((s 3).getCore 0).getRing 1).free ≠ 0 ∧ (((s 4).getCore 0).getRing 1).free = 0 ∧
     (((s 3).getCore 0).getRing 1).fillSlot 0 + (((s 3).getCore 0).getRing 1).size ≤ 0x40000 ∧
     (((s 1).getCore 0).getRing 1).filled ≠ 0 ∧ (((s 0).getCore 0).getRing 1).filled = 0) ∧
    (let s := mapped (vec (.vldW 1 2 3 0) 0x10000 0 0)
     let k := mapped (vec (.kld 1 2) 0x10000 0 0)
     s.eligible 0 = true ∧ k.eligible 0 = true ∧
     (match (s.bindLane 0).laneAccess 0 .read 4 [0x10000, 0x10004] with
      | .ok (ps, u) => (u.settleInv 0 0 0 (ps.map fun p => (p, 4))).any fun w => w.lanesReady 0 4 ps true
      | .error _ => false) = true ∧
     (match (s.bindLane 0).lanesEach 0 .write [0x10004, 0x10000] with
      | .ok (ps, u) => (u.settleInv 0 0 0 (ps.map fun p => (p, 4))).any fun w => w.lanesReady 0 4 ps false
      | .error _ => false) = true ∧
     (match (k.bindLane 0).laneAccess 0 .write 16 [0x10000] with
      | .ok (ps, u) => ps.length == 1 && (u.settleInv 0 0 0 (ps.map fun p => (p, 16))).any fun w =>
          w.lanesReady 0 16 ps false && w.lanesReady 0 16 ps true
      | .error _ => false) = true) := by
  refine ⟨only_vec _ _ _ _, ?_, ?_, ?_, ?_, ?_⟩
  all_goals decide +kernel

/-- Core 0 executes an access of its vector lanes to 0x10000, a page that leads to the place; its mask registers hold lanes 0 and
17. -/
def lanes (i : Instr) (pa : Nat) : State :=
  (vec i 0x10000 0 0).modDie 0 (fun d =>
    { d with tlb := [{ part := 0, va := 0x10000, log := 16, pa := pa, level := 3, r := true, w := true, x := false }] }) |>.modCore 0
    fun c => { c with k := [(1, 0x20001)] }

/-- What a vector access that passes its checks finds: the places of its lanes, and whether they are ready. -/
def lanesAt (s : State) (each : Bool) (acc : Access) (size : Nat) (as : List Word) : Option (List Nat × Bool) :=
  match (if each then (s.bindLane 0).lanesEach 0 acc as else (s.bindLane 0).laneAccess 0 acc size as) with
  | .ok (ps, u) => (u.settleInv 0 0 0 (ps.map fun p => (p, size))).map fun w => (ps, w.lanesReady 0 size ps (acc == .read))
  | .error _ => none

/-- Lanes 0 and 17 of a load and a store, in memory and in another core's window, where they are two pieces; a lane that no page
maps; a load that has read its first piece, and one that waits; a group with a spilled block. -/
theorem witness_VectorAccess :
    (let as : List Word := [0x10000, 0x10044]
     let i : Instr := .vldW 1 2 1 0
     let ps := [winBase + 0x100000, winBase + 0x100044]
     ((List.range (512 / 4)).filter fun j => ((lanes i 0x10000).getCore 0).getK (1 : KReg).toNat |>.getLsbD (4 / 4 * j)) = [0, 17] ∧
     (lanes i 0x10000).eligible 0 = true ∧ lanesAt (lanes i 0x10000) false .read 4 as = some ([0x10000, 0x10044], true) ∧
     lanesAt (lanes (.vstW 1 2 1 0) 0x10000) false .write 4 as = some ([0x10000, 0x10044], true) ∧
     lanesAt (lanes (.vldxW 1 2 3 1) 0x10000) true .read 4 as = some ([0x10000, 0x10044], true) ∧
     lanesAt (lanes i (winBase + 0x100000)) false .read 4 as = some (ps, true) ∧
     pieceOf 0 [0x10000, 0x10044] (some 0x10000) = [0x10000, 0x10044] ∧ pieceOf 0 ps (some (winBase + 0x100000)) = [winBase + 0x100000] ∧
     lanesAt (lanes i 0x10000) false .read 4 [0x30000] = none) ∧
    (lanesAt (lanes (.kld 1 2) 0x10000) false .read 16 [0x10000] = some ([0x10000], true) ∧
     lanesAt (lanes (.kst 1 2) 0x10000) false .write 16 [0x10000] = some ([0x10000], true)) ∧
    (let ps := [winBase + 0x100000, winBase + 0x100044]
     let s := (lanes (.vldW 1 2 1 0) (winBase + 0x100000)).modCore 0 fun c => { c with vload := some { places := ps, vals := [5] } }
     (s.getCore 0).vload = some { places := ps, vals := [5] } ∧ pieceOf 0 (ps.drop 1) (some (winBase + 0x100000)) = ps.drop 1 ∧
     s.lanesReady 0 4 (ps.drop 1) true = true ∧ [5].length + (ps.drop 1).length = ps.length ∧
     (s.modCore 1 fun c => { c with vq := [entryOf .mswap 0 0 0 0] }).lanesReady 0 4 [winBase + 0x140000] true = false) ∧
    ((2 : Word).toNat % 4 ≠ 0 ∧ ¬ ((4 : Word).toNat % 4 ≠ 0)) ∧
    (let b (n : Nat) : BlockCode := { scale := 127, codes := List.replicate n 3, k := 0, flags := 0 }
     let g : GroupCode := { blocks := List.replicate 8 (b 16), width := 4, side := [5], spilled := [(7, b 16)], wf := 16, flags := 0 }
     g.width ≤ 16 ∧ (g.blocks.flatMap fun (b : BlockCode) => b.codes).length = 128 ∧ g.blocks.length ≤ 8 ∧ g.side.length ≤ 32 ∧
     g.spilled.length ≤ 8 ∧ (∀ b ∈ g.spilled, b.2.codes.length = 16) ∧ g.spilled.length * (g.wf * (16 / 8)) ≤ 256) := by
  and_intros <;> decide +kernel

/-! ### Witnesses: rings, copies, the fabric -/

/-- The oldest instruction of context 0 in core 0's ring unit, numbered 0 and in flight, with ring 1. -/
def ringing (i : Instr) (a b : Word) (r : Ring) : State :=
  (core0 fun x => { x with ru := [entryOf i 0 a b 0], seq := 1, dring := [(0, flying i 0)] }).modRing 0 1 fun _ => r

/-- The context waits for that instruction. -/
def awaiting (s : State) (mode : CtxMode) (obj : WaitObj) : State :=
  s.modCtx 0 0 fun x => { x with mode := mode, wait := some { obj := obj, seq := some 0 } }

theorem witness_Rings :
    (let s := State.reset
     Claims.ringHeld (.hget 3 1 .base) = some (0, 0) ∧ (Instr.hget 3 1 .base).lateDests.any s.isBound = false ∧
     s.canBegin [0, 0, 0] (Instr.hget 3 1 .base).lateDests = true ∧ Claims.takes s .ring) ∧
    (Instr.evwait 24 25).lateDests.any (bound false 0 []).isBound = true ∧
    (Claims.ringWaits (.evwait 3 4)).isSome = true ∧
    ¬ (core0 fun c => { c with ru := List.replicate 16 (entryOf .mswap 0 0 0 0) }).me.ru.length < 16 ∧
    (State.reset.canBegin [3] [] = true) ∧
    ((State.reset.getCore 0).ru.find? fun q => q.ctx == 0) = none ∧
    (let i := Instr.hwaitF 1 2 0
     let w := awaiting (ringing i 4 0 (ringOf 4)) .waiting (.ringFull 1 4)
     ((w.getCore 0).ru.find? fun q => q.ctx == 0) = some (entryOf i 0 4 0 0) ∧ (w.getCtx 0 0).waitsFor 0 = true ∧
     (w.getCtx 0 0).mode = .waiting ∧ (w.getCtx 0 0).popped = [] ∧ ((w.getCore 0).getRing 1).valid = true ∧
     (w.getCtx 0 0).woken = false ∧ ((w.modCtx 0 0 fun x => { x with woken := true }).getCtx 0 0).woken = true ∧
     (4 + (0 : Word)).toNat ≤ ((w.getCore 0).getRing 1).slots ∧ (4 + (0 : Word)).toNat ≤ ((w.getCore 0).getRing 1).filled ∧
     ((awaiting (ringing i 4 0 (ringOf 3)) .halted (.ringFull 1 4)).getCtx 0 0).mode ≠ .waiting ∧
     (((ringing i 4 0 (ringOf 3)).getCore 0).getRing 1).filled < (4 + (0 : Word)).toNat ∧
     ((ringing i 5 0 (ringOf 3)).getCtx 0 0).waitsFor 0 = false ∧
     (((ringing i 5 0 (ringOf 3)).getCore 0).getRing 1).slots < (5 + (0 : Word)).toNat) ∧
    (let s := ((mappedWin (ringing (.hset 1 2 3) 0x20000 (10 * 256 + 2) (ringOf 0))) : State)
     (s.getCtx 0 0).waitsFor 0 = false ∧ (0x20000 : Word).toNat % 2 ^ 10 = 0 ∧ bits (10 * 256 + 2) 63 16 = 0 ∧ 5 ≤ 10 ∧ 10 ≤ 16 ∧ 2 ≤ 8 ∧
     s.vecAhead 0 (entryOf (.hset 1 2 3) 0 0x20000 (10 * 256 + 2) 0) = false ∧
     (match s.xlateRange 0 .atomic (2 ^ 12 / 65536 + 2) 0x20000 (2 ^ 12) with
      | .ok (rs, _) => rs.all fun r => winBase ≤ r.1 && r.1 + r.2 ≤ winBase + 0x40000
      | .error _ => false) = true) ∧
    ((ringing (.hadvP 1 2 0) 1 0 (ringOf 3)).vecAhead 0 (entryOf (.hadvP 1 2 0) 0 1 0 0) = false ∧
     (1 + (0 : Word)).toNat ≤ (((ringing (.hadvP 1 2 0) 1 0 (ringOf 3)).getCore 0).getRing 1).free ∧
     (((ringing (.hadvP 1 2 0) 1 0 (ringOf 4)).getCore 0).getRing 1).free < (1 + (0 : Word)).toNat ∧
     (((ringing (.hadvC 1 2 0) 1 0 (ringOf 0)).getCore 0).getRing 1).filled < (1 + (0 : Word)).toNat ∧
     (((ringing (.hadvC 1 2 0) 1 0 Ring.reset).getCore 0).getRing 1).valid = false) ∧
    (let s := ringing (.evtry 3 4) 0 0 (ringOf 0)
     (s.getCore 0).events = [] ∧ (s.getCtx 0 0).bound (3 : SReg).toNat = false ∧ (3 : SReg) ≠ 0 ∧ (3 : SReg) ≠ 4 ∧
     ((s.modCore 0 fun c => { c with events := [{ n := 0, bits := 5 }] }).getCore 0).events = [{ n := 0, bits := 5 }]) ∧
    (let s := ringing (.cpwait 1 2) 3 3 (ringOf 0)
     (3 : Word).toNat ≤ (3 : Word).toNat ∧ Sparse.get 0 (s.getCore 0).completed (1 : BitVec 2).toNat < (3 : Word).toNat ∧
     (2 : Word).toNat < (3 : Word).toNat) := by
  and_intros <;> first | rfl | decide +kernel

/-- A piece of core 1 on its way to core 0's scratchpad. -/
def piece (src : Nat) (off : Nat) : Piece :=
  { src := src, agent := 3, ctx := 0, dst := 0, off := off, bytes := [1, 2, 3, 4], engine := false, skip := [], launch := none }

/-- A copy request of channel 1, at a stage. -/
def request (stage : CopyStage) (lw : Word) (done : Nat) : CopyReq :=
  { id := 7, ch := 1, dst := 0x18000, src := 0x10000, lw := lw, seq := 0, ctx := 0, unit := 0, stage := stage, down := false, done := done,
    srcRuns := [(0x10000, 8192)], dstRuns := [(0x18000, 8192)], fault := 0, early := none, buf := [], whole := false }

/-- It is channel 1's first, and the engine's turn is channel 1's. -/
def copying (r : CopyReq) (events : List EventRec) : State :=
  mapped ((core0 fun c => { c with copies := [r], copyTurn := 1, seq := 1, dring := [(0, flying (.cpq 1 0 0 0 0) 0)], events := events }).modRing
    0 1 fun _ => ringOf 3)

theorem witness_Copies :
    (let s := State.reset
     s.isBound 3 = false ∧ s.canBegin [1, 2, (4 : CReg).setWidth 5] [3] = true ∧ s.me.copies.length < 8 ∧
     (s.me.entry s.me.seq).st ≠ .inFlight ∧ s.drainable s.core s.ctx = true ∧ (bound false 0 []).isBound 24 = true ∧
     8 ≤ (core0 fun c => { c with copies := List.replicate 8 (request .queued 0 0) }).me.copies.length) ∧
    ((State.reset.getCore 0).copies.find? fun r => r.ch == 1) = none ∧
    (let s := copying (request .queued 8192 0) []
     let u := s.modCore 0 fun c => { c with copyTurn := 2 }
     ((s.getCore 0).copies.find? fun r => r.ch == 1) = some (request .queued 8192 0) ∧
     (∀ x ∈ (s.getCore 0).copies, x.seq = 0 → x = request .queued 8192 0) ∧ (s.getCore 0).copyNext = some 1 ∧
     ({ s.getCore 0 with copies := [] } : Core).copyNext ≠ some 1 ∧
     (match u.copyChecks 0 (request .queued 8192 0) with | .ok _ => true | .error _ => false) = true ∧
     (match u.copyChecks 0 (request .queued (1 <<< 52) 0) with | .ok _ => false | .error _ => true) = true) ∧
    (let r := request .moving 8192 4096
     let s := copying r []
     let full : CopyReq := { r with buf := List.replicate 4096 0 }
     (s.getCore 0).copyNext = some 1 ∧ s.noPieces 0 Piece.byCopy = true ∧
     { s with pieces := [{ piece 0 0 with agent := 16, ctx := 12 }] }.noPieces 0 Piece.byCopy = false ∧ r.buf.length < r.want ∧ s.copyReady 0 (sliceRuns r.srcRuns (r.chunkAt + 0) (min 64 r.want)) = true ∧
     full.want ≤ full.buf.length ∧
     (let v := s.modCore 0 fun c => { c with vq := [entryOf .mswap 0 0 0 0] }
      v.copyReady 0 [(winBase + 0x40000, 64)] = false)) ∧
    (let s := copying (request .ended 0x4001000000002000 8192) []
     let r := request .ended 0x4001000000002000 8192
     (∀ p ∈ s.pieces, p.src = 0 → p.ctx ≠ 11 + r.ch.toNat) ∧ r.fault ≠ 0x0041 ∧ r.adv = true ∧
     ((s.getCore 0).getRing r.handle).valid = true ∧ ((s.getCore 0).getRing r.handle).free ≠ 0 ∧
     (((s.modRing 0 1 fun _ => ringOf 4).getCore 0).getRing r.handle).free = 0 ∧
     (((s.modRing 0 1 fun _ => Ring.reset).getCore 0).getRing r.handle).valid = false ∧ r.fault = 0 ∧
     ((s.getCore 0).entry r.seq).st = .inFlight ∧ ((s.getCore 0).entry r.seq).seq = r.seq) ∧
    (let r := request .ended 0x8000000000002000 8192
     r.event = true ∧ r.adv = false ∧ r.ctx ≤ 10 ∧
     ((copying r (List.replicate 255 { n := 0, bits := 0 })).getCore 0).events.length < 256 ∧
     256 ≤ ((copying r (List.replicate 256 { n := 0, bits := 0 })).getCore 0).events.length) ∧
    (request .posting 0 0).stage = .posting ∧
    (let r (a : Nat) : CopyReq := { request .moving 8192 0 with buf := List.replicate 4096 7, dstRuns := [(a, 8192)] }
     let out (a : Nat) := cutRuns (sliceRuns (r a).dstRuns (r a).chunkAt (r a).chunk) ((r a).buf.take (r a).chunk)
     (copying (r 0x18000) []).safe = true ∧ (copying (r 0x18000) []).storesOk = true ∧ (r 0).whole = false ∧ (r 0).chunk = 4096 ∧
     (sliceRuns (r 0x18000).dstRuns (r 0x18000).chunkAt (r 0x18000).chunk).length = 1 ∧
     (∃ x ∈ out 0x18000, inWindow x.1 = false ∧ x.2.length = 4096) ∧ ∃ x ∈ out winBase, inWindow x.1 = true) := by
  decide +kernel

/-- The head of core 0's fabric queue, numbered 0 and in flight, with what the core claims. -/
def analogue (i : Instr) (a b : Word) (f : Fabric → Fabric) : State :=
  core0 fun x =>
    { x with fq := [entryOf i 0 a b 0], seq := 1, dring := [(0, flying i 0)], fab := f { Fabric.reset with claim := 1 } }

theorem witness_Fabric :
    (let s := regs [(1, 0x8001), (2, 0x10000)]
     s.ctx = 0 ∧ s.isBound 3 = false ∧ s.canBegin [1] [3] = true ∧ s.rd 1 ≠ 0 ∧ bits (s.rd 1).toNat 63 16 = 0 ∧
     (¬ ∃ q ∈ s.me.fq, q.sys = true ∧ q.instr = .afcfgRel) ∧ s.me.fq = [] ∧ s.me.fab.claim = 0 ∧ s.me.flushF = false ∧ bits (s.rd 2).toNat 63 16 ≠ 0 ∧ s.canBegin [2] [3] = true ∧
     s.canBegin [0, 0, 0] (Instr.afsamp 3 4 1).lateDests = true ∧ (Instr.afsamp 3 4 1).lateDests.any s.isBound = false) ∧
    Claims.takes State.reset .fabric ∧
    (State.reset.me.runAhead = false ∧
     (core0 fun c => { c with fab := { c.fab with status := .running } }).me.runAhead = true) ∧
    (¬ (core0 fun c => { c with fq := List.replicate 8 (entryOf .afrun 0 0 0 0) }).me.fq.length < 8) ∧
    (∃ q ∈ (core0 fun c => { c with fq := [entryOf (.afcfgClaim 3 1) 0 1 0 0] }).me.fq, q.instr = .afcfgClaim 3 1) ∧
    (let c (sys : Bool) :=
       (core0 fun c => { c with fab := { c.fab with claim := 1 }, fq := [{ entryOf .afcfgRel 0 0 0 0 with sys := sys }] } : State).me
     (c false).fab.claim ≠ 0 ∧ (¬ ∃ q ∈ (c false).fq, q.sys = true ∧ q.instr = .afcfgRel) ∧
     ∃ q ∈ (c true).fq, q.sys = true ∧ q.instr = .afcfgRel) ∧
    (State.reset.getCore 0).fq = [] ∧
    (let s := analogue (.afcfgClaim 3 1) 0x8001 0 fun f => { f with claim := 0 }
     (s.getCore 0).fq = [entryOf (.afcfgClaim 3 1) 0 0x8001 0 0] ∧ (s.getCtx 0 0).waitsFor 0 = false ∧
     (s.getCtx 0 0).bound (3 : SReg).toNat = false ∧
     (∀ n < 16, (0x8001 : Word).getLsbD n = true → Sparse.has (s.getDie (dieOf 0)).owner n = false) ∧
     (let t := s.modDie 0 fun d => { d with owner := [(15, 4)] }
      (0x8001 : Word).getLsbD 15 = true ∧ Sparse.has (t.getDie (dieOf 0)).owner 15 = true) ∧ (s.getCore 0).fab.claim = 0) ∧
    (let s := analogue .afrun 0 0 fun f => { f with status := .running }
     (s.getCore 0).fab.claim ≠ 0 ∧ (s.getCore 0).fab.status = .running ∧ (entryOf .afrun 0 0 0 0).journal.toNat % 4 ≠ 2 ∧
     ({ entryOf .afrun 0 0 0 0 with journal := 2 } : QEntry).journal.toNat % 4 = 2) ∧
    (let s := analogue .afcfgRel 0 0 id
     (s.getCore 0).fab.claim ≠ 0 ∧ Sparse.sorted (s.getDie (dieOf 0)).owner = true) ∧
    (let w : Word := (1 <<< 18) + (1 <<< 10) + (20 <<< 5) + 2
     bits w.toNat 63 38 = 0 ∧ bits w.toNat 4 2 = 0 ∧ 1 ≤ bits w.toNat 33 18 ∧ 1 ≤ bits w.toNat 17 10 ∧ 8 ≤ bits w.toNat 9 5 ∧
     bits w.toNat 9 5 ≤ 20 ∧ bits w.toNat 1 0 ≠ 3 ∧ ¬ (8 ≤ bits (w - (13 <<< 5)).toNat 9 5)) ∧
    (let s := analogue .afrun 0 0 id
     s.runOk 0 = false ∧ (s.modDie 0 fun d => { d with stands := [(0, [(63, { Integ.reset with active := true })])] }).runOk 0 = true) ∧
    ((65544 : Word).toNat % 8 = 0 ∧ 65536 < (65544 : Word).toNat ∧ (8 : Word).toNat % 8 = 0) ∧
    (let s := analogue (.afsamp 3 4 63) 0 0 fun f => { f with status := .settled, codes := List.replicate 64 (5, 11) }
     (63 : Word).toNat < 64 * ((List.range 16).filter fun n => (s.getCore 0).fab.claim.getLsbD n).length ∧
     (entryOf (.afsamp 3 4 63) 0 0 0 0).journal.toNat % 4 = 0 ∧ (s.getCore 0).fab.codes ≠ [] ∧ (s.getCore 0).fab.status = .settled ∧
     64 * ((List.range 16).filter fun n => (s.getCore 0).fab.claim.getLsbD n).length ≤ (64 : Word).toNat ∧
     ((analogue (.afsamp 3 4 63) 0 0 id).getCore 0).fab.status = .notStarted) := by
  and_intros <;> decide +kernel

/-- A run at the first nanosecond in which it can settle, at its time-out, and past it. -/
theorem witness_FabricRuns :
    (let s (t : Word) : State :=
       { (analogue .afrun 0 0 fun f => { f with status := .running, window := 16, timeout := 2, runSeq := 0 }) with time := t }
     let f := ((s 0).getCore 0).fab
     let tau := 1000 * 4 ^ f.tau.toNat
     f.status = .running ∧ f.window.toNat * tau ≤ 16 * ((s 1000).time - f.start).toNat ∧
     16 * ((s 999).time - f.start).toNat < f.window.toNat * tau ∧ ((s 2000).time - f.start).toNat ≤ f.timeout.toNat * tau ∧
     f.timeout.toNat * tau ≤ ((s 2000).time - f.start).toNat ∧ f.timeout.toNat * tau < ((s 2001).time - f.start).toNat ∧
     (((s 0).getCore 0).entry f.runSeq).st = .inFlight ∧ (((s 0).getCore 0).entry f.runSeq).seq = f.runSeq) ∧
    (State.reset.getCore 0).fab.status ≠ .running := by decide +kernel

/-- Core 0's afcfg of 8 bytes, of an image at 0x10000. -/
def configuring (pa : Nat) : State :=
  (analogue (.afcfg 1 2) 0x10000 8 id).modDie 0 fun d =>
    { d with tlb := [{ part := 0, va := 0x10000, log := 16, pa := pa, level := 3, r := true, w := true, x := false }] }

/-- The last integrator's bias as a configuration word, one with a reserved bit set, and one beyond the gang; an image in memory,
in a window that may answer and in one that waits for queued vector work, and a page that no table maps. -/
theorem witness_FabricConfiguration :
    (let s := configuring 0x10000
     let q := entryOf (.afcfg 1 2) 0 0x10000 8 0
     (s.getCore 0).fq = [q] ∧ q.sys = false ∧ (s.getCtx 0 0).waitsFor q.seq = false ∧ (s.getCore 0).fab.claim ≠ 0 ∧
     (s.getCore 0).fab.status ≠ .running ∧ q.a.toNat % 8 = 0 ∧ 8 ≤ q.b.toNat ∧ (s.getCore 0).fwork = none ∧ (s.getCore 0).gangSize = 64 ∧
     (match s.access 0 .read q.a q.b.toNat with | .ok (rs, _) => rs == [(0x10000, 8)] | .error _ => false) = true ∧
     (match (analogue (.afcfg 1 2) 0x10000 8 id).access 0 .read 0x10000 8 with | .ok _ => false | .error _ => true) = true) ∧
    (let w := 2 * 2 ^ 60 + 63 * 2 ^ 50 + 5
     Claims.wordPasses 64 w ∧ ¬ Claims.wordPasses 64 (w + 2 ^ 12) ∧ ¬ Claims.wordPasses 64 (w + 2 ^ 50)) ∧
    ((match (configuring winBase).access 0 .read 0x10000 8 with
      | .ok (rs, u) => rs == [(winBase, 8)] && u.copyReady 0 [(winBase, 8)]
      | .error _ => false) = true ∧
     (match ((configuring (winBase + 0x40000)).modCore 0 fun c => { c with vq := [entryOf .mswap 0 0 0 0] }).access 0 .read 0x10000 8 with
      | .ok (rs, u) => rs == [(winBase + 0x40000, 8)] && !u.copyReady 0 [(winBase + 0x40000, 8)]
      | .error _ => false) = true ∧ inWindow winBase = true ∧
     (((configuring winBase).modCore 0 fun c => { c with fwork := some (.image [(winBase, 8)] []) }).getCore 0).fwork =
       some (.image [(winBase, 8)] [])) := by
  unfold Claims.wordPasses
  and_intros <;> decide +kernel

/-- Core 0's afsamp of an integrator under the journal at 0x10000, which has one entry. -/
def journalled (mode imm : Word) (pa : Nat) (f : Core → Core) : State :=
  (core0 fun x => f { x with
    fq := [{ entryOf (.afsamp 3 4 imm) 0 0 0 0 with journal := 0x10000 + mode }], seq := 1, dring := [(0, flying (.afsamp 3 4 imm) 0)],
    fab := { Fabric.reset with claim := 1, status := .settled, codes := List.replicate 64 (5, 11) } }).modDie 0 fun d =>
    { d with tlb := [{ part := 0, va := 0x10000, log := 16, pa := pa, level := 3, r := true, w := true, x := false }] }

/-- Below and at the capacity, in memory and in a window, with the pieces still on the way; a replayed entry that passes, one of
another integrator, one of another core, and none left. -/
theorem witness_FabricJournal :
    (let s := journalled 1 63 0x10000 id
     let c := s.getCore 0
     s.safe = true ∧ (c.fq.map fun q => q.journal.toNat % 4) = [1] ∧ (s.getCtx 0 0).waitsFor 0 = false ∧ c.fab.claim ≠ 0 ∧
     c.fab.status ≠ .running ∧ (63 : Word).toNat < c.gangSize ∧ (s.getCtx 0 0).bound (3 : SReg).toNat = false ∧ c.fab.codes ≠ [] ∧
     (∀ l ∈ c.fab.codes, l.2 ≤ 11) ∧ c.fwork = none ∧ (s.getPart 0).jcount < 2 ^ bits (0x10001 : Word).toNat 11 6 ∧
     2 ^ bits (0x10001 : Word).toNat 11 6 ≤ ((s.modPart 0 fun p => { p with jcount := 1 }).getPart 0).jcount ∧
     (match s.access 0 .write 0x10000 32 with | .ok (rs, _) => rs == [(0x10000, 32)] | .error _ => false) = true ∧
     (match (core0 id).access 0 .write 0x10000 32 with | .ok _ => false | .error _ => true) = true ∧
     (match (journalled 1 63 winBase id).access 0 .write 0x10000 32 with | .ok (rs, _) => rs == [(winBase, 32)] | .error _ => false) = true) ∧
    (let s := journalled 1 63 winBase fun c => { c with fwork := some (.entry 5 11) }
     (s.getCore 0).fwork = some (.entry 5 11) ∧ s.noPieces 0 Piece.byFabric = true ∧
     { s with pieces := [{ piece 0 0 with agent := 16, ctx := 0 }] }.noPieces 0 Piece.byFabric = false) ∧
    (let s := journalled 2 0 0x10000 id
     let found (s : State) (e : Nat) := match s.journalFind 0 0x10002 1 0 with
       | .ok (some (n, x), _) => n == 0 && x == e
       | _ => false
     found s 0 = true ∧ bits 0 79 64 = 16 * (dieOf 0 - lowDie s.cut (s.partOf 0)) + (s.getCore 0).standOf 0 ∧ bits 0 95 80 = (0 : Word).toNat ∧
     bits 0 95 80 ≠ (63 : Word).toNat ∧ s.indexOf 0 = 0 ∧
     (match (s.writeLlc 0x10013 [1]).journalFind 0 0x10002 1 0 with | .error e => e.code == 0x0035 | .ok _ => false) = true ∧
     (match ((journalled 2 0 (winBase + 0x40000) fun c => { c with vq := [entryOf .mswap 0 0 0 0] }).journalFind 0 0x10002 1 0) with
      | .ok (none, _) => true
      | _ => false) = true) := by
  and_intros <;> decide +kernel

/-! ### Witnesses: waits, ports, time -/

/-- Context 0 of core 0 waits on an object, not an engine-bound instruction. -/
def waiting (o : WaitObj) (s : State) : State :=
  s.modCtx 0 0 fun x => { x with mode := .waiting, wait := some { obj := o, seq := none } }

theorem witness_WaitsAndTimers :
    (State.reset.getCtx 0 0).mode ≠ .waiting ∧
    (let s := waiting .inbox State.reset
     (s.getCtx 0 0).mode = .waiting ∧ (s.getCtx 0 0).wait = some { obj := .inbox, seq := none } ∧
     ¬ (s.getCore 0).port.head.toNat < (s.getCore 0).port.tail.toNat ∧ (s.getPart (s.partOf 0)).waitLim.toNat = 0) ∧
    Claims.ready (waiting (.receive 0) (bound false 0 [[7]])) 0 0 (.receive 0) ∧
    Claims.ready (waiting (.send 0) (bound true 1 [])) 0 0 (.send 0) ∧
    ¬ Claims.ready (waiting (.send 0) (bound true 0 [])) 0 0 (.send 0) ∧
    (let s := (waiting .inbox State.reset).modCtx 0 0 fun x => { x with mode := .halted, heldMode := .waiting }
     (s.getCtx 0 0).mode = .halted ∧ (s.getCtx 0 0).wait = some { obj := .inbox, seq := none } ∧
     (s.getCtx 0 0).heldMode = .waiting ∧ s.heldDue 0 .inbox = false ∧
     (leased (fun g => { g with holder := some 0 }) s).heldDue 0 .lease = true) ∧
    (let s := waiting .inbox State.reset
     s.trapDue 0 0 = false ∧ (s.modCtx 0 0 fun x => { x with timerPend := true }).trapDue 0 0 = true ∧
     (s.getCtx 0 0).woken = false ∧ ((s.modCtx 0 0 fun x => { x with woken := true }).getCtx 0 0).woken = true) ∧
    (let s := awaiting (leased (fun g => { g with holder := some 0 }) State.reset) .waiting .lease
     s.trapDue 0 0 = false ∧ (s.getCtx 0 0).popped = [] ∧ (s.getCtx 0 0).wait = some { obj := .lease, seq := some 0 } ∧
     (s.getGrove (groveOf 0)).holder = some (inGrove 0) ∧
     ((awaiting State.reset .waiting .lease).getGrove (groveOf 0)).holder ≠ some (inGrove 0)) ∧
    (let s := (waiting .inbox State.reset).modPart 0 fun p => { p with waitLim := 5 }
     let t := s.modCtx 0 0 fun x => { x with waited := 5 }
     (s.getPart (s.partOf 0)).waitLim.toNat ≠ 0 ∧ (s.getCtx 0 0).waited < 5 ∧ (5 : Word).toNat ≤ (t.getCtx 0 0).waited ∧
     (t.on 0 0).recordOwned = false) ∧
    ((State.reset.getPart 0).desc.tick = 0 ∧ 511 < State.reset.coresPer) ∧
    (let s := vec .mswap 0 0 0
     ((s.getCore 0).entry 0).st = .inFlight ∧ ((s.getCore 0).entry 0).seq = 0 ∧ ((s.getCore 0).entry 1).st ≠ .inFlight ∧ lateCode 0x0020 = true ∧ lateCode 0 = false) ∧
    (let s := (core0 fun c => { c with port := { c.port with replay := [1], replayWait := 6 } }).modPart 0 fun p => { p with waitLim := 5 }
     (s.getCore 0).port.replay ≠ [] ∧ (s.getPart (s.partOf 0)).waitLim.toNat < (s.getCore 0).port.replayWait) := by
  refine ⟨by decide +kernel, by decide +kernel, (by decide +kernel : ((waiting (.receive 0) (bound false 0 [[7]])).getEp 0 0).peek ≠ none),
    (by decide +kernel : 0 < ((waiting (.send 0) (bound true 1 [])).getEp 0 0).grants ∧
      (waiting (.send 0) (bound true 1 [])).linkUp ((waiting (.send 0) (bound true 1 [])).getEp 0 0) = true),
    fun h => (by decide +kernel : ¬ 0 < ((waiting (.send 0) (bound true 0 [])).getEp 0 0).grants) h.1,
    ?_⟩
  and_intros <;> decide +kernel

/-- TAIL at HEAD + 64, beyond it, and stale; pieces at the last place of the scratchpad; grants and messages. -/
theorem witness_PortsAndChannels :
    (let p := (core0 fun c => { c with port := { c.port with tail := 3 } } : State).getCore 0 |>.port
     p.head.toNat + 64 < (65 : Word).toNat ∧ (64 : Word).toNat ≤ p.head.toNat + 64 ∧ p.tail.toNat < (64 : Word).toNat ∧
     (3 : Word).toNat ≤ p.tail.toNat) ∧
    (State.reset.pieces.find? fun p => p.dst == 0 && p.src == 1) = none ∧
    (let s := { State.reset with pieces := [piece 1 0x3FFFC, piece 0 0] }
     (s.pieces.find? fun p => p.dst == 0 && p.src == 1) = some (piece 1 0x3FFFC) ∧ s.admits (piece 1 0x3FFFC) = true ∧
     (piece 1 0x3FFFC).off + 4 ≤ 0x40000 ∧ Memory.wf (s.getCore 0).scratch = true ∧
     (s.pieces.find? fun p => p.dst == 0 && p.src == 0) = some (piece 0 0) ∧ (piece 0 0).agent.toNat < 20 ∧ (piece 1 0).src ≠ (piece 1 0).dst) ∧
    (let s := { core0 (fun c => { c with port := { c.port with replay := [0] } }) with pieces := [piece 1 0] }
     (s.pieces.find? fun p => p.dst == 0 && p.src == 1) = some (piece 1 0) ∧ s.admits (piece 1 0) = false ∧ s.partOf 1 = s.partOf 0) ∧
    (let s := { State.reset with cut := 2, pieces := [piece 511 0] }
     (s.pieces.find? fun p => p.dst == 0 && p.src == 511) = some (piece 511 0) ∧ 511 < 512 ∧ s.partOf 511 ≠ s.partOf 0) ∧
    (10 : Nat) < 11 ∧ ((bound false 0 []).getCtx 0 0).bound (24 : SReg).toNat = true ∧ (24 : SReg) ≠ 0 ∧
    (let e := (bound false 1 [[7]]).getEp 0 0
     e.declared = true ∧ e.live = true ∧ e.send = false ∧ e.slots ≤ e.grants + e.msgs.length ∧ e.words = 1 ∧
     ((bound false 1 []).getEp 0 0).grants + ((bound false 1 []).getEp 0 0).msgs.length < ((bound false 1 []).getEp 0 0).slots ∧
     e.peer = .core 1 5 ∧ ((1, 5) : Nat × Nat) ≠ (0, 0) ∧ (State.reset.getEp 0 0).declared = false ∧
     ((bound true 0 []).getEp 0 0).send = true) ∧
    (let s := State.reset.modEp 0 0 fun e =>
       { e with declared := true, live := true, slots := 2, grants := 1, byXchan := true, peer := .module 0 7 9 8 1 }
     let e := s.getEp 0 0
     e.peer = .module 0 7 9 8 1 ∧ e.declared = true ∧ e.live = true ∧ e.send = false ∧ e.early = [] ∧ e.seqno = 0 ∧
     [(5 : Word)].length = e.words ∧ 0 < e.grants ∧ 2 ^ 31 ≤ ((0xFFFFFFFF : BitVec 32) - e.seqno).toNat ∧
     ((1 : BitVec 32) - e.seqno).toNat < 2 ^ 31 ∧ e.grants + e.msgs.length < e.slots ∧ e.byXchan = true ∧ (1 = e.words ∧ 2 = e.slots) ∧
     ((s.getEp 0 1).declared = false ∧ ¬ (1 = e.words ∧ 1 = e.slots)) ∧
     s.portFor 1 9 = none ∧
     (s.modPort 0 fun p => { p with st := 2, role := 2, peer := 9 }).portFor 1 9 = some 0) ∧
    (let s := State.reset.modEp 0 1 fun _ => xEndpoint true 4 1 (.exchange 0 1 0) true
     let e := s.getEp 0 1
     e.declared = true ∧ e.live = true ∧ e.send = true ∧ e.peer = .exchange 0 1 0 ∧ e.grants + e.msgs.length < e.slots ∧
     (s.getCore 0).slotFits 1 = true ∧ e.slots ≤ 1 + e.msgs.length) := by decide +kernel

/-! ### Witnesses: commands -/

/-- A module that has booted with firmware. -/
def booted (s : State) : State := { s with tap := { s.tap with recovery := false } }

/-- Connection 0 of such a module is attached with version 3. -/
def attached (s : State) : State := (booted s).modConn 0 fun c => { c with minor := some 3 }

/-- The header of a command of connection 0 in turn, for partition 0 or the module. -/
def hdr (part : BitVec 4) : Hdr := { conn := 0, cookie := 7, seq := 0, part := part, rsv := 0, major := 2, minor := 3 }

/-- The pages at 0 to 0x1FFFFF lead to 0x200000, by a table of three levels in the driver's frame 0. -/
def paged (s : State) : State :=
  { s with owners := [(0, 0xFE), (1, 1)],
           mem := [(0, 1), (2, 0x10), (0x100000, 1), (0x100002, 0x11), (0x110000, 0x0F), (0x110002, 0x20)] }

/-- Bytes at a virtual address of `paged`. -/
def poke (va n x : Nat) (s : State) : State := s.writeLlc (0x200000 + va) (bytesOf n x)

/-- Numbers 0, 1, 256 and 257 ahead; every version range that offers one of 0 to 3, and none. -/
theorem witness_FrontEnd :
    (Claims.cmd (.detach (hdr 15))).isSome = true ∧
    (let c := (attached State.reset).getConn 0
     ((hdr 15).seq - c.next).toNat = 0 ∧ ((256 : BitVec 16) - c.next).toNat ≤ 256 ∧ 256 < ((257 : BitVec 16) - c.next).toNat ∧
     c.early = []) ∧
    (Claims.frontStatus (booted State.reset) (hdr 15) ⟨0x02, 0, .either, false, false⟩ = some 0x103) ∧
    (Claims.frontStatus State.reset (hdr 15) ⟨0x02, 0, .either, false, false⟩ = some 0x104) ∧
    ((hdr 15).conn < 1024 ∧ 1024 ≤ ({ hdr 15 with conn := 1024 } : Hdr).conn) ∧
    Claims.passes (booted State.reset) (.attach (hdr 0) 0x200 0x203) ∧ Claims.passes (attached State.reset) (.detach (hdr 15)) ∧
    Claims.passes (attached State.reset) (.ncpUnsupportedOpcode (hdr 15) 0x77) ∧
    ((0x200 : BitVec 16).toNat ≤ 0x200 + 3 ∧ 0x200 + 3 ≤ (0x203 : BitVec 16).toNat) ∧
    (∀ m ≤ 3, ¬ ((0x204 : BitVec 16).toNat ≤ 0x200 + m ∧ 0x200 + m ≤ (0x2FF : BitVec 16).toNat)) := by
  and_intros <;> decide +kernel

/-- The descriptor that the test partition takes. -/
def desc0 : Desc := { resetDesc with poolCap := 4096 }

/-- Partition 0 runs a unit on core 0. -/
def busyUnit (s : State) : State := s.modCore 0 fun c => { c with unit := some unit3 }

theorem witness_PartitionCommands :
    (Claims.passes (attached State.reset) (.setpart (hdr 0) desc0) ∧ Claims.passes (attached (busyUnit State.reset)) (.setpart (hdr 0) desc0) ∧
     (busyUnit State.reset).runsUnit 0 = true ∧ State.reset.runsUnit 0 = false ∧ State.reset.descOk desc0 = false ∧
     ({ State.reset with owners := [(0, 0xFE), (1, 0xFE), (2, 0xFE), (3, 0xFE)], cut := 4 }).descOk desc0 = true) ∧
    (Claims.passes (attached State.reset) (.setxlate (hdr 0) 0 0 1) ∧ (∀ p < State.reset.cut, p = 0) ∧
     (let s := ({ State.reset with cut := 2 }).modPart 1 fun p => { p with ways := 1 }
      (1 : Nat) < s.cut ∧ (s.getPart 1).ways &&& (1 : BitVec 24) ≠ 0) ∧
     (let s := State.reset.modMem 0 fun m => { m with llc := [(23 * 131072, 0)] }
      s.storesOk = true ∧ (23 * 131072, 0) ∈ (s.getMem 0).llc ∧ homeDie (64 * 0) = 0 ∧
      ((s.getPart 0).ways ^^^ ((s.getPart 0).ways ^^^ 0x800000)).getLsbD (23 * 131072 / 131072) = true)) ∧
    (Claims.passes (attached State.reset) (.inval (hdr 0) 0 0x10000) ∧ (0x8000 : Word).toNat % 65536 ≠ 0 ∧
     (0 : Word).toNat % 65536 = 0 ∧ (0x10000 : Word).toNat % 65536 = 0 ∧ (State.reset.getPart 0).out = false ∧
     (let u (s : State) := (s.dropTlb 0 (fun e => meets e.va (2 ^ e.log) 0x10000 0x10000)
        fun w => meets w.va (2 ^ tableLog w.level) 0x10000 0x10000).settlePart 0
      (u State.reset).usesVa 0 0x10000 0x10000 = false ∧
      (u (copying (request .moving 8192 0) [])).usesVa 0 0x10000 0x10000 = true)) ∧
    (Claims.passes (attached State.reset) (.own (hdr 15) 0x3FFFF 1 0xFE) ∧ State.reset.safe = true ∧
     ¬ (2 ^ 18 < 0x3FFFF + 1) ∧ 2 ^ 18 < 0x3FFFF + 2 ∧ 4 < (5 : BitVec 8).toNat ∧ (5 : BitVec 8) ≠ 0xFE ∧
     (let u (s : State) (first : Nat) := s.coreKeys.foldl (fun s c => (s.drainFree c).cmoAll c)
        ((s.setOwners first 1 0xFE).dropFrames (first * 2 ^ 21) (1 * 2 ^ 21))
      (u State.reset 0x3FFFF).usesFrames (0x3FFFF * 2 ^ 21) (1 * 2 ^ 21) = false ∧
      (u (copying (request .moving 8192 0) []) 0).usesFrames (0 * 2 ^ 21) (1 * 2 ^ 21) = true)) ∧
    (Claims.passes (attached State.reset) (.cut (hdr 15) 4) ∧ State.reset.cut = 1 ∧ (∀ p < State.reset.cut, State.reset.runsUnit p = false) ∧
     (busyUnit State.reset).runsUnit 0 = true) := by
  and_intros <;> decide +kernel

/-- A graph of one node at 0x1000, its node at 0x2000, and its launch record 0 at 0x3000, in the pages of `paged`. -/
def loadable : State :=
  (poke 0x3040 64 1 (poke 0x3000 64 (2 ^ 128 + 2 ^ 155) (poke 0x2000 128 (2 * 2 ^ 448)
    (poke 0x1000 256 (0x2000 * 2 ^ 960 + 2 ^ 875 + 2 * 2 ^ 728 + 5 * 2 ^ 752) (paged State.reset))))).modPart 0 fun p =>
    { p with desc := { p.desc with ltab := 0x3000 } }

theorem witness_LaunchCommands :
    Claims.passes (attached loadable) (.graphload (hdr 0) 0 0x1000) ∧ 4095 < 4096 ∧
    ((attached loadable).getGraph 0 4095).restful = true ∧
    ((graphed .running .armed (fun g => { g with armed := true }) []).getGraph 0 0).restful = false ∧
    (let u := (attached loadable).setGtab 0 0 0x1000
     (match u.readGraph 0 0x1000 with
      | (some g, v) => (v.boundOk 0 0 g g.n 0).1 && (v.getPart 0).job.state != 1
      | (none, _) => false) = true ∧
     (match u.readGraph 0 0x1000 with | (some g, v) => (v.boundOk 0 1 g g.n 0).1 | (none, _) => true) = false ∧
     (u.readGraph 0 0x8000).1.isNone = true) ∧
    (let s := loadable.modPart 0 fun p => { p with job := { p.job with state := 1, phases := [(0, Phase.reset)] } }
     (match (s.setGtab 0 0 0x1000).readGraph 0 0x1000 with
      | (some g, v) => (v.getPart 0).job.state == 1 && !Sparse.has (v.getPart 0).job.phases g.phaseId
      | (none, _) => false) = true) ∧
    Claims.passes (attached State.reset) (.grapharm (hdr 0) 0) ∧ Claims.passes (attached State.reset) (.launcharm (hdr 0) 0) ∧
    Claims.passes (attached State.reset) (.launchpatch (hdr 0) 0 15 1) ∧
    (State.reset.patchLaunch 0 0 15 1).isSome = true ∧ (State.reset.patchLaunch 0 4096 15 1).isNone = true ∧
    Claims.passes (attached State.reset) (.cancelCommand (hdr 0) 4 0) ∧ 4 < 5 ∧ State.reset.cancelOk 0 .unit 512 = false ∧
    State.reset.cancelOk 0 .unit 511 = true ∧ Claims.passes (attached State.reset) (.sigreg (hdr 0) 4095 1) ∧
    ¬ (1 : BitVec 256).toNat / 2 % 2 ^ 63 ≠ 0 ∧ (2 : BitVec 256).toNat / 2 % 2 ^ 63 ≠ 0 ∧
    State.reset.engRuns 0 .write 2 (32 * 4095) 24 = none ∧ (paged State.reset).engRuns 0 .write 2 (32 * 4095) 24 ≠ none := by
  and_intros <;> decide +kernel

theorem witness_CoreCommands :
    (Claims.passes (attached (paged State.reset)) (.rdmem (hdr 0) 0x200000 64 0) ∧ 2 ^ 32 < 2 ^ 32 + 1 ∧
     (paged State.reset).haltedWindow 0 0x200000 64 false = false ∧ (paged State.reset).reachable 0 0x200000 64 = true ∧
     (paged State.reset).reachable 0 0x3FFFF0 17 = false ∧ (paged State.reset).imageOpen 0x200000 64 = false ∧
     (core0 fun c => { c with halted := true }).haltedWindow 0 winBase 64 false = true ∧
     (let t := core0 fun c => { c with halted := true }
      let u := t.arriveN hostSrc t.pieces.length
      u.winReady (winCore winBase) (winOff winBase) 64 = true ∧ u.noPieces hostSrc (fun p => p.dst == winCore winBase) = true) ∧
     (core0 fun c => { c with vq := [entryOf .mswap 0 0 0 0] }).winReady 0 0x40000 64 = false ∧
     ((paged State.reset).modPart 0 fun p => { p with imaged := some 0x200000 }).imageOpen 0x200000 64 = true) ∧
    (Claims.passes (attached State.reset) (.halt (hdr 0) 511) ∧ 511 < State.reset.coresPer ∧ State.reset.coresPer ≤ 512 ∧
     (State.reset.getCore (State.reset.coreAt 0 511)).halted = false ∧
     ((core0 fun c => { c with halted := true }).getCore 0).halted = true ∧
     ((core0 fun c => { c with halted := true, cancelPend := true }).getCore 0).cancelPend = true) ∧
    (Claims.passes (attached State.reset) (.resume (hdr 0) 0) ∧
     (let t := (core0 fun c => { c with port := { c.port with tail := 1 } }).modCtx 0 0 fun x =>
        { x with mode := .waiting, wait := some { obj := .inbox, seq := none } }
      (t.getCtx 0 0).mode = .waiting ∧ (t.getCtx 0 0).wait = some { obj := .inbox, seq := none } ∧
      (∀ k < 11, k ≠ 0 → (t.getCtx 0 k).mode ≠ .waiting) ∧ t.trapDue 0 0 = false ∧
      (t.getCore 0).port.head.toNat < (t.getCore 0).port.tail.toNat)) ∧
    (Claims.passes (attached (paged State.reset)) (.replaytrace (hdr 0) 0 4096 0x200000) ∧
     (paged State.reset).reachable 0 (0x200000 : Word).toNat (16 * 4096) = true ∧ ((paged State.reset).getCore 0).unit = none ∧
     ((busyUnit State.reset).getCore 0).unit ≠ none) ∧
    (let s := poke 0x4000 64 (1 + 256) ((paged State.reset).modPart 0 fun p => { p with desc := { p.desc with phase := 0x4000 } })
     Claims.passes (attached s) (.jobstart (hdr 0)) ∧ s.runsUnit 0 = false ∧ (s.getPart 0).job.state ≠ 1 ∧
     ((s.engRead 0 .phase (s.getPart 0).desc.phase 4096).1.any fun bs => (readJob bs).isSome) = true ∧
     ((paged State.reset).engRead 0 .phase 0x4000 4096).1.any (fun bs => (readJob bs).isNone) = true ∧
     (State.reset.engRead 0 .phase 0x4000 4096).1 = none) ∧
    Claims.passes (attached State.reset) (.jobstat (hdr 0)) := by
  and_intros <;> decide +kernel

/-- A channel declaration of XCHAN for core 0's endpoint 63. -/
def xdecl (words slots : Nat) (send : Bool) : XDecl :=
  { chan := 4095, core := 0, ep := 63, send := send, words := words, slots := slots, peer := 9, peerChan := 1, route := 2 }

/-- One rank of a group, on core 0. -/
def rank0 : CollRank := { isLocal := true, module := 0, core := 0, sendEp := 1, recvEp := 2 }

/-- Port 1 is up and leads to module 9. -/
def linked (s : State) : State := s.modPort 1 fun p => { p with st := 2, role := 2, peer := 9 }

theorem witness_LinkCommands :
    (Claims.passes (attached State.reset) (.portcfg (hdr 15) 15 (2 * 256)) ∧ 15 < 16 ∧ 2 < 3 * 256 / 256 % 16 ∧ 2 * 256 / 256 % 16 ≤ 2 ∧
     State.reset.cores = [] ∧ State.reset.parts = [] ∧
     (linked (State.reset.modEp 0 0 fun e => { e with declared := true, live := true, peer := .module 0 7 9 8 2 })).carries 1
       { Endpoint.reset with declared := true, live := true, peer := .module 0 7 9 8 2 } = true) ∧
    (let s := State.reset
     Claims.passes (attached s) (.xchan (hdr 0) (xdecl 32 16 false)) ∧ (s.getEp 0 63).declared = false ∧
     ¬ 8192 < (s.getCore 0).slotBytes + 8 * 32 * 16 ∧ (s.getEp 0 63).withdrawn 0 4095 = false ∧
     (s.getPart 0).peerEnds = [] ∧
     (let y : PeerEnd := { chan := 4095, peer := 9, peerChan := 1, words := 32, slots := 16 }
      ((s.modPart 0 fun p => { p with peerEnds := [y] }).getPart 0).peerEnds.find? (fun y => y.chan == 4095 && y.peer == 9 && y.peerChan == 1) =
        some y) ∧
     (linked s).portFor 2 9 = some 1 ∧ s.portFor 2 9 = none ∧
     ((s.modEp 0 63 fun e => { e with declared := true, peer := .module 0 4095 9 8 2, byXchan := true }).getEp 0 63).withdrawn 0 4095 = true) ∧
    (Claims.passes (attached State.reset) (.collgrp (hdr 0) 255 1 [rank0]) ∧ State.reset.ranksOk 0 [rank0] = true ∧
     State.reset.ranksOk 0 [{ rank0 with recvEp := 1 }] = false) ∧
    (let s := attached (linked (paged State.reset))
     Claims.passes s (.imgxfer (hdr 0) 0x200000 4096 9 0 2) ∧
     Claims.passes (s.modConn 0 fun c => { c with acked := some true }) (.imgxfer (hdr 0) 0x200000 4096 9 0 2) ∧ (4096 : Word).toNat % 4096 = 0 ∧ (4095 : Word).toNat % 4096 ≠ 0 ∧
     s.reachable 0 (0x200000 : Word).toNat (4096 : Word).toNat = true ∧ s.reachable 0 0x400000 4096 = false ∧ s.portFor 2 9 = some 1 ∧
     s.portFor 1 9 = none ∧ (s.getConn 0).acked = none ∧
     ((s.modConn 0 fun c => { c with acked := some true }).getConn 0).acked = some true ∧
     (s.modPart 0 fun p => { p with imaged := some 0x200000 }).imageOpen 0x200000 4096 = true ∧ s.imageOpen 0x200000 4096 = false) ∧
    Claims.passes (attached State.reset) (.stats (hdr 15) true) ∧ Claims.passes (attached State.reset) (.stats (hdr 0) true) ∧
    (Claims.passes (attached State.reset) (.powercap (hdr 15) 600) ∧ (599 : BitVec 32).toNat < 600 ∧ 600 ≤ (600 : BitVec 32).toNat ∧
     (1800 : BitVec 32).toNat ≤ 1800 ∧ 1800 < (1801 : BitVec 32).toNat ∧ State.reset.switching = false ∧
     (State.reset.modPart 0 fun p => { p with imaged := some 0x4000000 }).switching = true) ∧
    Claims.passes (attached State.reset) (.errlog (hdr 15) 0 120) := by
  and_intros <;> decide +kernel

/-! ### Witnesses: the taproot, the gang switch, links, failure, collectives -/

/-- 32 frames of the driver from 0x4000000 on: room for an image and the traces of a module of four partitions. -/
def imaging (f : Part → Part) : State :=
  attached ({ State.reset with cut := 4, sync := true, owners := (List.range 64).map fun i => (32 + i, 0xFE) }.modPart 0 f)

/-- An accepted SWITCH or RESTORE. -/
def req (t : Word) : SwitchReq := { instant := t, image := 0x4000000, trace := 0x8000000, gang := 0 }

theorem witness_FirmwareCommands :
    Claims.passes (attached State.reset) (.identity (hdr 15)) ∧ Claims.passes (attached State.reset) (.quote (hdr 15) 5 0x81) ∧
    Claims.passes (attached State.reset) (.extend (hdr 15) 4 1) ∧ (3 < 4 ∧ 4 ≤ 4 ∧ 7 ≤ 7 ∧ 7 < 8) ∧
    Claims.passes (attached State.reset) (.fwstage (hdr 15) 0 true) ∧ (attached State.reset).tap.staging = none ∧
    (attached State.reset).tap.staged = none ∧
    (let s := { State.reset with tap := { State.reset.tap with staging := some (.a, 0) } }
     s.tap.staging = some (.a, 0) ∧ s.tap.staged ≠ some 0 ∧ (hdr 15).conn = 0 ∧ ({ hdr 15 with conn := 1 } : Hdr).conn ≠ 0) ∧
    (let s := { State.reset with tap := { State.reset.tap with staged := some 0 } }
     s.tap.staged = some 0 ∧ s.tap.staging = none) ∧
    (let s := State.reset
     Claims.passes s (.fwstageRecovery (hdr 15) 229504 (List.replicate 3968 1) true false) ∧ Memory.wf s.tap.tcm = true ∧
     s.tap.recovery = true ∧ s.tap.staging = none ∧ 229504 + 3968 ≤ 233472 ∧ 3968 % 4 = 0 ∧ 3968 < 3972) := by
  and_intros <;> decide +kernel

theorem witness_ModuleReset :
    Memory.wf State.reset.owners = true ∧ State.reset.tap.staging = none ∧
    ({ State.reset with tap := { State.reset.tap with staging := some (.b, 7) } }).tap.staging = some (.b, 7) := by and_intros <;> decide +kernel

/-- The instants 2 ms ahead and just short of it; a withdrawal 500 µs and one more nanosecond before the instant. -/
theorem witness_Switching :
    (let s := imaging id
     Claims.passes s (.switch (hdr 0) 2000000 0x4000000 0x8000000 0 0) ∧ Claims.passes s (.restore (hdr 0) 0x4000000 0x8000000 2000000) ∧
     ¬ (2000000 : Word).toNat < s.time.toNat + 2000000 ∧ (1999999 : Word).toNat < s.time.toNat + 2000000 ∧
     (s.getPart 0).switch = none ∧ (s.getPart 0).restore = none ∧ s.runsUnit 0 = false ∧ s.sync = true ∧
     (0x4000000 : Word).toNat % 4096 = 0 ∧ s.owns 0xFE 0x4000000 (0x111000 + s.k * 0x3550000) = true ∧
     s.owns 0xFE 0x8000000 (0x10000 * s.coresPer) = true ∧ s.rangesOk 0x4000000 0x8000000 = true ∧
     s.imageOpen 0x4000000 (0x111000 + s.k * 0x3550000) = false ∧ ({ s with sync := false }).sync = false) ∧
    (let s := imaging fun p => { p with switch := some (req 500001) }
     Claims.passes s (.switch (hdr 0) 0 0 0 0 0) ∧ (s.getPart 0).switch = some (req 500001) ∧
     s.time.toNat + 500000 < (req 500001).instant.toNat ∧ (req 500000).instant.toNat ≤ s.time.toNat + 500000) ∧
    (let s := imaging fun p => { p with restore := some (req 500001) }
     Claims.passes s (.restore (hdr 0) 0 0 0) ∧ (s.getPart 0).restore = some (req 500001)) ∧
    (let s := imaging fun p => { p with out := true, imaged := some 0x4000000 }
     Claims.passes s (.restore (hdr 0) 0x4000000 0x8000000 2000000) ∧
     s.imageOpen 0x4000000 (0x111000 + s.k * 0x3550000) = true ∧ (s.getPart 0).imaged = some 0x4000000 ∧ Memory.wf s.mem = true ∧
     s.tap.state ≠ .failed ∧ ({ s with tap := { s.tap with state := .failed } }).tap.state = .failed) ∧
    (let s := (imaging id).modConn 0 fun c => { c with checks := true }
     Claims.passes { s with time := 2000000 } (.restore (hdr 0) 0x4000000 0x8000000 2000000) ∧ (s.getConn 0).checks = true ∧
     ({ s with time := 2000000 }).time.toNat = (2000000 : Word).toNat) ∧
    (let s := imaging fun p => { p with switch := some (req 5), restore := some (req 5) }
     (s.getPart 0).switch = some (req 5) ∧ (s.getPart 0).restore = some (req 5) ∧ s.time.toNat < (req 5).instant.toNat ∧
     (req 5).instant.toNat ≤ ({ s with time := 5 }).time.toNat ∧ ({ s with time := 5 }).safe = true ∧
     (s.getPart 0).out = false ∧ ({ s with time := 5 }.stopPart 0 0).settleOwns.owesAny = false ∧ s.partOf 7 = 0) ∧
    (let s := (copying (request .moving 8192 0) []).modConn 0 fun c => { c with minor := some 3, early := [(0, .own (hdr 15) 0 1 0xFE)] }
     let t := { (booted s).modPart 0 fun p => { p with switch := some (req 5), out := true } with time := 5 }
     (t.getPart 0).out = true ∧ t.settleOwns.owesAny = true ∧ t.settleOwns.ownFits 0 1 0xFE = true ∧
     Claims.frontStatus t.settleOwns (hdr 15) ⟨0x12, 0, .module, true, false⟩ = none) ∧
    (let e : BitVec 16 × Instr := (0, .restore (hdr 0) 0x4000000 0x8000000 500001)
     let s := (imaging id).modConn 1 fun c => { c with checks := true, early := [e] }
     Claims.passes s (.restore (hdr 0) 0 0 0) ∧ (s.getPart 0).restore = none ∧ Sparse.sorted s.conns = true ∧
     (s.getConn 1).checks = true ∧ (hdr 0).part.toNat = 0 ∧ ((s.getConn 1).next, Instr.restore (hdr 0) 0x4000000 0x8000000 500001) ∈
       (s.getConn 1).early ∧ s.time.toNat + 500000 < (500001 : Word).toNat ∧ (500000 : Word).toNat ≤ s.time.toNat + 500000 ∧
     (∀ c ∈ s.conns, c.1 ≠ 1 → c.2.checks = false)) := by
  and_intros <;> decide +kernel

theorem witness_PortFailures :
    ((linked State.reset).getPort 1).st = 2 ∧ 1 < 60 ∧ (State.reset.getPort 1).st ≠ 2 ∧
    ((State.reset.modPort 59 fun p => { p with st := 3 }).getPort 59).st = 3 ∧ 16 ≤ 59 ∧ 59 < 60 ∧
    (let p := (State.reset.modPort 1 fun p => { p with st := 1, role := 2 }).getPort 1
     p.st = 1 ∧ (1 ≤ 1 ∧ 1 ≤ 1) ∧ p.role = 2) ∧
    (∃ n < 16, ((linked State.reset).getPort n).role = 2 ∧ ((linked State.reset).getPort n).st = 2) ∧
    (∀ n < 16, ¬ ((State.reset.getPort n).role = 2 ∧ (State.reset.getPort n).st = 2)) := by and_intros <;> decide +kernel

theorem witness_OutsideWrites :
    1 ≤ 2 ^ 32 ∧ (core0 fun c => { c with halted := true }).haltedWindow 0 (winBase + 0x3FFFF) 1 true = true ∧
    (paged State.reset).haltedWindow 0 0x200000 2 true = false ∧ (paged State.reset).reachable 0 0x3FFFFE 2 = true ∧
    (paged State.reset).reachable 0 0x3FFFFF 2 = false ∧ Memory.wf (paged State.reset).mem = true ∧
    (paged State.reset).owns 0xFE 0x1FFFFF 1 = true ∧ (paged State.reset).owns 0xFE 0x200000 1 = false ∧
    (Memory.get (paged State.reset).owners (0x200000 / 2 ^ 21)).toNat = 1 ∧
    (Memory.get (paged State.reset).owners (0x400000 / 2 ^ 21)).toNat = 0 := by and_intros <;> decide +kernel

/-- Group 1 of partition 0 has one rank, on core 0, whose endpoints are declared; it has started an operation. -/
def grouped (ws : List Word) (pending : List CollReq) : State :=
  ((mapped State.reset).modEp 0 1 fun _ =>
      { xEndpoint true 4 1 (.exchange 0 1 0) true with msgs := [ws] }).modEp 0 2 (fun _ =>
      { xEndpoint false 1 1 (.exchange 0 1 0) true with grants := 1 }) |>.modPart 0 fun p =>
    { p with groups := [(1, { Group.reset with n := 1, ranks := [rank0], pending := pending })] }

/-- A request of that rank. -/
def collReq (ws : List Word) : CollReq := { rank := 0, serial := 3, words := ws, core := 0, unit := 0, launch := none, live := true, ended := none }

theorem witness_CollectiveOperations :
    ((State.reset.getEp 0 1).declared = false) ∧
    (let ws : List Word := [0x10003, 0x10000, 0x18000, 0]
     let s := grouped ws []
     (s.getEp 0 1).peer = .exchange 0 1 0 ∧ (s.getEp 0 1).msgs = ws :: [] ∧ (s.getEp 0 1).declared = true ∧ (s.getEp 0 1).send = true ∧
     s.collReady (s.getGroup 0 1) (s.getGroup 0 1).oldest [] = false ∧ ((ws.getD 0 0).toNat % 16 = 3)) ∧
    (let bad : List Word := [0xF, 0, 0, 0]
     let s := grouped [] [collReq bad]
     let g := s.getGroup 0 1
     s.collReady g g.oldest [] = true ∧ g.oldest = [collReq bad] ∧ (collReq bad).live = true ∧ (collReq bad).ended = none ∧ rank0.sendEp ≠ rank0.recvEp ∧ s.pieces = [] ∧
     collStatus (g.oldest.map fun r => s.collLocal 1 g.n r) = 1) ∧
    (let ws : List Word := [0x10113, 0x10000, 0x18000, 0]
     let s := grouped [] [collReq ws]
     let g := s.getGroup 0 1
     s.collReady g g.oldest [] = true ∧ g.oldest = [collReq ws] ∧ collStatus (g.oldest.map fun r => s.collLocal 1 g.n r) = 0 ∧
     (match s.collDest g.n (collReq ws) with | .ok (rs, _) => rs == [(0x18000, 512)] | .error _ => false) = true ∧
     inWindow 0x18000 = false ∧ Memory.wf s.mem = true) ∧
    (let ws : List Word := [0x10113, 0x10000, 0x20000, 0]
     let d := grouped [] [collReq ws]
     let s := { d with dies := (mappedWin State.reset).dies }
     let g := s.getGroup 0 1
     s.collReady g g.oldest [] = true ∧ g.oldest = [collReq ws] ∧ collStatus (g.oldest.map fun r => s.collLocal 1 g.n r) = 0 ∧
     (match s.collDest g.n (collReq ws) with | .ok (rs, _) => rs == [(winBase, 512)] | .error _ => false) = true ∧
     inWindow winBase = true ∧ s.partOf (winCore winBase) = 0) ∧
    (let r : CollReq := { collReq [0x10113, 0, 0, 0] with ended := some (5, 0, 0) }
     let s := grouped [] [r]
     let q : Piece := { src := 514, agent := 22, ctx := 0, dst := 0, off := 0, bytes := [1], engine := true, skip := [], launch := none }
     (s.getGroup 0 1).oldest = [r] ∧ (s.getGroup 0 1).pending.filter (fun r => r.ended.isSome) = [r] ∧ s.pieces = [] ∧
     ∃ x ∈ { s with pieces := [q] }.pieces, x.src = 514 ∧ s.partOf x.dst = 0) := by and_intros <;> decide +kernel

theorem witness_PowerAndFailure :
    (50000000 ≤ ({ State.reset.tap with kick := 50000000 }).kick ∧ State.reset.tap.state ≠ .failed ∧ State.reset.tap.kick < 50000000) ∧
    State.reset.switching = false ∧ (State.reset.modPart 0 fun p => { p with imaged := some 0x4000000 }).switching = true ∧
    (State.reset.getPort 0).st ≠ 2 ∧ ((State.reset.modPort 0 fun p => { p with st := 2 }).getPort 0).st = 2 ∧
    HeatCause.draw ≠ HeatCause.junction 0 ∧ (∀ d < 4, State.reset.tap.heat.contains (.junction d) = false) ∧
    (let s := (graphed .running .armed (fun g => { g with armed := true }) []).modLaunch 0 3 fun l => { l with armed := true }
     s.cutOk = true ∧ 0 < s.cut ∧ Sparse.has (s.getPart 0).graphs 0 = true ∧ (s.getGraph 0 0).armed = true ∧ (s.getGraph 0 0).left ≠ 0 ∧
     Sparse.has (s.getPart 0).launches 3 = true ∧ (s.getLaunch 0 3).armed = true ∧ (s.getLaunch 0 3).first = 0 ∧
     (s.getCore 0).halted = false ∧ ((jobbed id).getPart 0).job.state = 1) ∧
    (115 ≤ ([(0, 115)] : List (Nat × Nat))[0].2 ∧ ∀ x ∈ ([(3, 114), (1, 101), (0, 98), (0, 97)] : List (Nat × Nat)), x.2 < 115) ∧
    5 ≤ ((State.reset.modDie 0 fun d => { d with tokens := 5 }).getDie (127 / 32 - 3)).tokens ∧
    (State.reset.getDie (127 / 32)).tokens < 1 := by and_intros <;> decide +kernel

/-! ### Witnesses: the decoder and the step -/

/-- Words of every length from one to five that decode to a well-formed instruction. -/
theorem witness_DecodeIsWellFormed :
    (decodeWords [0x459E]).toOption.isSome = true ∧ (decodeWords [0xE80C, 0xE6A3, 0xF978]).toOption.isSome = true ∧
    (decodeWords [0xE801, 0xE540, 0xE00F, 0xE000, 0x1D47]).toOption.isSome = true := by decide +kernel

theorem witness_EncodeDecode :
    (Instr.addi 12 3 1000).wf = true ∧ encode (.addi 12 3 1000) = some [0xE500, 0xE00F, 0x18E8] ∧
    (Instr.vfmaF64 4 5 6 2).wf = true ∧ encode (.vfmaF64 4 5 6 2) = some [0xE801, 0xE402, 0x8973] := by decide +kernel

/-- Core 0's control context stands at words, and issues next. -/
def placed (ws : List (BitVec 16)) : State := State.reset.placeWords ws

theorem witness_StepRunsDecoded :
    (let s := placed [0x0001]
     let u := Claims.issuing s 0 0 []
     s.agenda = .issue 0 0 :: [] ∧ s.nextCtx 0 = some 0 ∧ s.mayIssue 0 0 = true ∧ u.cx.fresh = false ∧ u.cx.nul0 = false ∧
     (match u.fetchWords 5 u.cx.pc with
      | .ok (ws, v) => (match decodeWords ws with
        | .ok i => v.needsNext i && (match v.withNext with | .ok _ => true | .error _ => false)
        | .error _ => false)
      | .error _ => false) = true) ∧
    (let u := Claims.issuing (placed [0x4E20]) 0 0 []
     (match u.fetchWords 5 u.cx.pc with
      | .ok (ws, v) => (match decodeWords ws with | .ok i => !v.needsNext i | .error _ => false)
      | .error _ => false) = true) ∧
    (let u := Claims.issuing (placed [0x0000]) 0 0 []
     (match u.fetchWords 5 u.cx.pc with
      | .ok (ws, _) => (match decodeWords ws with | .ok _ => false | .error _ => true)
      | .error _ => false) = true) ∧
    (let u := Claims.issuing ((placed [0x0001]).modCtx 0 0 fun x => { x with nul0 := true }) 0 0 []
     u.cx.nul0 = true ∧ (match u.withNext with | .ok _ => true | .error _ => false) = true) ∧
    (let u := Claims.issuing ((placed [0x0001]).modCtx 0 0 fun x => { x with pc := 0x30000 }) 0 0 []
     (match u.fetchWords 5 u.cx.pc with | .ok _ => false | .error _ => true) = true) ∧
    ({ State.reset with agenda := [.act (.leaseGrant 127)] }).agenda = .act (.leaseGrant 127) :: [] ∧
    (Instr.leaseGrant 127).fields = none ∧
    ((State.reset.stands (.leaseGrant 127)) = false ∧
     ((State.reset.modPart 0 fun p => { p with out := true }).stands (.leaseGrant 127)) = true) ∧
    (let s := { (placed [0x0001]).modPart 0 fun p => { p with set := true } with agenda := [], core := 511 }
     s.agenda = [] ∧ s.tickDue = false ∧ s.due = none ∧ s.nextReady = some (0, 0)) ∧
    (let s := { (placed [0x0001]).modCtx 0 0 fun x => { x with waking := true } with agenda := [.resume 0 0] }
     s.agenda = .resume 0 0 :: [] ∧ s.mayIssue 0 0 = true ∧ (s.getCtx 0 0).waking = true) ∧
    (let u := Claims.issuing ((placed [0x0001]).modCtx 0 0 fun x => { x with fresh := true }) 0 0 []
     u.cx.fresh = true ∧ (match u.fetchNext u.cx.pc with
      | .ok (npc, p) => (match p.fetchNext npc with | .ok _ => true | .error _ => false)
      | .error _ => false) = true) ∧
    (let u := Claims.issuing ((placed [0x0001]).modCtx 0 0 fun x => { x with fresh := true, pc := 0x30000 }) 0 0 []
     (match u.fetchNext u.cx.pc with | .ok _ => false | .error _ => true) = true) ∧
    ((Instr.add 1 2 3).helperMay = true ∧ Instr.gdone.helperMay = false) ∧
    (let s := placed [0x0001]
     (match s.access s.core .fetch 0x1FFFE 2 with
      | .ok (rs, v) => rs == [(0x1FFFE, 2)] && (match v.granuleData 0x1FFFE with | .ok b => !b | .error _ => false)
      | .error _ => false) = true ∧ inWindow 0x1FFFE = false ∧ inWindow (0x1FFFE + 1) = false) := by
  and_intros <;> decide +kernel

/-- Does a step answer a next state of which a condition holds. -/
noncomputable def answers (r : Result) (p : State → Bool) : Bool :=
  match r with
  | .next t => p t
  | _ => false

theorem witness_StepKeepsSafe :
    (placed [0x0001]).safe = true ∧ (placed [0x0001]).storesOk = true ∧ answers (step (placed [0x0001])) (fun _ => true) = true ∧
    State.reset.safe = true ∧ State.reset.storesOk = true ∧ answers (step State.reset) (fun _ => true) = true := by
  decide +kernel

theorem witness_StepAlwaysAnswers :
    State.reset.agenda.head? = none ∧ (placed [0x0001]).agenda.head? = some (.issue 0 0) ∧ (0 : Nat) < 512 ∧ (0 : Nat) < 11 ∧
    ({ State.reset with agenda := [.issue 511 10] }).agenda.head? = some (.issue 511 10) ∧
    ({ State.reset with agenda := [.resume 511 10] }).agenda.head? = some (.resume 511 10) := by decide +kernel

/-- Each event of the statement with all that its clause asks for. -/
theorem witness_EventsComplete :
    (let s := commanded (.mloadW 0 1) 0 (ring128 128) (some 0) 1 0
     let q := entryOf (.mloadW 0 1) 0 0 0 0
     (s.getCore 0).vq = q :: [] ∧ isMatrix q.instr = true ∧ s.matrixFault 0 q = none ∧ s.slotsReady 0 q = .accept [] ∧
     (s.getGrove (groveOf 0)).requests.getLsbD (0 % 4) = true ∧ (s.getGrove (groveOf 0)).holder = some (inGrove 0)) ∧
    ((accepted (.mzero 3) 0 (ringOf 0)).getGrove (groveOf 0)).accepted =
      { core := 0, entry := entryOf (.mzero 3) 0 0 0 0, bank := 0, group := [] } :: [] ∧
    (State.reset.isBound 3 = false ∧ State.reset.canBegin [1, 2, (4 : CReg).setWidth 5] [3] = true ∧
     State.reset.me.copies.length < 8 ∧ (State.reset.me.entry State.reset.me.seq).st ≠ .inFlight ∧
     State.reset.drainable State.reset.core State.reset.ctx = true) ∧
    (let r : CopyReq := { request .moving 8192 4096 with buf := List.replicate 4096 0 }
     let c := (copying r []).getCore 0
     (c.copies.find? fun r => r.ch == 1) = some r ∧ (∀ x ∈ c.copies, x.seq = r.seq → x = r) ∧ c.copyNext = some 1 ∧
     r.stage = .moving ∧ r.want ≤ r.buf.length) ∧
    (let r := request .ended 8192 8192
     let s := copying r []
     ((s.getCore 0).copies.find? fun r => r.ch == 1) = some r ∧ (∀ x ∈ (s.getCore 0).copies, x.seq = r.seq → x = r) ∧
     (∀ p ∈ s.pieces, p.src = 0 → p.ctx ≠ 11 + r.ch.toNat) ∧ r.fault = 0 ∧ r.adv = false ∧ r.event = false) ∧
    (let r := request .posting 0 0
     let s := copying r []
     ((s.getCore 0).copies.find? fun r => r.ch == 1) = some r ∧ (∀ x ∈ (s.getCore 0).copies, x.seq = r.seq → x = r) ∧
     (s.getCore 0).events.length < 256) ∧
    (let s : State := { (analogue .afrun 0 0 fun f => { f with status := .running, window := 16, timeout := 2 }) with time := 2000 }
     let f := (s.getCore 0).fab
     f.status = .running ∧ f.window.toNat * 1000 ≤ 16 * (s.time - f.start).toNat ∧
     (s.time - f.start).toNat = f.timeout.toNat * (1000 * 4 ^ f.tau.toNat)) ∧
    (let ws : List Word := [0x10113, 0x10000, 0x18000, 0]
     let s := grouped ws [collReq ws]
     (s.getEp 0 1).peer = .exchange 0 1 0 ∧ (s.getEp 0 1).msgs = ws :: [] ∧ (s.getEp 0 1).declared = true ∧
     (s.getEp 0 1).send = true ∧
     (grouped [] [collReq ws]).collReady ((grouped [] [collReq ws]).getGroup 0 1) ((grouped [] [collReq ws]).getGroup 0 1).oldest [] = true) ∧
    (let s := { imaging (fun p => { p with switch := some (req 5), restore := some (req 5), imaged := some 0x4000000 }) with time := 5 }
     (s.getPart 0).switch = some (req 5) ∧ (s.getPart 0).restore = some (req 5) ∧ (s.getPart 0).imaged = some 0x4000000 ∧ s.tap.state ≠ .failed ∧
     (req 5).instant.toNat ≤ s.time.toNat ∧
     ((s.stopPart 0 (req 5).gang).settleOwns).owesAny = false) ∧
    ((paged State.reset).haltedWindow 0 0x200000 2 true = false ∧ (paged State.reset).reachable 0 0x200000 2 = true ∧
     (paged State.reset).owns 0xFE 0 2 = true ∧ (paged State.reset).haltedWindow 0 0 2 true = false) ∧
    ({ State.reset with gangDown := 50000000 }).gangPort = false ∧
    (let s := { linked State.reset with gangUp := 10000000 }
     s.gangPort = true ∧ 10000000 ≤ s.gangUp) := by
  decide +kernel

/-! ### Ill-formed terms -/

/-- An ill-formed term for each check, which the check refuses, beside the last term that it takes. -/
theorem test_ill_formed :
    ([.addi 1 2 (2 ^ 45), .addi 9 2 (2 ^ 35), .andi 1 2 (2 ^ 35), .slli 1 2 64, .srli 1 2 64, .srai 1 2 64,
      .ldB 1 2 (2 ^ 43), .stD 1 2 (2 ^ 43), .ldBu 1 2 (2 ^ 33), .ldAcq .c 3 1 2 (2 ^ 33), .stRel .c 3 1 2 (2 ^ 33), .ldlD 1 (2 ^ 35),
      .brEq .plain 1 (2 ^ 44), .brEqTwoReg .plain 1 2 (2 ^ 29), .brLtu .t 9 2 (2 ^ 19), .j (2 ^ 47), .jal (2 ^ 47), .jr 1 (2 ^ 44),
      .jalr 1 (2 ^ 44), .amoAddScoped .c 1 2 3, .amoCasScoped .c 1 2 3 4, .cmoCleanL1 1 2 (2 ^ 36), .vldW 1 2 0 (2 ^ 43),
      .vstD 1 2 0 (2 ^ 33), .hwaitF 1 2 (2 ^ 36), .hadvC 9 2 (2 ^ 26), .afsamp 1 2 (2 ^ 36), .cget 1 12, .cput 1 12, .trap 0x10000,
      .hstart 1 2 (2 ^ 35), .hjoin 1 1024, .pput 1 2 (2 ^ 36), .pcancel 1 2 (2 ^ 36)] : List Instr).all (fun i => !i.wf) = true ∧
    ([.addi 1 2 (2 ^ 45 - 1), .addi 9 2 (2 ^ 35 - 1), .slli 1 2 63, .cget 1 11, .trap 0xFFFF, .hjoin 1 1023, .amoAddScoped .g 1 2 3,
      .hadvC 9 2 (2 ^ 26 - 1), .moduleReset] : List Instr).all Instr.wf = true := by decide +kernel

/-! ### Words of the opcode table, and words written out from the encodings (R137 to R146, R193 to R210) -/

/-- Every row of major 0x0 (integer registers) is read as its own instruction, its operand fields 0 and the page of a
scope the first. -/
theorem test_decode_major0 :
    ([(16, 0x1, .add 0 0 0),
     (16, 0x2, .sub 0 0 0),
     (16, 0x3, .and 0 0 0),
     (16, 0x4, .or 0 0 0),
     (16, 0x5, .xor 0 0 0),
     (16, 0x6, .sll 0 0 0),
     (16, 0x7, .srl 0 0 0),
     (32, 0xE8010000, .sra 0 0 0),
     (32, 0xE8010001, .mul 0 0 0),
     (32, 0xE8010002, .mulh 0 0 0),
     (32, 0xE8010003, .mulhu 0 0 0),
     (32, 0xE8010004, .div 0 0 0),
     (32, 0xE8010005, .divu 0 0 0),
     (32, 0xE8010006, .rem 0 0 0),
     (32, 0xE8010007, .remu 0 0 0),
     (32, 0xE8020000, .addw 0 0 0),
     (32, 0xE8020001, .subw 0 0 0),
     (32, 0xE8020002, .sllw 0 0 0),
     (32, 0xE8020003, .srlw 0 0 0),
     (32, 0xE8020004, .sraw 0 0 0),
     (32, 0xE8020005, .mulw 0 0 0),
     (32, 0xE8020006, .madd 0 0 0 0)] : List (Nat × Nat × Instr)).all
      (fun p => decide (decodeTableWord p.1 p.2.1 = some p.2.2)) = true := by decide +kernel

/-- Every row of major 0x1 (integer immediates) is read as its own instruction, its operand fields 0 and the page of a
scope the first. -/
theorem test_decode_major1 :
    ([(16, 0x1000, .addi 0 0 0),
     (32, 0xE8011000, .andi 0 0 0),
     (32, 0xE8021000, .ori 0 0 0),
     (32, 0xE8031000, .xori 0 0 0),
     (32, 0xE8041000, .slli 0 0 0),
     (32, 0xE8051000, .srli 0 0 0),
     (32, 0xE8061000, .srai 0 0 0),
     (32, 0xE8071000, .muli 0 0 0)] : List (Nat × Nat × Instr)).all
      (fun p => decide (decodeTableWord p.1 p.2.1 = some p.2.2)) = true := by decide +kernel

/-- Every row of major 0x5 (compares and bits) is read as its own instruction, its operand fields 0 and the page of a
scope the first. -/
theorem test_decode_major5 :
    ([(16, 0x5000, .slt 0 0 0),
     (16, 0x5001, .sltu 0 0 0),
     (16, 0x5002, .seq 0 0 0),
     (16, 0x5003, .sel 0 0 0 0),
     (16, 0x5004, .min 0 0 0),
     (16, 0x5005, .max 0 0 0),
     (16, 0x5006, .minu 0 0 0),
     (16, 0x5007, .maxu 0 0 0),
     (32, 0xE8015000, .clz 0 0),
     (32, 0xE8015001, .ctz 0 0),
     (32, 0xE8015002, .popc 0 0),
     (32, 0xE8015003, .rev8 0 0),
     (32, 0xE8015004, .rol 0 0 0),
     (32, 0xE8015005, .ror 0 0 0),
     (32, 0xE8015006, .andn 0 0 0),
     (32, 0xE8015007, .orn 0 0 0)] : List (Nat × Nat × Instr)).all
      (fun p => decide (decodeTableWord p.1 p.2.1 = some p.2.2)) = true := by decide +kernel

/-- Every row of major 0x2 (loads) is read as its own instruction, its operand fields 0 and the page of a
scope the first. -/
theorem test_decode_major2 :
    ([(16, 0x2000, .ldB 0 0 0),
     (16, 0x2010, .ldH 0 0 0),
     (16, 0x2020, .ldW 0 0 0),
     (16, 0x2030, .ldD 0 0 0),
     (32, 0xE8012000, .ldBu 0 0 0),
     (32, 0xE8012010, .ldHu 0 0 0),
     (32, 0xE8012020, .ldWu 0 0 0),
     (32, 0xE8022000, .ldAcq .c 0 0 0 0),
     (32, 0xE8072000, .ldlD 0 0)] : List (Nat × Nat × Instr)).all
      (fun p => decide (decodeTableWord p.1 p.2.1 = some p.2.2)) = true := by decide +kernel

/-- Every row of major 0x3 (stores) is read as its own instruction, its operand fields 0 and the page of a
scope the first. -/
theorem test_decode_major3 :
    ([(16, 0x3000, .stB 0 0 0),
     (16, 0x3010, .stH 0 0 0),
     (16, 0x3020, .stW 0 0 0),
     (16, 0x3030, .stD 0 0 0),
     (32, 0xE8013000, .stRel .c 0 0 0 0)] : List (Nat × Nat × Instr)).all
      (fun p => decide (decodeTableWord p.1 p.2.1 = some p.2.2)) = true := by decide +kernel

/-- Every row of major 0x4 (control transfers) is read as its own instruction, its operand fields 0 and the page of a
scope the first. -/
theorem test_decode_major4 :
    ([(16, 0x4000, .brEq .plain 0 0),
     (16, 0x4100, .brNe .plain 0 0),
     (16, 0x4200, .brLt .plain 0 0),
     (16, 0x4300, .brGe .plain 0 0),
     (16, 0x4C00, .j 0),
     (16, 0x4D00, .jal 0),
     (16, 0x4E00, .jr 0 0),
     (16, 0x4F00, .jalr 0 0)] : List (Nat × Nat × Instr)).all
      (fun p => decide (decodeTableWord p.1 p.2.1 = some p.2.2)) = true := by decide +kernel

/-- Every row of major 0x6 (scalar floating point) is read as its own instruction, its operand fields 0 and the page of a
scope the first. -/
theorem test_decode_major6 :
    ([(16, 0x6000, .faddD 0 0 0),
     (16, 0x6001, .fsubD 0 0 0),
     (16, 0x6002, .fmulD 0 0 0),
     (16, 0x6003, .fdivD 0 0 0),
     (16, 0x6004, .fminD 0 0 0),
     (16, 0x6005, .fmaxD 0 0 0),
     (16, 0x6006, .fsqrtD 0 0),
     (16, 0x6007, .fmaddD 0 0 0 0),
     (32, 0xE8016000, .faddS 0 0 0),
     (32, 0xE8016001, .fsubS 0 0 0),
     (32, 0xE8016002, .fmulS 0 0 0),
     (32, 0xE8016003, .fdivS 0 0 0),
     (32, 0xE8016004, .fminS 0 0 0),
     (32, 0xE8016005, .fmaxS 0 0 0),
     (32, 0xE8016006, .fsqrtS 0 0),
     (32, 0xE8016007, .fmaddS 0 0 0 0),
     (32, 0xE8026000, .feqD 0 0 0),
     (32, 0xE8026001, .fltD 0 0 0),
     (32, 0xE8026002, .fleD 0 0 0),
     (32, 0xE8026003, .feqS 0 0 0),
     (32, 0xE8026004, .fltS 0 0 0),
     (32, 0xE8026005, .fleS 0 0 0),
     (32, 0xE8026006, .fclassD 0 0),
     (32, 0xE8026007, .fclassS 0 0),
     (32, 0xE8036000, .fcvtDS 0 0),
     (32, 0xE8036001, .fcvtSD 0 0),
     (32, 0xE8036002, .fcvtLD 0 0),
     (32, 0xE8036003, .fcvtLuD 0 0),
     (32, 0xE8036004, .fcvtDL 0 0),
     (32, 0xE8036005, .fcvtDLu 0 0),
     (32, 0xE8036006, .fcvtWS 0 0),
     (32, 0xE8036007, .fcvtSW 0 0),
     (32, 0xE8046000, .fcvtWD 0 0),
     (32, 0xE8046001, .fcvtWuD 0 0),
     (32, 0xE8046002, .fcvtLS 0 0),
     (32, 0xE8046003, .fcvtLuS 0 0),
     (32, 0xE8046004, .fcvtSL 0 0),
     (32, 0xE8046005, .fcvtSLu 0 0),
     (32, 0xE8046006, .fcvtWuS 0 0),
     (32, 0xE8046007, .fcvtSWu 0 0)] : List (Nat × Nat × Instr)).all
      (fun p => decide (decodeTableWord p.1 p.2.1 = some p.2.2)) = true := by decide +kernel

/-- Every row of major 0x7 (atomics, fences, maintenance and channels) is read as its own instruction, its operand fields 0 and the page of a
scope the first. -/
theorem test_decode_major7 :
    ([(16, 0x7000, .amoAdd 0 0 0),
     (16, 0x7001, .amoAnd 0 0 0),
     (16, 0x7002, .amoOr 0 0 0),
     (16, 0x7003, .amoXor 0 0 0),
     (16, 0x7004, .amoMin 0 0 0),
     (16, 0x7005, .amoMax 0 0 0),
     (16, 0x7006, .amoSwap 0 0 0),
     (16, 0x7007, .amoCas 0 0 0 0),
     (32, 0xE8017000, .amoAddScoped .g 0 0 0),
     (32, 0xE8017001, .amoAndScoped .g 0 0 0),
     (32, 0xE8017002, .amoOrScoped .g 0 0 0),
     (32, 0xE8017003, .amoXorScoped .g 0 0 0),
     (32, 0xE8017004, .amoMinScoped .g 0 0 0),
     (32, 0xE8017005, .amoMaxScoped .g 0 0 0),
     (32, 0xE8017006, .amoSwapScoped .g 0 0 0),
     (32, 0xE8017007, .amoCasScoped .g 0 0 0 0),
     (32, 0xE8057040, .fence .c .r),
     (32, 0xE8057002, .chsend 0 0),
     (32, 0xE8067000, .cmoCleanL1 0 0 0),
     (32, 0xE8077000, .cmoCleanLlc 0 0 0),
     (32, 0xE8087000, .cmoCleanMem 0 0 0),
     (32, 0xE8097000, .cmoInvL1 0 0 0),
     (32, 0xE80A7000, .cmoInvLlc 0 0 0),
     (32, 0xE80B7000, .cmoInvMem 0 0 0),
     (32, 0xE80C7000, .cmoClinvL1 0 0 0),
     (32, 0xE80D7000, .cmoClinvLlc 0 0 0),
     (32, 0xE80E7000, .cmoClinvMem 0 0 0)] : List (Nat × Nat × Instr)).all
      (fun p => decide (decodeTableWord p.1 p.2.1 = some p.2.2)) = true := by decide +kernel

/-- Every row of major 0x8 (vector lanes) is read as its own instruction, its operand fields 0 and the page of a
scope the first. -/
theorem test_decode_major8 :
    ([(16, 0x8000, .vaddF32 0 0 0 0),
     (16, 0x8001, .vsubF32 0 0 0 0),
     (16, 0x8002, .vmulF32 0 0 0 0),
     (16, 0x8003, .vfmaF32 0 0 0 0),
     (16, 0x8004, .vminF32 0 0 0 0),
     (16, 0x8005, .vmaxF32 0 0 0 0),
     (16, 0x8006, .vdivF32 0 0 0 0),
     (16, 0x8007, .vsqrtF32 0 0 0),
     (32, 0xE8018000, .vaddF64 0 0 0 0),
     (32, 0xE8018001, .vsubF64 0 0 0 0),
     (32, 0xE8018002, .vmulF64 0 0 0 0),
     (32, 0xE8018003, .vfmaF64 0 0 0 0),
     (32, 0xE8018004, .vminF64 0 0 0 0),
     (32, 0xE8018005, .vmaxF64 0 0 0 0),
     (32, 0xE8018006, .vdivF64 0 0 0 0),
     (32, 0xE8018007, .vsqrtF64 0 0 0),
     (32, 0xE8028000, .vaddI32 0 0 0 0),
     (32, 0xE8028001, .vsubI32 0 0 0 0),
     (32, 0xE8028002, .vmulI32 0 0 0 0),
     (32, 0xE8028003, .vand 0 0 0 0),
     (32, 0xE8028004, .vor 0 0 0 0),
     (32, 0xE8028005, .vxor 0 0 0 0),
     (32, 0xE8028006, .vsllI32 0 0 0 0),
     (32, 0xE8028007, .vsrlI32 0 0 0 0),
     (32, 0xE8038000, .vsraI32 0 0 0 0),
     (32, 0xE8038001, .vminI32 0 0 0 0),
     (32, 0xE8038002, .vmaxI32 0 0 0 0),
     (32, 0xE8038003, .vminuI32 0 0 0 0),
     (32, 0xE8038004, .vmaxuI32 0 0 0 0),
     (32, 0xE8038005, .vaddsI32 0 0 0 0),
     (32, 0xE8038006, .vsubsI32 0 0 0 0),
     (32, 0xE8038007, .vmulhI32 0 0 0 0),
     (32, 0xE8048000, .vaddI64 0 0 0 0),
     (32, 0xE8048001, .vsubI64 0 0 0 0),
     (32, 0xE8048002, .vmulI64 0 0 0 0),
     (32, 0xE8048003, .vsllI64 0 0 0 0),
     (32, 0xE8048004, .vsrlI64 0 0 0 0),
     (32, 0xE8048005, .vsraI64 0 0 0 0),
     (32, 0xE8048006, .vminI64 0 0 0 0),
     (32, 0xE8048007, .vmaxI64 0 0 0 0),
     (32, 0xE8058000, .vceqF32 0 0 0 0),
     (32, 0xE8058001, .vcltF32 0 0 0 0),
     (32, 0xE8058002, .vcleF32 0 0 0 0),
     (32, 0xE8058003, .vceqI32 0 0 0 0),
     (32, 0xE8058004, .vcltI32 0 0 0 0),
     (32, 0xE8058005, .vcltuI32 0 0 0 0),
     (32, 0xE8058006, .vceqF64 0 0 0 0),
     (32, 0xE8058007, .vcltF64 0 0 0 0),
     (32, 0xE8068000, .kand 0 0 0),
     (32, 0xE8068001, .kor 0 0 0),
     (32, 0xE8068002, .kxor 0 0 0),
     (32, 0xE8068003, .kandn 0 0 0),
     (32, 0xE8068004, .vsel 0 0 0 0),
     (32, 0xE8068005, .vbcast 0 0 0),
     (32, 0xE8068006, .vmovs 0 0 0 0),
     (32, 0xE8068007, .kpop 0 0 0)] : List (Nat × Nat × Instr)).all
      (fun p => decide (decodeTableWord p.1 p.2.1 = some p.2.2)) = true := by decide +kernel

/-- Every row of major 0x9 (vector memory and masks) is read as its own instruction, its operand fields 0 and the page of a
scope the first. -/
theorem test_decode_major9 :
    ([(16, 0x9020, .vldW 0 0 0 0),
     (16, 0x9030, .vldD 0 0 0 0),
     (32, 0xE8019020, .vstW 0 0 0 0),
     (32, 0xE8019030, .vstD 0 0 0 0),
     (32, 0xE8029000, .vldxW 0 0 0 0),
     (32, 0xE8039000, .vstxW 0 0 0 0),
     (32, 0xE8049000, .kld 0 0),
     (32, 0xE8049001, .kst 0 0)] : List (Nat × Nat × Instr)).all
      (fun p => decide (decodeTableWord p.1 p.2.1 = some p.2.2)) = true := by decide +kernel

/-- Every row of major 0xA (vector permutes and formats) is read as its own instruction, its operand fields 0 and the page of a
scope the first. -/
theorem test_decode_majorA :
    ([(16, 0xA000, .vredsumF32 0 0 0),
     (16, 0xA001, .vredmaxF32 0 0 0),
     (16, 0xA002, .vredminF32 0 0 0),
     (16, 0xA003, .vredsumF64 0 0 0),
     (16, 0xA004, .vredsumI32 0 0 0),
     (16, 0xA005, .vredmaxI32 0 0 0),
     (16, 0xA006, .vredsumI64 0 0 0),
     (16, 0xA007, .vredor 0 0 0),
     (32, 0xE801A000, .vperm 0 0 0),
     (32, 0xE801A001, .vslide 0 0 0),
     (32, 0xE801A002, .vfsl 0 0 0 0),
     (32, 0xE801A003, .vfsr 0 0 0 0),
     (32, 0xE801A004, .vlut3 0 0 0 0),
     (32, 0xE801A005, .vrng 0 0 0),
     (32, 0xE801A006, .vcvtF32I32 0 0),
     (32, 0xE801A00E, .vcvtI32F32 0 0),
     (32, 0xE801A016, .vcvtF64F32 0 0),
     (32, 0xE801A01E, .vcvtF32F64 0 0),
     (32, 0xE801A026, .vcvtF16F32 0 0),
     (32, 0xE801A02E, .vcvtF32F16 0 0),
     (32, 0xE801A036, .vcvtBf16F32 0 0),
     (32, 0xE801A03E, .vcvtF32Bf16 0 0),
     (32, 0xE802A000, .vscanF32 0 0 0),
     (32, 0xE802A001, .vscanI32 0 0 0),
     (32, 0xE802A002, .vsortxF32 0 0 0),
     (32, 0xE802A003, .vexp2F32 0 0 0),
     (32, 0xE803A000, .venc 0 0 0),
     (32, 0xE803A001, .vdec 0 0 0)] : List (Nat × Nat × Instr)).all
      (fun p => decide (decodeTableWord p.1 p.2.1 = some p.2.2)) = true := by decide +kernel

/-- Every row of major 0xB (the matrix array) is read as its own instruction, its operand fields 0 and the page of a
scope the first. -/
theorem test_decode_majorB :
    ([(16, 0xB000, .mlease),
     (16, 0xB001, .mleaseRel),
     (16, 0xB002, .mloadW 0 0),
     (16, 0xB003, .mswap),
     (16, 0xB004, .mmac 0 0 0),
     (16, 0xB005, .mgrp 0 0 0 0),
     (16, 0xB006, .mst 0 0),
     (16, 0xB007, .mzero 0),
     (32, 0xE801B000, .mloadT 0 0 0)] : List (Nat × Nat × Instr)).all
      (fun p => decide (decodeTableWord p.1 p.2.1 = some p.2.2)) = true := by decide +kernel

/-- Every row of major 0xC (rings and copies) is read as its own instruction, its operand fields 0 and the page of a
scope the first. -/
theorem test_decode_majorC :
    ([(16, 0xC000, .cpq 0 0 0 0 0),
     (16, 0xC004, .cpwait 0 0),
     (32, 0xE801C000, .hset 0 0 0),
     (32, 0xE801C001, .hget 0 0 .base),
     (32, 0xE801C002, .evwait 0 0),
     (32, 0xE801C003, .evtry 0 0),
     (32, 0xE802C000, .hwaitF 0 0 0),
     (32, 0xE803C000, .hwaitE 0 0 0),
     (32, 0xE804C000, .hadvP 0 0 0),
     (32, 0xE805C000, .hadvC 0 0 0)] : List (Nat × Nat × Instr)).all
      (fun p => decide (decodeTableWord p.1 p.2.1 = some p.2.2)) = true := by decide +kernel

/-- Every row of major 0xD (the fabric) is read as its own instruction, its operand fields 0 and the page of a
scope the first. -/
theorem test_decode_majorD :
    ([(16, 0xD000, .afcfgClaim 0 0),
     (16, 0xD001, .afcfgRel),
     (16, 0xD002, .afcfg 0 0),
     (16, 0xD003, .afscale 0),
     (16, 0xD004, .afrun),
     (16, 0xD005, .afwait 0),
     (16, 0xD006, .afwaitTry 0),
     (32, 0xE801D000, .afsamp 0 0 0)] : List (Nat × Nat × Instr)).all
      (fun p => decide (decodeTableWord p.1 p.2.1 = some p.2.2)) = true := by decide +kernel

/-- Every row of major 0xF (the system) is read as its own instruction, its operand fields 0 and the page of a
scope the first. -/
theorem test_decode_majorF :
    ([(16, 0xF000, .cget 0 0),
     (32, 0xE801F000, .cput 0 0),
     (32, 0xE805F000, .trap 0),
     (32, 0xE803F002, .eret),
     (32, 0xE802F000, .hstart 0 0 0),
     (32, 0xE803F000, .hexit),
     (32, 0xE804F000, .hjoin 0 0),
     (32, 0xE803F001, .gdone),
     (32, 0xE803F003, .gcancel .unit 0),
     (32, 0xE803F004, .garm 0 0),
     (32, 0xE803F005, .larm 0 0),
     (32, 0xE803F006, .lpatch 0 0 0),
     (32, 0xE806F000, .pput 0 0 0),
     (32, 0xE807F000, .ptake 0 0 0),
     (32, 0xE808F000, .ptakeW 0 0 0),
     (32, 0xE809F000, .pcancel 0 0 0),
     (32, 0xE80AF000, .barInit 0 0 .or),
     (32, 0xE80BF000, .barWait 0 0),
     (32, 0xE80CF000, .barVote 0 0 0 0),
     (32, 0xE80DF000, .itake 0),
     (32, 0xE80DF001, .irel 0),
     (32, 0xE80DF002, .iwait 0),
     (32, 0xE80DF003, .iwaitP 0 0)] : List (Nat × Nat × Instr)).all
      (fun p => decide (decodeTableWord p.1 p.2.1 = some p.2.2)) = true := by decide +kernel

/-- Words of each layout and prefix, written out bit by bit from the spec's encodings, beside the instructions they are. -/
noncomputable def worked : List (List (BitVec 16) × Instr) :=
    [([0xE500, 0xE00F, 0x18E8], .addi 12 3 1000),
     ([0x459E], .brNe .t 4 (-2)),
     ([0x4E20], .jr 1 0),
     ([0xE80C, 0xE6A3, 0xF978], .barVote 3 20 21 23),
     ([0xE802, 0xC601], .hwaitF 3 0 1),
     ([0xE801, 0xE540, 0x1D47], .andi 14 13 7),
     ([0xE801, 0xE402, 0x8973], .vfmaF64 4 5 6 2),
     ([0xE801, 0xE406, 0xA29C], .vlut3 1 2 3 6),
     ([0xE45C, 0xCE99], .cpq 1 7 10 11 12),
     ([0xC1C5], .cpwait 1 7),
     ([0xE801, 0xE450, 0xC898], .hset 4 10 11),
     ([0xE427, 0xB56D], .mgrp 2 5 21 7),
     ([0xE801, 0xB518], .mloadT 2 4 3),
     ([0xE807, 0xE440, 0xE001, 0x7080], .cmoCleanLlc 10 0 64),
     ([0xE805, 0xE700, 0x7029], .chbind 0 5),
     ([0xE805, 0x70E2], .chsend 3 4),
     ([0xFA06], .cget 5 6),
     ([0xE801, 0xF100], .cput 4 0),
     ([0xE805, 0xF007], .trap 7),
     ([0xE803, 0xF4C3], .gcancel .graph 3),
     ([0xE803, 0xE405, 0xF0E6], .lpatch 3 4 5),
     ([0xE80A, 0xE403, 0xF150], .barInit 3 5 .max),
     ([0xE801, 0xE540, 0xD041], .afsamp 8 9 1),
     ([0xE440, 0x95A0], .vldW 2 14 0 0),
     ([0xE802, 0xE540, 0xE000, 0xF460], .hstart 10 9 32),
     ([0xE806, 0xE540, 0xFA83], .pput 13 10 3),
     ([0xE80D, 0xFB83], .iwaitP 5 6),
     ([0xE801, 0xE3FE, 0x48A0], .brEqTwoReg .n 1 2 (-2)),
     ([0xE801, 0xE3FE, 0x48A2], .brNeTwoReg .n 1 2 (-2)),
     ([0xE801, 0xE3FE, 0x48A4], .brLtTwoReg .n 1 2 (-2)),
     ([0xE801, 0xE3FE, 0x48A6], .brGeTwoReg .n 1 2 (-2)),
     ([0xE801, 0xE3FE, 0x48A8], .brLtu .n 1 2 (-2)),
     ([0xE801, 0xE3FE, 0x48AA], .brGeu .n 1 2 (-2))]

/-- The decoder reads each as its instruction. -/
theorem test_decode_words : worked.all (fun p => decide ((decodeWords p.1).toOption = some p.2)) = true := by
  decide +kernel

/-- The encoder gives the same words. -/
theorem test_encode_words : worked.all (fun p => decide (encode p.2 = some p.1)) = true := by decide +kernel

/-! ### Single steps -/

/-- The state that an instruction leaves. -/
noncomputable def after (i : Instr) (s : State) : State :=
  match exec i s with
  | .next t => t
  | _ => s

/-- The register that an instruction leaves, of the registers it finds. -/
noncomputable def result (i : Instr) (l : Sparse Word) (d : SReg) : Word := (after i (regs l)).rd d

/-- Sums wrap at 64 bits, and the 32-bit forms sign-extend (R214). -/
theorem test_add_wraps :
    result (.add 3 1 2) [(1, 0xFFFFFFFFFFFFFFFF), (2, 2)] 3 = 1 ∧
    result (.addw 3 1 2) [(1, 0x7FFFFFFF), (2, 1)] 3 = 0xFFFFFFFF80000000 := by decide +kernel

/-- Nothing is written to s0 (R147). -/
theorem test_s0_stays : result (.addi 0 1 5) [(1, 7)] 0 = 0 := by decide +kernel

/-- A source that is also the destination is read first; the immediate is signed (R93, R216). -/
theorem test_addi_same : result (.addi 1 1 (-1)) [(1, 0)] 1 = 0xFFFFFFFFFFFFFFFF := by decide +kernel

/-- The largest shift, and the sign that comes in; only the low six bits of S(b) count (R214, R216). -/
theorem test_shifts :
    result (.slli 3 1 63) [(1, 3)] 3 = 0x8000000000000000 ∧
    result (.sra 3 1 2) [(1, 0x8000000000000000), (2, 4)] 3 = 0xF800000000000000 ∧
    result (.srl 3 1 2) [(1, 0x8000000000000000), (2, 68)] 3 = 0x0800000000000000 := by decide +kernel

/-- The high half of a signed and of an unsigned product (R214). -/
theorem test_mulh :
    result (.mulh 3 1 2) [(1, 0xFFFFFFFFFFFFFFFF), (2, 2)] 3 = 0xFFFFFFFFFFFFFFFF ∧
    result (.mulhu 3 1 2) [(1, 0xFFFFFFFFFFFFFFFF), (2, 2)] 3 = 1 := by decide +kernel

/-- Division truncates toward zero, the remainder takes the dividend's sign (R215). -/
theorem test_division :
    result (.div 3 1 2) [(1, 0xFFFFFFFFFFFFFFF9), (2, 2)] 3 = 0xFFFFFFFFFFFFFFFD ∧
    result (.rem 3 1 2) [(1, 0xFFFFFFFFFFFFFFF9), (2, 2)] 3 = 0xFFFFFFFFFFFFFFFF := by decide +kernel

/-- Counts at a word of zeros, and bytes reversed (R217). -/
theorem test_bits :
    result (.clz 3 1) [] 3 = 64 ∧ result (.rev8 3 1) [(1, 0x0102030405060708)] 3 = 0x0807060504030201 := by decide +kernel

/-- 1.0 + 2.0 is 3.0 (R227). -/
theorem test_fadd : result (.faddD 3 1 2) [(1, 0x3FF0000000000000), (2, 0x4000000000000000)] 3 = 0x4008000000000000 := by
  decide +kernel

/-- A byte stored reads back at once, with its sign and without (R218). -/
theorem test_load_store :
    (let s := after (.stB 2 1 0) (mapped (regs [(1, 0x10010), (2, 0x1FF)]))
     (after (.ldB 3 1 0) s).rd 3 = 0xFFFFFFFFFFFFFFFF ∧ (after (.ldBu 3 1 0) s).rd 3 = 0xFF ∧
     (after (.ldB 3 1 1) s).rd 3 = (after (.ldB 3 1 1) (mapped (regs [(1, 0x10010)]))).rd 3) := by decide +kernel

/-- The old value is the result and the sum is stored (R230). -/
theorem test_amo_add :
    (let s := after (.amoAdd 3 1 2) (after (.stD 2 1 0) (mapped (regs [(1, 0x10010), (2, 5)])))
     s.rd 3 = 5 ∧ (after (.ldD 4 1 0) s).rd 4 = 10) := by decide +kernel

/-- The head of a core's control context, before an instruction at 0x100. -/
def at100 (l : Sparse Word) : State :=
  (regs l).modCtx 0 0 fun x => { x with pc := 0x100, npc := 0x102, nnpc := 0x104, nextAddr := 0x106, fresh := false }

/-- The chain and its bits. -/
noncomputable def chainOf (s : State) : List Word := [s.cx.pc, s.cx.npc, s.cx.nnpc]

/-- NUL and SL, two bits each. -/
noncomputable def bitsOf (s : State) : List Bool := [s.cx.nul0, s.cx.nul1, s.cx.sl0, s.cx.sl1]

/-- The chain of the worked example (R156): its first two steps, and its first branch with .t and not taken. -/
theorem test_worked_chain :
    (let s := after (.brEq .plain 1 0x20) (at100 [])
     let t := after (.brEq .plain 1 0x3F) (s.modCtx 0 0 fun x => { x with nextAddr := 0x142 })
     let u := after (.brEq .t 1 0x20) (at100 [(1, 1)])
     chainOf s = [0x102, 0x104, 0x140] ∧ bitsOf s = [false, false, true, true] ∧
     chainOf t = [0x104, 0x140, 0x180] ∧ bitsOf t = [false, false, true, true] ∧
     chainOf u = [0x102, 0x104, 0x106] ∧ bitsOf u = [true, true, true, true]) := by
  decide +kernel

/-- A call writes the address after both its slots to s1 (R153), and jalr s1 jumps to the old s1. -/
theorem test_calls :
    (after (.jal 0x20) (at100 [])).rd 1 = 0x106 ∧
    (let s := after (.jalr 1 0) (at100 [(1, 0x400)])
     s.rd 1 = 0x106 ∧ s.cx.nnpc = 0x400) := by decide +kernel

/-- A trap instruction saves the chain after its own step and enters at its class's vector, in trap level 1; eret goes back
(R310, R311, R329). -/
theorem test_trap_eret :
    (let t := after (.trap 7) (trapping (at100 []))
     t.cx.xpc = 0x102 ∧ t.cx.xnnpc = 0x106 ∧ t.cx.tl = true ∧ t.cx.fresh = true ∧
     chainOf (after .eret t) = [0x102, 0x104, 0x106] ∧ (after .eret t).cx.tl = false) := by decide +kernel

/-- A number past the last control register is ILLEGAL at the cput: the chain does not go on (R300). -/
theorem test_cput_illegal :
    (let t := after (.cput 1 12) (trapping (at100 []))
     t.cx.tl = true ∧ t.cx.xpc = 0x100) := by decide +kernel

/-- irel of an empty inbox faults, and the instruction has not executed (R320). -/
theorem test_irel_empty :
    (let t := after (.irel 3) (trapping (at100 []))
     t.cx.tl = true ∧ t.cx.xpc = 0x100) := by decide +kernel

/-- hexit in the control context is ILLEGAL (R35, R313). -/
theorem test_hexit_illegal :
    (let t := after .hexit (trapping (at100 []))
     t.cx.tl = true ∧ t.cx.xpc = 0x100) := by decide +kernel

/-- The lone participant of a barrier of count 1 goes on at once (R326). -/
theorem test_bar_wait :
    (let s := (regs []).modBar 0 fun _ => { count := 1, op := .max, gen := 0, arrivals := [] }
     let t := after (.barWait 0 3) s
     (t.getCtx 0 0).mode = .ready ∧ ((t.getBar 0).arrivals.length = 0)) := by decide +kernel

/-- A vector sum of words under a mask: the active lanes wrap, an inactive lane keeps its value (R239, R242). -/
theorem test_vector_add :
    (let s := (vec (.vaddI32 3 1 2 1) 0 0 0).modCore 0 fun c =>
       { c with v := [(1, Vector.replicate 128 0xFFFFFFFF), (2, Vector.replicate 128 2), (3, Vector.replicate 128 9)], k := [(1, 5)] }
     let c := (after (.vectorInstructionExecute 0) s).getCore 0
     c.vq = [] ∧ laneAt (c.getV 3) 0 = 1 ∧ laneAt (c.getV 3) 1 = 9 ∧ laneAt (c.getV 3) 2 = 1) := by decide +kernel

/-- Right after reset, with a program's word placed, one step runs it: here `add s0, s0, s0`, two bytes long. -/
theorem test_first_step :
    (match step (State.reset.withFetchWord 16 1) with
     | .next t => t.cx.pc == BitVec.ofNat 64 loadBase + 2
     | _ => false) = true := by decide +kernel

end Sys2Proof.Tests
end

section
/-! SUPPORT. Every step keeps the order of the machine's stores and never refuses (O29, O30, O31): first the order as one
predicate with a level, then one law per operation, in the order of the model's files, then the step and the obligations. -/

-- Proofs elaborated one after another stay within the check's memory.
set_option Elab.async false

/-! SUPPORT. The order that every step keeps, as one predicate with a level, and what the accessors do to it.

Level 0 asks nothing, level 1 what `State.safe` asks and level 2 what `State.storesOk` asks too. So one law per operation, an
operation keeps the order at every level, serves three statements: a step answers (level 0), it keeps `safe` (level 1), and it
keeps `storesOk` (level 2). -/

namespace Sys2Proof.Machine

/-- A core's own memories are in canonical form (from level 2 on). -/
structure Core.Sound (n : Nat) (c : Core) : Prop where
  scratch : 1 < n → Memory.wf c.scratch = true
  inbox : 1 < n → Memory.wf c.port.inbox = true

/-- A grove's weight banks are in canonical form (from level 2 on). -/
structure Grove.Sound (n : Nat) (g : Grove) : Prop where
  banks : 1 < n → ∀ b ∈ g.banks, Memory.wf b.2 = true

/-- A die lists its coherent copies (from level 1 on) and its claimed stands (from level 2 on) in rising order. -/
structure Die.Sound (n : Nat) (d : Die) : Prop where
  copies : 0 < n → Sparse.sorted d.l1 = true
  stands : 1 < n → Sparse.sorted d.owner = true

/-- What a memory die holds is in canonical form, and its slice lists its lines in rising order (from level 2 on). -/
structure MemDie.Sound (n : Nat) (m : MemDie) : Prop where
  gddr : 1 < n → Memory.wf m.gddr = true
  lines : 1 < n → Sparse.sorted m.llc = true

/-- The order that every step keeps, up to a level. -/
structure State.Sound (n : Nat) (s : State) : Prop where
  mem : 0 < n → Memory.wf s.mem = true
  owners : 0 < n → Memory.wf s.owners = true
  cut : 0 < n → s.cutOk = true
  dies : ∀ d ∈ s.dies, d.2.Sound n
  cores : ∀ c ∈ s.cores, c.2.Sound n
  groves : ∀ g ∈ s.groves, g.2.Sound n
  mems : ∀ m ∈ s.mems, m.2.Sound n
  tcm : 1 < n → Memory.wf s.tap.tcm = true

/-! ### The levels -/

theorem State.safe_iff (s : State) :
    s.safe = true ↔ Memory.wf s.mem = true ∧ Memory.wf s.owners = true ∧ s.cutOk = true ∧
      ∀ d ∈ s.dies, Sparse.sorted d.2.l1 = true := by
  simp [State.safe, State.copiesOk, and_assoc]

theorem State.storesOk_iff (s : State) :
    s.storesOk = true ↔ (∀ c ∈ s.cores, Memory.wf c.2.scratch = true ∧ Memory.wf c.2.port.inbox = true) ∧
      (∀ g ∈ s.groves, ∀ b ∈ g.2.banks, Memory.wf b.2 = true) ∧ Memory.wf s.tap.tcm = true ∧
      (∀ m ∈ s.mems, Memory.wf m.2.gddr = true ∧ Sparse.sorted m.2.llc = true) ∧
      ∀ d ∈ s.dies, Sparse.sorted d.2.owner = true := by
  simp only [State.storesOk, Bool.and_eq_true, List.all_eq_true, and_assoc]

/-- What the levels stand for. -/
theorem State.sound_iff (n : Nat) (s : State) :
    s.Sound n ↔ (0 < n → s.safe = true) ∧ (1 < n → s.storesOk = true) := by
  rw [State.safe_iff, State.storesOk_iff]
  constructor
  · intro h
    exact ⟨fun hn => ⟨h.mem hn, h.owners hn, h.cut hn, fun d hd => (h.dies d hd).copies hn⟩,
      fun hn => ⟨fun c hc => ⟨(h.cores c hc).scratch hn, (h.cores c hc).inbox hn⟩, fun g hg => (h.groves g hg).banks hn,
        h.tcm hn, fun m hm => ⟨(h.mems m hm).gddr hn, (h.mems m hm).lines hn⟩, fun d hd => (h.dies d hd).stands hn⟩⟩
  · rintro ⟨safe, stores⟩
    exact
      { mem := fun hn => (safe hn).1
        owners := fun hn => (safe hn).2.1
        cut := fun hn => (safe hn).2.2.1
        dies := fun d hd => ⟨fun hn => (safe hn).2.2.2 d hd, fun hn => (stores hn).2.2.2.2 d hd⟩
        cores := fun c hc => ⟨fun hn => ((stores hn).1 c hc).1, fun hn => ((stores hn).1 c hc).2⟩
        groves := fun g hg => ⟨fun hn => (stores hn).2.1 g hg⟩
        mems := fun m hm => ⟨fun hn => ((stores hn).2.2.2.1 m hm).1, fun hn => ((stores hn).2.2.2.1 m hm).2⟩
        tcm := fun hn => (stores hn).2.2.1 }

theorem State.sound_zero (s : State) : s.Sound 0 := by simp [State.sound_iff]
theorem State.sound_one_iff (s : State) : s.Sound 1 ↔ s.safe = true := by simp [State.sound_iff]
theorem State.sound_two_iff (s : State) : s.Sound 2 ↔ s.safe = true ∧ s.storesOk = true := by simp [State.sound_iff]

/-! ### Sparse maps -/

/-- What holds of a default and of every listed value holds of the value at a key. -/
theorem Sparse.get_of_forall {α : Type} {P : α → Prop} {d : α} {m : Sparse α} (hd : P d) (hm : ∀ x ∈ m, P x.2)
    (k : Nat) : P (Sparse.get d m k) := by
  induction m with
  | nil => exact hd
  | cons x m ih =>
    obtain ⟨hx, hm⟩ := List.forall_mem_cons.1 hm
    unfold Sparse.get
    split
    · exact hx
    · split
      · exact hd
      · exact ih hm

/-- What holds of a value and of every listed one holds of every value listed after the key is set. -/
theorem Sparse.forall_mem_set {α : Type} {P : α → Prop} {m : Sparse α} {k : Nat} {v : α} (hm : ∀ x ∈ m, P x.2)
    (hv : P v) : ∀ x ∈ Sparse.set m k v, P x.2 := fun x hx =>
  (Sparse.mem_set m k v x hx).elim (fun e => e ▸ hv) (hm x)

/-! ### Parts of the state -/

theorem Core.sound_reset (n : Nat) : Core.reset.Sound n := ⟨fun _ => rfl, fun _ => rfl⟩
theorem Grove.sound_reset (n : Nat) : Grove.reset.Sound n := ⟨fun _ b hb => by cases hb⟩
theorem Die.sound_reset (n : Nat) : Die.reset.Sound n := ⟨fun _ => rfl, fun _ => rfl⟩
theorem MemDie.sound_reset (n : Nat) : MemDie.reset.Sound n := ⟨fun _ => rfl, fun _ => rfl⟩

/-- A core with the same memories. -/
theorem Core.Sound.frame {n : Nat} {c d : Core} (h : c.Sound n) (hs : d.scratch = c.scratch := by rfl)
    (hp : d.port.inbox = c.port.inbox := by rfl) : d.Sound n := ⟨hs ▸ h.scratch, hp ▸ h.inbox⟩

/-- A grove with the same banks. -/
theorem Grove.Sound.frame {n : Nat} {g k : Grove} (h : g.Sound n) (hb : k.banks = g.banks := by rfl) : k.Sound n :=
  ⟨hb ▸ h.banks⟩

/-- A die with the same copies and stands. -/
theorem Die.Sound.frame {n : Nat} {d e : Die} (h : d.Sound n) (hl : e.l1 = d.l1 := by rfl)
    (ho : e.owner = d.owner := by rfl) : e.Sound n := ⟨hl ▸ h.copies, ho ▸ h.stands⟩

namespace State.Sound
variable {n : Nat} {s : State}

theorem getCore (h : s.Sound n) (c : Nat) : (s.getCore c).Sound n := Sparse.get_of_forall (Core.sound_reset n) h.cores c
theorem getGrove (h : s.Sound n) (g : Nat) : (s.getGrove g).Sound n := Sparse.get_of_forall (Grove.sound_reset n) h.groves g
theorem getDie (h : s.Sound n) (d : Nat) : (s.getDie d).Sound n := Sparse.get_of_forall (Die.sound_reset n) h.dies d
theorem getMem (h : s.Sound n) (d : Nat) : (s.getMem d).Sound n := Sparse.get_of_forall (MemDie.sound_reset n) h.mems d

/-- A state that differs only in what no level speaks of. -/
theorem frame {time agenda tickDue core ctx draws parts pieces conns outbox ports sync gangUp gangDown rate log stats}
    (h : s.Sound n) :
    State.Sound n { s with time := time, agenda := agenda, tickDue := tickDue, core := core, ctx := ctx, draws := draws,
                           parts := parts, pieces := pieces, conns := conns, outbox := outbox, ports := ports, sync := sync,
                           gangUp := gangUp, gangDown := gangDown, rate := rate, log := log, stats := stats } := { h with }

/-- A state whose taproot holds the same TCM. -/
theorem setTap {time agenda tickDue core ctx draws parts pieces conns outbox ports sync gangUp gangDown rate log stats t}
    (h : s.Sound n) (ht : t.tcm = s.tap.tcm := by rfl) :
    State.Sound n { s with time := time, agenda := agenda, tickDue := tickDue, core := core, ctx := ctx, draws := draws,
                           parts := parts, pieces := pieces, conns := conns, outbox := outbox, ports := ports, sync := sync,
                           gangUp := gangUp, gangDown := gangDown, rate := rate, tap := t, log := log, stats := stats } :=
  { h with tcm := fun hn => ht ▸ h.tcm hn }

theorem setMem {m : Memory} (h : s.Sound n) (hm : 0 < n → Memory.wf m = true) : State.Sound n { s with mem := m } :=
  { h with mem := hm }

/-- A change of a core that keeps its memories in order. -/
theorem modCoreTo {c : Nat} {f : Core → Core} (h : s.Sound n) (hf : ∀ {x : Core}, x.Sound n → (f x).Sound n) :
    (s.modCore c f).Sound n := { h with cores := Sparse.forall_mem_set h.cores (hf (h.getCore c)) }

/-- A change of a core that leaves its memories alone. -/
theorem modCore {c : Nat} {f : Core → Core} (h : s.Sound n) (hs : ∀ x, (f x).scratch = x.scratch := by intro; rfl)
    (hp : ∀ x, (f x).port.inbox = x.port.inbox := by intro; rfl) : (s.modCore c f).Sound n :=
  h.modCoreTo fun {x} hx => hx.frame (hs x) (hp x)

theorem modCtx {c k : Nat} {f : Ctx → Ctx} (h : s.Sound n) : (s.modCtx c k f).Sound n := h.modCore
theorem modMe {f : Core → Core} (h : s.Sound n) (hs : ∀ x, (f x).scratch = x.scratch := by intro; rfl)
    (hp : ∀ x, (f x).port.inbox = x.port.inbox := by intro; rfl) : (s.modMe f).Sound n := h.modCore hs hp
theorem modCx {f : Ctx → Ctx} (h : s.Sound n) : (s.modCx f).Sound n := h.modCtx
theorem modEp {c e : Nat} {f : Endpoint → Endpoint} (h : s.Sound n) : (s.modEp c e f).Sound n := h.modCore
theorem modRing {c : Nat} {r : HReg} {f : Ring → Ring} (h : s.Sound n) : (s.modRing c r f).Sound n := h.modCore

/-- A change of a grove that keeps its banks in order. -/
theorem modGroveTo {g : Nat} {f : Grove → Grove} (h : s.Sound n) (hf : ∀ {x : Grove}, x.Sound n → (f x).Sound n) :
    (s.modGrove g f).Sound n := { h with groves := Sparse.forall_mem_set h.groves (hf (h.getGrove g)) }

/-- A change of a grove that leaves its banks alone. -/
theorem modGrove {g : Nat} {f : Grove → Grove} (h : s.Sound n) (hb : ∀ x, (f x).banks = x.banks := by intro; rfl) :
    (s.modGrove g f).Sound n := h.modGroveTo fun {x} hx => hx.frame (hb x)

/-- A change of a die that keeps its copies and its stands in order. -/
theorem modDieTo {d : Nat} {f : Die → Die} (h : s.Sound n) (hf : ∀ {x : Die}, x.Sound n → (f x).Sound n) :
    (s.modDie d f).Sound n := { h with dies := Sparse.forall_mem_set h.dies (hf (h.getDie d)) }

/-- A change of a die that leaves its copies and its stands alone. -/
theorem modDie {d : Nat} {f : Die → Die} (h : s.Sound n) (hl : ∀ x, (f x).l1 = x.l1 := by intro; rfl)
    (ho : ∀ x, (f x).owner = x.owner := by intro; rfl) : (s.modDie d f).Sound n :=
  h.modDieTo fun {x} hx => hx.frame (hl x) (ho x)

theorem modBar {b : Nat} {f : Barrier → Barrier} (h : s.Sound n) : (s.modBar b f).Sound n := h.modDie

/-- A change of a memory die that keeps what it holds in order. -/
theorem modMemTo {d : Nat} {f : MemDie → MemDie} (h : s.Sound n) (hf : ∀ {x : MemDie}, x.Sound n → (f x).Sound n) :
    (s.modMem d f).Sound n := { h with mems := Sparse.forall_mem_set h.mems (hf (h.getMem d)) }

theorem modPart {p : Nat} {f : Part → Part} (h : s.Sound n) : (s.modPart p f).Sound n := h.frame
theorem modPool {p k : Nat} {f : Pool → Pool} (h : s.Sound n) : (s.modPool p k f).Sound n := h.frame
theorem modLaunch {p i : Nat} {f : Launch → Launch} (h : s.Sound n) : (s.modLaunch p i f).Sound n := h.frame
theorem modGraph {p i : Nat} {f : Graph → Graph} (h : s.Sound n) : (s.modGraph p i f).Sound n := h.frame
theorem modPort {p : Nat} {f : ExtPort → ExtPort} (h : s.Sound n) : (s.modPort p f).Sound n := h.frame
theorem send {m : Out} (h : s.Sound n) : (s.send m).Sound n := h.frame
theorem drawn (h : s.Sound n) : s.drawn.Sound n := h.frame

/-! ### Choice and repetition -/

theorem ite {t : State} {c : Prop} [Decidable c] (hs : s.Sound n) (ht : t.Sound n) : (if c then s else t).Sound n := by
  split
  · exact hs
  · exact ht

/-- A value that a list may not have. -/
theorem getD {o : Option State} (ho : ∀ {t}, o = some t → t.Sound n) (hs : s.Sound n) : (o.getD s).Sound n := by
  cases o with
  | none => exact hs
  | some t => exact ho rfl

theorem foldl {α : Type} {f : State → α → State} {l : List α} (h : s.Sound n)
    (hf : ∀ {t : State} {a : α}, t.Sound n → (f t a).Sound n) : (l.foldl f s).Sound n :=
  List.foldlRecOn l f h fun _ ht _ _ => hf ht

/-- A repetition that carries a value along. -/
theorem foldl_fst {α β : Type} {f : State × β → α → State × β} {l : List α} {b : β} (h : s.Sound n)
    (hf : ∀ {x : State × β} {a : α}, x.1.Sound n → (f x a).1.Sound n) : (l.foldl f (s, b)).1.Sound n :=
  List.foldlRecOn l f (motive := fun x => x.1.Sound n) h fun _ hx _ _ => hf hx

end State.Sound
end Sys2Proof.Machine

/-! SUPPORT. Translation, the dies' copies, the LLC and the stores of a core keep the order (R88 to R109). -/

namespace Sys2Proof.Machine

/-- A change of memory dies, of which each keeps its order. -/
theorem MemDie.Sound.setLine {n : Nat} {m : MemDie} (h : m.Sound n) (k l : Nat) :
    MemDie.Sound n { m with llc := m.llc.set k l } := { h with lines := fun hn => Sparse.sorted_set _ _ _ (h.lines hn) }

theorem Die.Sound.setCopy {n : Nat} {d : Die} (h : d.Sound n) (k : Nat) (l : Line) :
    Die.Sound n { d with l1 := d.l1.set k l } := { h with copies := fun hn => Sparse.sorted_set _ _ _ (h.copies hn) }

namespace State.Sound
variable {n : Nat} {s t : State}

/-! ### Translation -/

theorem keepTlb {core va : Nat} {acc : Access} {e : TlbEntry} (h : s.Sound n) : (s.keepTlb core acc va e).Sound n := by
  unfold State.keepTlb
  split
  exact h.modDie.modCore (by intro; split <;> rfl) (by intro; split <;> rfl)

theorem xlateRange {core fuel k : Nat} {acc : Access} {va : Word} {rs : Runs} (h : s.Sound n)
    (e : s.xlateRange core acc fuel va k = .ok (rs, t)) : t.Sound n := by
  induction fuel generalizing s va k rs with
  | zero => cases e; exact h
  | succ fuel ih =>
    unfold State.xlateRange at e
    split at e
    · cases e; exact h
    · split at e
      · cases e
      · dsimp only at e
        split at e
        · cases e
        · next he => cases e; exact ih h.keepTlb he

theorem access {core k : Nat} {acc : Access} {va : Word} {rs : Runs} (h : s.Sound n)
    (e : s.access core acc va k = .ok (rs, t)) : t.Sound n := by
  unfold State.access at e
  split at e
  · cases e
  · next hx =>
    split at e
    · cases e
    · cases e; exact h.xlateRange hx

/-! ### The LLC -/

theorem llcBack {l : Nat} (h : s.Sound n) : (s.llcBack l).Sound n :=
  h.modMemTo fun hm => { hm with gddr := fun hn => Memory.wf_putAll _ _ _ (hm.gddr hn) }

theorem llcKeep {l : Nat} (h : s.Sound n) : (s.llcKeep l).Sound n := by
  unfold State.llcKeep
  dsimp only
  split
  · exact h
  · split
    · exact h.modMemTo fun hm => hm.setLine _ _
    · exact h.llcBack.modMemTo fun hm => hm.setLine _ _
    · exact h.llcBack

theorem writeLlc {pa : Nat} {bs : List Byte} (h : s.Sound n) : (s.writeLlc pa bs).Sound n := by
  have hm := h.setMem fun hn => Memory.wf_putAll s.mem pa bs (h.mem hn)
  unfold State.writeLlc
  dsimp only
  split
  · exact hm
  · exact hm.foldl fun ht => ht.llcKeep

theorem llcDrop {l : Nat} (h : s.Sound n) : (s.llcDrop l).Sound n :=
  h.llcBack.modMemTo fun hm => { hm with lines := fun hn => Sparse.sorted_filter _ _ (hm.lines hn) }

theorem clearWays {ways : BitVec 24} (h : s.Sound n) : (s.clearWays ways).Sound n :=
  h.foldl fun ht => ht.foldl fun hu => hu.llcDrop

theorem zeroDie {d lo hi : Nat} (h : s.Sound n) : (s.zeroDie d lo hi).Sound n :=
  (h.modMemTo fun hm =>
    { gddr := fun hn => Memory.wf_clear _ _ _ (hm.gddr hn), lines := fun hn => Sparse.sorted_filter _ _ (hm.lines hn) }).setMem
    fun hn => Memory.wf_filter _ _ (h.mem hn)

/-! ### Copies of a die -/

theorem fill {die line : Nat} (h : s.Sound n) : (s.fill die line).Sound n := by
  unfold State.fill
  split
  · exact h
  · exact (h.modDieTo fun hd => hd.setCopy _ _).llcKeep

theorem storeByte {die pa : Nat} {b : Byte} (h : s.Sound n) : (s.storeByte die pa b).Sound n :=
  h.fill.modDieTo fun hd => hd.setCopy _ _

theorem layBytes {die pa : Nat} {bs : List Byte} (h : s.Sound n) : (s.layBytes die pa bs).Sound n := by
  induction bs generalizing s pa with
  | nil => exact h
  | cons b bs ih => exact ih (h.fill.modDieTo fun hd => hd.setCopy _ _).writeLlc

theorem storeBytes {die pa : Nat} {bs : List Byte} (h : s.Sound n) : (s.storeBytes die pa bs).Sound n := by
  induction bs generalizing s pa with
  | nil => exact h
  | cons b bs ih => exact ih h.storeByte

theorem cleanLine {die line : Nat} (h : s.Sound n) : (s.cleanLine die line).Sound n := by
  unfold State.cleanLine
  split
  · exact h
  · next l _ =>
    have hw := h.foldl (l := upTo 32) (f := fun s i =>
      if l.dirty.getLsbD i then { s with mem := Memory.put s.mem (line * 32 + i) (l.bytes[i % 32]'(Nat.mod_lt _ (by decide))) }
      else s) fun ht => by
        split
        · exact ht.setMem fun hn => Memory.wf_put _ _ _ (ht.mem hn)
        · exact ht
    refine State.Sound.modDieTo ?_ fun hd => hd.setCopy _ _
    split
    · exact hw
    · exact hw.llcKeep

theorem dropLine {die line : Nat} (h : s.Sound n) : (s.dropLine die line).Sound n :=
  { h.modDieTo (d := die) (f := fun d => { d with l1 := Sparse.del d.l1 line })
      fun hd => { hd with copies := fun hn => Sparse.sorted_del _ _ (hd.copies hn) } with
    cores := List.forall_mem_map.2 fun c hc =>
      (h.cores c hc).frame (by dsimp only; split <;> rfl) (by dsimp only; split <;> rfl) }

theorem flushLine {die line : Nat} (h : s.Sound n) : (s.flushLine die line).Sound n := h.cleanLine.dropLine

theorem evict {core line : Nat} (h : s.Sound n) : (s.evict core line).Sound n := by
  unfold State.evict
  dsimp only
  split
  · exact h.cleanLine.modCore
  · exact h.flushLine

theorem hold {core line : Nat} (h : s.Sound n) : (s.hold core line).Sound n := by
  unfold State.hold
  dsimp only
  split
  · exact h.fill
  · refine State.Sound.modCore (State.Sound.fill ?_)
    split
    · exact h
    · cases (List.filter _ _).head? with
      | none => exact h
      | some l => exact h.evict

theorem onLines {rs : Runs} {f : State → Nat → State} (h : s.Sound n)
    (hf : ∀ {t : State} {l : Nat}, t.Sound n → (f t l).Sound n) : (s.onLines rs f).Sound n :=
  h.foldl fun ht => by
    split
    · exact ht
    · exact ht.foldl hf

theorem holdRuns {core : Nat} {rs : Runs} (h : s.Sound n) : (s.holdRuns core rs).Sound n := h.onLines fun ht => ht.hold

theorem coreStore {core pa : Nat} {bs : List Byte} (h : s.Sound n) : (s.coreStore core pa bs).Sound n :=
  h.holdRuns.storeBytes

theorem drainOne {core : Nat} (h : s.Sound n) : (s.drainOne core).Sound n := by
  unfold State.drainOne
  split
  · exact h
  · exact h.modCore.coreStore

theorem drainN {core k : Nat} (h : s.Sound n) : (s.drainN core k).Sound n := by
  induction k generalizing s with
  | zero => exact h
  | succ k ih => exact ih h.drainOne

theorem drainAll {core : Nat} (h : s.Sound n) : (s.drainAll core).Sound n := h.drainN
theorem drainCtx {core ctx : Nat} (h : s.Sound n) : (s.drainCtx core ctx).Sound n := h.drainN

theorem takeLines {core : Nat} {seq : BitVec 16} {rs : Runs} (h : s.Sound n) : (s.takeLines core seq rs).Sound n :=
  h.onLines fun ht => ht.flushLine.modDie

theorem releaseLines {core : Nat} {seq : BitVec 16} (h : s.Sound n) : (s.releaseLines core seq).Sound n := h.modDie

theorem releaseRange {core : Nat} {seq : BitVec 16} {rs left : Runs} (h : s.Sound n) :
    (s.releaseRange core seq rs left).Sound n := by
  unfold State.releaseRange
  exact h.modDie

theorem cmoLine {die line : Nat} {k : CmoKind} {lv : CmoLevel} (h : s.Sound n) : (s.cmoLine die k lv line).Sound n := by
  unfold State.cmoLine
  split
  · exact h
  · exact h.cleanLine
  · exact h.cleanLine.llcBack
  · exact h.dropLine
  · exact h.dropLine.llcDrop
  · exact h.flushLine
  · exact h.flushLine.llcDrop

theorem cmoDone {core : Nat} {j : CmoJob} (h : s.Sound n) : (s.cmoDone core j).Sound n :=
  h.drainN.onLines fun ht => ht.cmoLine

end State.Sound
end Sys2Proof.Machine

/-! SUPPORT. Windows, ports, operands and the engines' records keep the order (R91 to R114, R147 to R153, R435). -/

namespace Sys2Proof.Machine

@[simp] theorem Port.inbox_writeReg (p : Port) (off : Nat) (w : Word) : (p.writeReg off w).inbox = p.inbox := by
  unfold Port.writeReg
  split
  · unfold Port.writeTail; split_ifs <;> rfl
  · rfl
  · unfold Port.writeStat; rfl
  · rfl

@[simp] theorem Core.setK_frame (c : Core) (i : Nat) (x : BitVec 128) :
    (c.setK i x).scratch = c.scratch ∧ (c.setK i x).port = c.port := by
  unfold Core.setK
  split <;> exact ⟨rfl, rfl⟩

/-- A cleared core holds no memory of the job before; its port may stay. -/
theorem Core.Sound.clear {n jobs : Nat} {c : Core} (h : c.Sound n) (port : Bool) :
    Core.Sound n { c.clear with port := if port then c.clear.port else c.port, job := jobs } where
  scratch _ := rfl
  inbox hn := by
    cases port
    · exact h.inbox hn
    · rfl

theorem Grove.Sound.clear {n : Nat} {g : Grove} : g.clear.Sound n where
  banks _ b hb := by cases hb

namespace State.Sound
variable {n : Nat} {s t : State}

/-! ### Windows -/

theorem setK {core i : Nat} {v : Core → BitVec 128} (h : s.Sound n) : (s.modCore core fun c => c.setK i (v c)).Sound n :=
  h.modCore (by simp) (by simp)

theorem winPut {core off : Nat} {b : Byte} {front : Bool} (h : s.Sound n) : (s.winPut core off b front).Sound n := by
  unfold State.winPut
  split
  · exact h.modCoreTo fun hc => { hc with scratch := fun hn => Memory.wf_put _ _ _ (hc.scratch hn) }
  split
  · exact h.modCore
  split
  · exact h.setK
  split
  · exact h.modCtx
  split
  · exact h.modCoreTo fun hc => { hc with inbox := fun hn => Memory.wf_put _ _ _ (hc.inbox hn) }
  · exact .ite h.modGrove h

theorem winWriteSkip {core off : Nat} {bs : List Byte} {skip : List Nat} (h : s.Sound n) :
    (s.winWriteSkip core off bs skip).Sound n := h.foldl fun ht => ht.winPut

theorem winWrite {core off : Nat} {bs : List Byte} {front : Bool} (h : s.Sound n) :
    (s.winWrite core off bs front).Sound n :=
  .ite (h.modCore (hp := by simp)) (h.foldl_fst fun ht => ht.winPut)

theorem bumpSeq {core k : Nat} (h : s.Sound n) : (s.bumpSeq core k).Sound n := h.modCore

theorem trace {core kind size agent src off : Nat} (h : s.Sound n) : (s.trace core kind size agent src off).Sound n :=
  h.modCore

theorem replayPop {core : Nat} (h : s.Sound n) : (s.replayPop core).Sound n := h.modCore

theorem ownCore {core : Nat} {port : Bool} (h : s.Sound n) : (s.ownCore core port).Sound n := by
  unfold State.ownCore
  have hf : ((s.getCore core).l1.foldl (fun s l => s.flushLine (dieOf core) l) s).Sound n := h.foldl fun ht => ht.flushLine
  exact .ite h ((State.Sound.ite hf (hf.modGroveTo fun _ => Grove.Sound.clear)).modCoreTo fun hc => hc.clear port)

theorem reach {src dst : Nat} (h : s.Sound n) : (s.reach src dst).Sound n := .ite h.ownCore h

theorem perform {p : Piece} (h : s.Sound n) : (s.perform p).Sound n := by
  unfold State.perform
  have hr := h.reach (src := p.src) (dst := p.dst)
  dsimp only
  refine State.Sound.bumpSeq ?_
  split
  · exact .ite hr.winWrite hr.winWriteSkip
  · exact (State.Sound.ite hr.winWrite hr.winWriteSkip).trace.replayPop

theorem readPieces {src core k : Nat} (h : s.Sound n) : (s.readPieces src core k).Sound n := h.reach.bumpSeq

theorem readRuns {src : Nat} {rs : Runs} (h : s.Sound n) : (s.readRuns src rs).Sound n :=
  h.foldl fun ht => .ite ht.readPieces ht

theorem performAll {ps : List Piece} (h : s.Sound n) : (s.performAll ps).Sound n := h.foldl fun ht => ht.perform

theorem arrive {dst src : Nat} (h : s.Sound n) : (s.arrive dst src).Sound n := by
  unfold State.arrive
  split
  · exact h
  · exact .ite h.frame (.ite h.frame.perform h)

theorem arriveN {src k : Nat} (h : s.Sound n) : (s.arriveN src k).Sound n := by
  induction k generalizing s with
  | zero => exact h
  | succ k ih =>
    unfold State.arriveN
    split
    · exact h
    · exact ih h.arrive

/-! ### Operands -/

theorem popEp {core ep : Nat} (h : s.Sound n) : (s.popEp core ep).Sound n := h.modEp

theorem sendMsg {core ctx ep : Nat} {ws : List Word} (h : s.Sound n) : (s.sendMsg core ctx ep ws).Sound n := by
  unfold State.sendMsg
  dsimp only
  split
  · exact h.modEp.modEp
  · exact h.modEp.modEp.send
  · exact h.modEp.modEp

theorem wrAt {core ctx : Nat} {r : SReg} {v : Word} (h : s.Sound n) : (s.wrAt core ctx r v).Sound n :=
  .ite (.ite h.sendMsg h) h.modCtx

theorem wr {r : SReg} {v : Word} (h : s.Sound n) : (s.wr r v).Sound n := h.wrAt
theorem popAll (h : s.Sound n) : s.popAll.Sound n := h.foldl fun ht => ht.popEp
theorem retire (h : s.Sound n) : s.retire.Sound n := h.popAll.modCx
theorem retireTo {t : Word} {z : Bool} (h : s.Sound n) : (s.retireTo t z).Sound n := h.popAll.modCx
theorem result {d : SReg} {v : Word} (h : s.Sound n) : (s.result d v).Sound n := h.wr.retire

/-! ### Records -/

theorem logPart {part kind code d0 d1 : Nat} (h : s.Sound n) : (s.logPart part kind code d0 d1).Sound n := h.modPart
theorem logMod {kind code d0 d1 : Nat} (h : s.Sound n) : (s.logMod kind code d0 d1).Sound n := h.frame
theorem count {part : Nat} {f : Stats → Stats} (h : s.Sound n) : (s.count part f).Sound n := h.modPart.frame

theorem engFail {part : Nat} {k : RecKind} {write : Bool} {va : Word} (h : s.Sound n) :
    (s.engFail part k write va).Sound n := h.logPart

theorem engRead {part m : Nat} {k : RecKind} {va : Word} {r : Option (List Byte)} (h : s.Sound n)
    (e : s.engRead part k va m = (r, t)) : t.Sound n := by
  unfold State.engRead at e
  split at e
  · cases e; exact h.engFail
  · cases e; exact h

theorem writeRuns {rs : List (Nat × List Byte)} (h : s.Sound n) : (rs.foldl (fun s x => s.writeLlc x.1 x.2) s).Sound n :=
  h.foldl fun ht => ht.writeLlc

theorem engWrite {part : Nat} {k : RecKind} {va : Word} {bs : List Byte} (h : s.Sound n) :
    (s.engWrite part k va bs).Sound n := by
  unfold State.engWrite
  split
  · exact h.engFail
  · exact h.writeRuns

theorem signal {part level obj : Nat} {sig code : BitVec 16} {cancelled : Bool} {root nodes : Nat} (h : s.Sound n) :
    (s.signal part sig level obj cancelled code root nodes).Sound n := by
  unfold State.signal
  refine .ite h ?_
  dsimp only
  split
  · next e => exact h.engRead e
  · next e =>
    have hr := h.engRead e
    split
    · exact hr.engFail
    · exact .ite hr.writeRuns.send hr.writeRuns

end State.Sound
end Sys2Proof.Machine

/-! SUPPORT. Dispatch rings, units, launches and late faults keep the order (R31, R32, R335 to R339). -/

namespace Sys2Proof.Machine

@[simp] theorem Core.modEntry_frame (c : Core) (seq : BitVec 16) (f : DEntry → DEntry) :
    (c.modEntry seq f).scratch = c.scratch ∧ (c.modEntry seq f).port = c.port := by
  unfold Core.modEntry
  dsimp only
  split <;> exact ⟨rfl, rfl⟩

@[simp] theorem Core.withdrawEntry_frame (c : Core) (seq : BitVec 16) :
    (c.withdrawEntry seq).scratch = c.scratch ∧ (c.withdrawEntry seq).port = c.port := by
  unfold Core.withdrawEntry
  dsimp only
  split <;> exact ⟨rfl, rfl⟩

@[simp] theorem Grove.banks_grant (g : Grove) : g.grant.banks = g.banks := by
  unfold Grove.grant
  split
  · rfl
  · dsimp only
    split <;> rfl

@[simp] theorem Grove.banks_passOn (g : Grove) : g.passOn.banks = g.banks := by
  unfold Grove.passOn
  split
  · simp
  · rfl

namespace State.Sound
variable {n : Nat} {s t : State}

/-! ### The dispatch ring -/

theorem modEntry {core : Nat} {seq : BitVec 16} {f : DEntry → DEntry} (h : s.Sound n) :
    (s.modCore core fun c => c.modEntry seq f).Sound n := h.modCore (by simp) (by simp)

theorem flushSeq {core : Nat} {seq : BitVec 16} (h : s.Sound n) : (s.flushSeq core seq).Sound n :=
  h.modEntry.releaseLines
theorem complete {core : Nat} {seq : BitVec 16} (h : s.Sound n) : (s.complete core seq).Sound n :=
  h.modEntry.releaseLines
theorem flushEntry {core : Nat} {q : QEntry} (h : s.Sound n) : (s.flushEntry core q).Sound n := .ite h h.flushSeq

theorem dropEntries {core : Nat} {f : QEntry → Bool} (h : s.Sound n) : (s.dropEntries core f).Sound n := by
  unfold State.dropEntries
  exact (h.foldl fun ht => .ite ht.flushEntry ht).modCore

theorem leaveWait {core ctx : Nat} (h : s.Sound n) : (s.leaveWait core ctx).Sound n := by
  unfold State.leaveWait
  refine State.Sound.modCtx ?_
  split
  · exact h.dropEntries.modCore (by simp) (by simp)
  · exact h.modPool
  · exact h

theorem endLease {core : Nat} (h : s.Sound n) : (s.endLease core).Sound n :=
  h.modGrove (by intro; dsimp only; split <;> simp)

theorem endClaim {core : Nat} (h : s.Sound n) : (s.endClaim core).Sound n := by
  unfold State.endClaim
  refine State.Sound.modCore (State.Sound.modDieTo (.ite h.complete h) fun hd => ?_)
  exact { hd with stands := fun hn => Sparse.sorted_filter _ _ (hd.stands hn) }

theorem unbindAll {core : Nat} (h : s.Sound n) : (s.unbindAll core).Sound n := h.foldl fun ht => ht.modCtx

theorem withdrawArrivals {core : Nat} (h : s.Sound n) : (s.withdrawArrivals core).Sound n := h.foldl fun ht => ht.modDie

/-! ### Launches -/

theorem engPatch {part m : Nat} {k : RecKind} {va : Word} {f : Nat → Nat} (h : s.Sound n) :
    (s.engPatch part k va m f).Sound n := by
  unfold State.engPatch
  split
  · exact h.engFail
  · exact h.writeRuns

theorem launchBack {part i : Nat} (h : s.Sound n) : (s.launchBack part i).Sound n := by
  unfold State.launchBack
  exact h.engPatch
theorem report {part : Nat} {e : GraphEvent} (h : s.Sound n) : (s.report part e).Sound n := h.modPart

theorem freeEps {part i : Nat} (h : s.Sound n) : (s.freeEps part i).Sound n := h.foldl fun ht => .ite ht.modCore ht

theorem unitOver {part i core : Nat} {cancelled : Bool} (h : s.Sound n) : (s.unitOver part i core cancelled).Sound n := by
  unfold State.unitOver
  exact (State.Sound.ite (.ite h.modLaunch.freeEps (.ite h.modLaunch.freeEps.modLaunch.report h.modLaunch.freeEps.modLaunch))
    h.modLaunch).launchBack

theorem countFault {part i : Nat} {code : BitVec 16} (h : s.Sound n) : (s.countFault part i code).Sound n :=
  h.modLaunch.launchBack.count

theorem logLate {core : Nat} {seq code : BitVec 16} (h : s.Sound n) : (s.logLate core seq code).Sound n := h.logPart

/-! ### The end of a unit by a cancel -/

theorem stopMatrix {core unit : Nat} (h : s.Sound n) : (s.stopMatrix core unit).Sound n := by
  unfold State.stopMatrix
  split
  · exact h
  · exact (h.foldl fun ht => .ite ht.flushEntry ht).modGrove

theorem stopContexts {core : Nat} (h : s.Sound n) : (s.stopContexts core).Sound n :=
  ((h.foldl fun ht => ht.leaveWait).foldl fun ht => ht.modCtx).modCtx

theorem stopCopies {core unit : Nat} (h : s.Sound n) : (s.stopCopies core unit).Sound n :=
  h.modCore.foldl fun ht => ht.releaseLines

theorem stopUnit {core : Nat} (h : s.Sound n) : (s.stopUnit core).Sound n := by
  unfold State.stopUnit
  extract_lets c
  split
  · exact h
  · next part s₁ s₂ s₃ s₄ owed s₅ s₆ s₇ s₈ _ _ _ =>
    have h₄ : s₄.Sound n := h.stopContexts.dropEntries.stopMatrix.stopCopies.modCore
    have h₅ : s₅.Sound n := .ite h₄ h₄.endLease
    have h₆ : s₆.Sound n := .ite h₅ h₅.endClaim
    have h₈ : s₈.Sound n := h₆.unbindAll.withdrawArrivals.modPart
    split
    · exact h₈.foldl fun ht => ht.logLate
    · exact (h₈.foldl fun ht => ht.countFault).unitOver

theorem cancelUnit {core : Nat} (h : s.Sound n) : (s.cancelUnit core).Sound n := .ite h.modCore h.stopUnit

theorem cancelRecord {part i core : Nat} (h : s.Sound n) : (s.cancelRecord part i core).Sound n := by
  unfold State.cancelRecord
  dsimp only
  split
  · exact .ite h.perform.unitOver h.modPart
  · exact h.modPart.unitOver

theorem markHeld {core : Nat} (h : s.Sound n) (e : s.markHeld core = some t) : t.Sound n := by
  unfold State.markHeld at e
  dsimp only at e
  split at e
  · cases e
  · split at e
    · split at e
      · cases e; exact h.modPart.perform.unitOver
      · cases e
    · split at e
      · cases e; exact h.modPart.cancelUnit
      · cases e; exact h.modPart

theorem stopLaunch {part i : Nat} (h : s.Sound n) : (s.stopLaunch part i).Sound n := by
  unfold State.stopLaunch
  refine .ite h (.ite h.modLaunch.modLaunch.launchBack (h.modLaunch.foldl fun ht => ?_))
  dsimp only
  split
  · exact .ite ht.cancelUnit ht.cancelRecord
  · exact ht.cancelRecord

/-! ### Late faults -/

theorem reportLaunch {core : Nat} {l : LaunchId} {seq code : BitVec 16} (h : s.Sound n) :
    (s.reportLaunch core l seq code).Sound n := by
  unfold State.reportLaunch
  split
  · exact h.logLate
  · dsimp only
    refine .ite ?_ h.report
    split
    · exact (State.Sound.ite h.countFault h.countFault.stopLaunch.modLaunch).report
    · exact .ite h.countFault h.countFault.stopLaunch.modLaunch

theorem flushBehind {core unit : Nat} {vector : Bool} {seq : BitVec 16} (h : s.Sound n) :
    (s.flushBehind core vector unit seq).Sound n := by
  unfold State.flushBehind
  exact (h.foldl fun ht => ht.flushEntry).modCore (by intro; dsimp only; split <;> rfl) (by intro; dsimp only; split <;> rfl)

theorem lateFault {core : Nat} {seq code : BitVec 16} {info faddr : Word} (h : s.Sound n) :
    (s.lateFault core seq code info faddr).Sound n := by
  unfold State.lateFault
  extract_lets c e
  split
  · exact h
  · next s₁ _ s₂ _ _ =>
    have h₁ : s₁.Sound n := h.modEntry.releaseLines
    have h₂ : s₂.Sound n := by
      subst s₂
      split
      · exact .ite (h₁.flushBehind.modCore (by intro; split <;> rfl) (by intro; split <;> rfl)) h₁.flushBehind
      · exact h₁
    refine .ite ?_ h₂.reportLaunch
    split
    · exact h₂.modCore
    · exact .ite h₂.modCore h₂.reportLaunch

theorem completeFlags {core : Nat} {seq : BitVec 16} {fl : BitVec 11} (h : s.Sound n) :
    (s.completeFlags core seq fl).Sound n := by
  unfold State.completeFlags
  exact .ite h.modCore.complete h.modCore.lateFault

end State.Sound
end Sys2Proof.Machine

/-! SUPPORT. The shared operations of a context keep the order: waits, exceptions, fences, loads and stores (R41, R99 to R113,
R211 to R213, R328 to R333). -/

namespace Sys2Proof.Machine.State.Sound
variable {n : Nat} {s t : State}

theorem on {core ctx : Nat} (h : s.Sound n) : (s.on core ctx).Sound n := h.frame
theorem waitOn {obj : WaitObj} {seq : Option (BitVec 16)} (h : s.Sound n) : (s.waitOn obj seq).Sound n := h.modCx

theorem granted {dests : List SReg} {k : State → State} (h : s.Sound n) (hk : s.Sound n → (k s).Sound n) :
    (s.granted dests k).Sound n := by
  unfold State.granted
  split
  · exact h.waitOn
  · exact hk h

theorem start {srcs dests : List SReg} {k : State → State} (h : s.Sound n)
    (hk : ∀ {t : State}, t.Sound n → (k t).Sound n) : (s.start srcs dests k).Sound n := by
  rcases s.start_cases srcs dests k with e | ⟨r, _, _, e⟩ | e <;> rw [e]
  · exact h
  · exact h.waitOn
  · exact hk h.modCx

theorem begin {srcs dests : List SReg} {k : State → State} (h : s.Sound n)
    (hk : ∀ {t : State}, t.Sound n → (k t).Sound n) : (s.begin srcs dests k).Sound n :=
  h.start fun ht => ht.granted hk

/-! ### Stores -/

theorem winStore {pa : Nat} {bs : List Byte} (h : s.Sound n) : (s.winStore pa bs).Sound n := .ite h.performAll h.frame

theorem storeRuns {rs : Runs} {bs : List Byte} (h : s.Sound n) : (s.storeRuns rs bs).Sound n :=
  h.foldl fun ht => .ite ht.winStore ht.modMe

/-! ### Exceptions -/

theorem recordAccess {rs : Runs} (h : s.Sound n) (e : s.recordAccess = .ok (rs, t)) : t.Sound n := h.access e

theorem doubleTrap {i : TrapInfo} {c₁ c₂ : BitVec 16} (h : s.Sound n) : (s.doubleTrap i c₁ c₂).Sound n := by
  unfold State.doubleTrap
  extract_lets codes s₁ s₂
  have h₂ : s₂.Sound n := by
    refine State.Sound.logPart ?_
    subst s₁
    split
    · exact h
    · next e => exact (h.recordAccess e).storeRuns
  split
  · exact h₂.stopContexts
  · exact .ite h₂.reportLaunch.cancelUnit h₂.reportLaunch

theorem trapEntry {i : TrapInfo} (h : s.Sound n) : (s.trapEntry i).Sound n := by
  unfold State.trapEntry
  dsimp only
  split
  · exact h.leaveWait.modCx.doubleTrap
  · next e => exact (h.leaveWait.modCx.recordAccess e).storeRuns.modCx

theorem takeFault {code : BitVec 16} {info faddr : Word} (h : s.Sound n) : (s.takeFault code info faddr).Sound n := by
  unfold State.takeFault
  exact .ite h.modCx (.ite h.modCx.doubleTrap h.modCx.trapEntry)

theorem fault {code : BitVec 16} (h : s.Sound n) : (s.fault code).Sound n := h.takeFault
theorem illegal (h : s.Sound n) : s.illegal.Sound n := h.fault

theorem takeTrap {code : BitVec 16} (h : s.Sound n) : (s.takeTrap code).Sound n := by
  unfold State.takeTrap
  exact .ite h (.ite h.doubleTrap h.modCx.trapEntry)

theorem eret (h : s.Sound n) : s.eret.Sound n := by
  unfold State.eret
  exact .ite h.illegal (.ite (.ite h.takeFault h.modCx)
    (.ite h.takeFault (.ite h.takeFault (.ite h.takeFault h.modCx))))

theorem lateEntry {core : Nat} (h : s.Sound n) : (s.lateEntry core).Sound n := by
  unfold State.lateEntry
  dsimp only
  split
  · exact h
  · exact .ite h h.modCore.on.trapEntry

theorem timerEntry {core : Nat} (h : s.Sound n) : (s.timerEntry core).Sound n := by
  unfold State.timerEntry
  exact .ite h.modCtx.on.trapEntry h

/-! ### Fences -/

theorem deliverTo {dst : Nat} (h : s.Sound n) : (s.deliverTo dst).Sound n := h.foldl fun ht => ht.arrive

theorem cmoStep {core : Nat} (h : s.Sound n) : (s.cmoStep core).Sound n := by
  unfold State.cmoStep
  split
  · exact h
  · exact .ite h.cmoDone.modCore h

theorem cmoAll {core : Nat} (h : s.Sound n) : (s.cmoAll core).Sound n := h.foldl fun ht => ht.cmoStep
theorem cmoDrain {core : Nat} (h : s.Sound n) : (s.cmoDrain core).Sound n := (h.foldl fun ht => ht.cmoDone).modCore
theorem cmoCtx (h : s.Sound n) : s.cmoCtx.Sound n := by
  unfold State.cmoCtx
  exact (h.foldl fun ht => ht.cmoDone).modMe

theorem writesDone {scope : Scope} (h : s.Sound n) (e : s.writesDone scope = some t) : t.Sound n := by
  unfold State.writesDone at e
  split at e
  · cases e
  · dsimp only at e
    split at e
    · cases e
    · split at e
      · cases e
      · cases e; exact h.drainCtx.cmoCtx.foldl fun ht => ht.arrive

theorem fenced {r w : Bool} {scope : Scope} {k : State → State} (h : s.Sound n)
    (hk : ∀ {t : State}, t.Sound n → (k t).Sound n) : (s.fenced r w scope k).Sound n := by
  unfold State.fenced
  refine .ite h.waitOn (.ite ?_ (hk h))
  split
  · exact h.waitOn
  · next e => exact .ite (h.writesDone e).waitOn (hk (h.writesDone e))

/-! ### Loads and stores -/

theorem settleInv {core ctx : Nat} {seq : BitVec 16} {rs : Runs} (h : s.Sound n)
    (e : s.settleInv core ctx seq rs = some t) : t.Sound n := by
  unfold State.settleInv at e
  dsimp only at e
  split at e
  · cases e; exact (h.foldl fun ht => ht.cmoDone).modCore
  · cases e

theorem gate {acc : Access} {va : Word} {m : Nat} {dests : List SReg} {k : State → Runs → State} (h : s.Sound n)
    (hk : ∀ {t : State} {rs : Runs}, t.Sound n → (k t rs).Sound n) : (s.gate acc va m dests k).Sound n := by
  unfold State.gate
  split
  · exact h.takeFault
  · next e =>
    refine (h.access e).granted fun ha => .ite ha.waitOn (.ite h ?_)
    split
    · refine .ite (.ite (hk ha.deliverTo) h) ?_
      split
      · next e => exact hk (ha.settleInv e)
      · exact h
    · exact hk ha

theorem readIn {rs : Runs} (h : s.Sound n) : (s.readIn rs).Sound n := h.readRuns.holdRuns

theorem load {va : Word} {m : Nat} {d : SReg} {k : State → Nat → State} (h : s.Sound n)
    (hk : ∀ {t : State} {v : Nat}, t.Sound n → (k t v).Sound n) : (s.load va m d k).Sound n :=
  h.gate fun ht => hk ht.readIn

theorem store {va v : Word} {m : Nat} (h : s.Sound n) : (s.store va m v).Sound n := h.gate fun ht => ht.storeRuns.retire
theorem orFlags {f : BitVec 11} (h : s.Sound n) : (s.orFlags f).Sound n := h.modMe

end Sys2Proof.Machine.State.Sound

/-! SUPPORT. What the scalar pipeline executes and what it dispatches answers a state that keeps the order (R214 to R225, R230
to R235, R335). -/

namespace Sys2Proof.Machine

/-- A meaning answers a next state, and that keeps the order up to a level. -/
def Answers (n : Nat) (r : Result) : Prop := ∃ t, r = .next t ∧ t.Sound n

namespace State.Sound
variable {n : Nat} {s t : State}

theorem answer (h : s.Sound n) : Answers n (.next s) := ⟨s, rfl, h⟩

/-- What an instruction of the pipeline does once its operands are there and its destinations granted. -/
theorem answer_begin {srcs dests : List SReg} {k : State → State} (h : s.Sound n)
    (hk : ∀ {t : State}, t.Sound n → (k t).Sound n) : Answers n (.next (s.begin srcs dests k)) := (h.begin hk).answer

/-- What an instruction of the pipeline does once its operands are there. -/
theorem answer_start {srcs dests : List SReg} {k : State → State} (h : s.Sound n)
    (hk : ∀ {t : State}, t.Sound n → (k t).Sound n) : Answers n (.next (s.start srcs dests k)) := (h.start hk).answer

/-! ### Atomics, fences, cache maintenance -/

theorem portAtomic {pa : Nat} {f : Word → Word} (h : s.Sound n) : (s.portAtomic pa f).1.Sound n := by
  unfold State.portAtomic
  exact (State.Sound.ite h.reach.winWrite h.reach.winWrite.trace.replayPop).bumpSeq

theorem memAtomic {wide : Bool} {pa : Nat} {f : Word → Word} (h : s.Sound n) : (s.memAtomic wide pa f).1.Sound n := by
  unfold State.memAtomic
  split <;> dsimp only
  · exact h.flushLine.writeLlc
  · exact h.hold.coreStore

theorem amo {scope : Scope} {d a : SReg} {f : Word → Word} (h : s.Sound n) : (s.amo scope d a f).Sound n := by
  unfold State.amo
  refine .ite h.takeFault (h.gate fun ht => ?_)
  split
  · exact ht
  · exact ht.fenced fun hu => .ite (.ite hu.portAtomic.result ht) hu.memAtomic.result

theorem execFence {scope : Scope} {cls : FenceClass} (h : s.Sound n) : Answers n (execFence scope cls s) :=
  (h.begin fun ht => ht.fenced fun hu => hu.retire).answer

theorem cmoRange {acc : Access} {va : Word} {m : Nat} {rs : Runs} (h : s.Sound n)
    (e : s.cmoRange acc va m = .ok (rs, t)) : t.Sound n := by
  unfold State.cmoRange at e
  split at e
  · split at e <;> cases e
  · exact h.xlateRange e

theorem cmo {k : CmoKind} {lv : CmoLevel} {a d : SReg} {imm : Word} (h : s.Sound n) : Answers n (s.cmo k lv a d imm) :=
  (h.begin fun ht => by
    refine .ite ht.retire ?_
    split
    · exact ht.takeFault
    · next e => exact (ht.cmoRange e).modMe.retire).answer

theorem execCmoLineOperationsDone {core : Nat} (h : s.Sound n) : Answers n (execCmoLineOperationsDone core s) :=
  h.cmoStep.answer

/-! ### Channels -/

theorem execChbind {r : BitVec 3} {ep : BitVec 6} (h : s.Sound n) : Answers n (execChbind r ep s) :=
  (h.begin fun ht => .ite ht.fault (.ite ht.fault ht.modCx.retire)).answer

theorem execChsend {a b : SReg} (h : s.Sound n) : Answers n (execChsend a b s) :=
  (h.begin fun ht => by
    refine .ite ht.fault (.ite ht.takeFault ?_)
    split
    · exact ht.takeFault
    · next e =>
      have ha := ht.access e
      exact .ite ha.waitOn (.ite ha ((State.Sound.ite ha.drainCtx ha).gate fun hu => hu.readIn.sendMsg.retire))).answer

/-! ### Transfers -/

theorem branch {form : BrForm} {taken : Bool} {imm : Word} (h : s.Sound n) : (s.branch form taken imm).Sound n :=
  .ite h.retireTo h.retireTo

theorem jumpTo {w : Word} {link : Bool} (h : s.Sound n) : (s.jumpTo w link).Sound n :=
  .ite h.takeFault (State.Sound.ite h.wr h).retireTo

theorem execJ {imm : Word} (h : s.Sound n) : Answers n (execJ imm s) := (h.begin fun ht => ht.retireTo).answer
theorem execJal {imm : Word} (h : s.Sound n) : Answers n (execJal imm s) := (h.begin fun ht => ht.wr.retireTo).answer

theorem execJr {a : SReg} {imm : Word} (h : s.Sound n) : Answers n (execJr a imm s) :=
  (h.begin fun ht => ht.jumpTo).answer

theorem execJalr {a : SReg} {imm : Word} (h : s.Sound n) : Answers n (execJalr a imm s) :=
  (h.begin fun ht => ht.jumpTo).answer

/-! ### Dispatch of what an engine performs -/

theorem passUp {core : Nat} (h : s.Sound n) : (s.passUp core).Sound n := by
  unfold State.passUp
  dsimp only
  split
  · exact h
  · exact h.modCore

theorem numbered {i : Instr} (h : s.Sound n) : (s.numbered i).Sound n := h.modMe

theorem enqueue {p : Place} {i : Instr} {a b c : Word} {k : State → BitVec 16 → Bool → State} (h : s.Sound n)
    (hk : ∀ {t : State} {seq : BitVec 16} {f : Bool}, t.Sound n → (k t seq f).Sound n) :
    (s.enqueue p i a b c k).Sound n := by
  unfold State.enqueue
  have hn := h.drainCtx (core := s.core) (ctx := s.ctx) |>.numbered (i := i)
  refine .ite h (.ite (hk hn.flushSeq) (hk ((State.Sound.ite hn.passUp hn).modMe ?_ ?_))) <;> intro <;> cases p <;> rfl

theorem dispatchWith {p : Place} {i : Instr} {a b : SReg} {c : CReg} {k : State → BitVec 16 → Bool → State}
    (h : s.Sound n) (hk : ∀ {t : State} {seq : BitVec 16} {f : Bool}, t.Sound n → (k t seq f).Sound n) :
    Answers n (s.dispatchWith p i a b c k) := (State.Sound.ite h.illegal (h.begin fun ht => ht.enqueue hk)).answer

theorem dispatch {p : Place} {i : Instr} {a b : SReg} {c : CReg} (h : s.Sound n) : Answers n (s.dispatch p i a b c) :=
  h.dispatchWith fun ht => ht.retire

theorem lateWr {core ctx : Nat} {r : SReg} {v : Word} (h : s.Sound n) : (s.lateWr core ctx r v).Sound n := h.modCtx

end State.Sound
end Sys2Proof.Machine

/-! SUPPORT. The vector queue and the matrix array keep the order (R237 to R263, R275 to R285). -/

namespace Sys2Proof.Machine

/-- What the head of a vector queue leaves keeps the order. -/
def Tried.Sound (n : Nat) : Tried → Prop
  | .wait => True
  | .more t | .did t => t.Sound n

theorem Tried.Sound.ite {n : Nat} {a b : Tried} {c : Prop} [Decidable c] (ha : a.Sound n) (hb : b.Sound n) :
    (if c then a else b).Sound n := by
  split
  · exact ha
  · exact hb

theorem Tried.Sound.of_did {n : Nat} {r : Tried} {t : State} (h : r.Sound n) (e : r = .did t) : t.Sound n := by
  subst e
  exact h

theorem Tried.Sound.of_more {n : Nat} {r : Tried} {t : State} (h : r.Sound n) (e : r = .more t) : t.Sound n := by
  subst e
  exact h

/-- An image of a weight bank is written in the canonical form. -/
theorem Grove.Sound.setImage {n bank j : Nat} {g : Grove} {bs : List Byte} (h : g.Sound n) :
    (g.setImage bank j bs).Sound n where
  banks hn := Sparse.forall_mem_set (P := fun b => Memory.wf b = true) (h.banks hn)
    (Memory.wf_putAll _ _ _ (Sparse.get_of_forall (P := fun b => Memory.wf b = true) rfl (h.banks hn) _))

theorem Grove.Sound.setImages {n bank i : Nat} {imgs : List (List Byte)} {g : Grove} (h : g.Sound n) :
    (imgs.foldl (fun (x : Grove × Nat) b => (x.1.setImage bank x.2 b, x.2 + 1)) (g, i)).1.Sound n :=
  List.foldlRecOn imgs _ (motive := fun (x : Grove × Nat) => x.1.Sound n) h fun _ hx _ _ => hx.setImage

namespace State.Sound
variable {n : Nat} {s t : State}

/-! ### The end of a vector instruction -/

theorem popVq {core : Nat} (h : s.Sound n) : (s.popVq core).Sound n := h.modCore
theorem vecDone {core : Nat} {q : QEntry} {fl : Flags} (h : s.Sound n) : (s.vecDone core q fl).Sound n :=
  h.popVq.completeFlags
theorem vecFault {core : Nat} {q : QEntry} {f : AFault} (h : s.Sound n) : (s.vecFault core q f).Sound n := h.popVq.lateFault

theorem vecWrite {core : Nat} {q : QEntry} {r : VOut × Flags} (h : s.Sound n) : (s.vecWrite core q r).Sound n := by
  unfold State.vecWrite
  refine State.Sound.vecDone ?_
  split
  · exact h.modCore
  · exact h.setK
  · exact h.lateWr

/-! ### Accesses by lane -/

theorem laneXlate {core size : Nat} {acc : Access} {as : List Word} {l : List (Word × Nat)} (h : s.Sound n)
    (e : s.laneXlate core acc size as = .ok (l, t)) : t.Sound n := by
  induction as generalizing s l with
  | nil => cases e; exact h
  | cons a as ih =>
    unfold State.laneXlate at e
    split at e
    · cases e
    · next hx =>
      split at e
      · cases e
      · next hl => cases e; exact ih (h.xlateRange hx) hl

theorem laneAccess {core size : Nat} {acc : Access} {as : List Word} {ps : List Nat} (h : s.Sound n)
    (e : s.laneAccess core acc size as = .ok (ps, t)) : t.Sound n := by
  unfold State.laneAccess at e
  split at e
  · cases e
  · next hl =>
    split at e
    · cases e
    · cases e; exact h.laneXlate hl

theorem lanesEach {core : Nat} {acc : Access} {as : List Word} {ps : List Nat} (h : s.Sound n)
    (e : s.lanesEach core acc as = .ok (ps, t)) : t.Sound n := by
  induction as generalizing s ps with
  | nil => cases e; exact h
  | cons a as ih =>
    unfold State.lanesEach at e
    split at e
    · cases e
    · next ha =>
      split at e
      · cases e
      · next hl => cases e; exact ih (h.laneAccess ha) hl

theorem laneLoad {core p size : Nat} (h : s.Sound n) : (s.laneLoad core p size).1.Sound n := by
  unfold State.laneLoad
  split
  · exact h
  · exact h.hold

theorem laneLoads {core size : Nat} {ps : List Nat} (h : s.Sound n) : (s.laneLoads core size ps).1.Sound n := by
  induction ps generalizing s with
  | nil => exact h
  | cons p ps ih => exact ih h.laneLoad

theorem sendPieces {ps : List Piece} (h : s.Sound n) : (s.sendPieces ps).Sound n := h.frame

theorem laneStores {core : Nat} {q : QEntry} {ws : List (Nat × List Byte)} {first : Option Nat} (h : s.Sound n) :
    (s.laneStores core q ws first).Sound n := by
  unfold State.laneStores
  exact (h.foldl fun ht => ht.coreStore).foldl fun ht => .ite ht.perform ht.sendPieces

theorem laneReads {core : Nat} {ps : List Nat} {first : Option Nat} (h : s.Sound n) : (s.laneReads core ps first).Sound n := by
  unfold State.laneReads
  exact h.foldl fun ht => ht.reach.bumpSeq

theorem loadMore {core size : Nat} {q : QEntry} {v : VReg} {ids : List Nat} {first : Option Nat} {l : VLoad}
    (h : s.Sound n) : (s.loadMore core q v size ids first l).Sound n := by
  unfold State.loadMore
  exact .ite trivial (.ite h.laneReads.laneLoads.modCore h.laneReads.laneLoads.vecWrite)

theorem vecAccess {core size : Nat} {q : QEntry} {v : VReg} {lanes : List (Nat × Word)} {wr each : Bool} (h : s.Sound n) :
    (s.vecAccess core q v size lanes wr each).Sound n := by
  unfold State.vecAccess
  dsimp only
  split
  · exact h.loadMore
  · split
    · exact h.vecFault
    · next u e =>
      have ha : u.Sound n := by
        split at e
        · exact h.lanesEach e
        · exact h.laneAccess e
      split
      · trivial
      · next e =>
        have hs := ha.settleInv e
        exact .ite hs.loadMore (.ite trivial hs.laneStores.vecDone)

theorem vecLinear {core size : Nat} {q : QEntry} {v : VReg} {m : KReg} {imm : Word} {wr : Bool} (h : s.Sound n) :
    (s.vecLinear core q v m imm size wr).Sound n := by
  unfold State.vecLinear
  exact .ite h.vecFault h.vecAccess

theorem vecIndexed {core : Nat} {q : QEntry} {v b : VReg} {m : KReg} {wr : Bool} (h : s.Sound n) :
    (s.vecIndexed core q v b m wr).Sound n := by
  unfold State.vecIndexed
  dsimp only
  split
  · exact h.vecFault
  · exact h.vecAccess

theorem vecMask {core : Nat} {q : QEntry} {k : KReg} {wr : Bool} (h : s.Sound n) : (s.vecMask core q k wr).Sound n := by
  unfold State.vecMask
  refine .ite h.vecFault ?_
  split
  · exact h.vecFault
  · next e =>
    split
    · trivial
    · next es =>
      have hs := (h.laneAccess e).settleInv es
      exact .ite trivial (.ite hs.laneStores.vecDone hs.laneReads.laneLoad.vecWrite)

/-! ### Rings, encode and decode -/

theorem scratchWrite {core off : Nat} {agent : BitVec 5} {bs : List Byte} (h : s.Sound n) :
    (s.scratchWrite core agent off bs).Sound n := h.performAll
theorem drained {core k : Nat} {r : HReg} (h : s.Sound n) : (s.drained core r k).Sound n := h.modRing
theorem filledBy {core k : Nat} {r : HReg} (h : s.Sound n) : (s.filledBy core r k).Sound n := h.modRing

theorem vecEncode {core : Nat} {q : QEntry} {r : HReg} {v : VReg} (h : s.Sound n) : (s.vecEncode core q r v).Sound n := by
  unfold State.vecEncode
  exact .ite h.vecFault (.ite h.vecFault (.ite trivial h.scratchWrite.filledBy.vecDone))

theorem vecDecode {core : Nat} {q : QEntry} {v : VReg} {r : HReg} (h : s.Sound n) : (s.vecDecode core q v r).Sound n := by
  unfold State.vecDecode
  exact .ite h.vecFault (.ite h.vecFault (.ite trivial h.drained.vecWrite))

/-! ### The head of the vector queue -/

theorem vecTry {core : Nat} (h : s.Sound n) : (s.vecTry core).Sound n := by
  unfold State.vecTry
  split
  · trivial
  · split
    · exact h.vecWrite
    · split
      · exact h.vecLinear
      · exact h.vecLinear
      · exact h.vecLinear
      · exact h.vecLinear
      · exact h.vecIndexed
      · exact h.vecIndexed
      · exact h.vecMask
      · exact h.vecMask
      · exact h.vecEncode
      · exact h.vecDecode
      · trivial

theorem bindLane {core : Nat} (h : s.Sound n) : (s.bindLane core).Sound n := by
  unfold State.bindLane
  exact .ite (h.modCore.foldl fun ht => ht.modCore) h.modCore

theorem leaseHead {core : Nat} {q : QEntry} (h : s.Sound n) (e : s.leaseHead core q = some t) : t.Sound n := by
  unfold State.leaseHead at e
  have hp := h.popVq (core := core)
  split at e
  · cases e; exact .ite hp hp.complete
  · cases e; exact (State.Sound.ite hp hp.complete).endLease
  · cases e

theorem execVectorInstructionExecute {core : Nat} (h : s.Sound n) : Answers n (execVectorInstructionExecute core s) := by
  refine State.Sound.answer ?_
  split
  · exact h
  · split
    · next e => exact h.leaseHead e
    · refine .ite ?_ h
      split
      · next e => exact (State.Sound.ite h h.bindLane).vecTry.of_did e
      · next e => exact (State.Sound.ite h h.bindLane).vecTry.of_more e
      · exact h

/-! ### The matrix array -/

theorem execLeaseGrant {grove : Nat} (h : s.Sound n) : Answers n (execLeaseGrant grove s) :=
  (h.modGrove (by simp)).answer

theorem execLeaseExpiry {grove : Nat} (h : s.Sound n) : Answers n (execLeaseExpiry grove s) :=
  (h.modGrove (by simp)).answer

theorem execMlease (h : s.Sound n) : Answers n (execMlease s) :=
  h.dispatchWith fun ht => .ite ht.retire (.ite ht.modGrove.retire ht.modGrove.waitOn)

theorem accept {core : Nat} {q : QEntry} {group : List Nat} (h : s.Sound n) : (s.accept core q group).Sound n :=
  h.popVq.modGrove (by intro; dsimp only; split <;> simp)

theorem execMatrixCommandAccept {core : Nat} (h : s.Sound n) : Answers n (execMatrixCommandAccept core s) := by
  refine State.Sound.answer ?_
  split
  · exact h
  · refine .ite h ?_
    dsimp only
    split
    · exact h.vecFault
    · refine .ite h.vecFault ?_
      split
      · exact h
      · exact (State.Sound.ite h.modCore h).vecFault
      · exact .ite h.accept h

theorem matrixRun {a : Accepted} (h : s.Sound n) : (s.matrixRun a).Sound n := by
  unfold State.matrixRun
  dsimp only
  split
  · exact (h.modGroveTo fun hg => hg.setImages).drained.complete
  · exact h.modGrove.drained.completeFlags
  · exact h.modGrove.drained.drained.completeFlags
  · exact (h.foldl fun ht => ht.scratchWrite).filledBy.complete
  · exact h.modGrove.complete
  · exact .ite h.drained.lateFault h.drained.modGrove.complete
  · exact h.complete

theorem execMatrixCommandComplete {grove : Nat} (h : s.Sound n) : Answers n (execMatrixCommandComplete grove s) := by
  refine State.Sound.answer ?_
  split
  · exact h
  · exact h.matrixRun.modGrove

end State.Sound
end Sys2Proof.Machine

/-! SUPPORT. The ring unit, the copy engine, the fetch of code and the continuous fabric keep the order (R119 to R134, R267 to
R273, R286 to R297). -/

namespace Sys2Proof.Machine

/-- Claimed stands are entered in rising order. -/
theorem Sparse.sorted_setAll {m : Sparse Nat} {ks : List Nat} {v : Nat} (h : Sparse.sorted m = true) :
    Sparse.sorted (ks.foldl (fun (m : Sparse Nat) k => m.set k v) m) = true :=
  List.foldlRecOn ks _ (motive := fun (m : Sparse Nat) => Sparse.sorted m = true) h fun _ hm _ _ => Sparse.sorted_set _ _ _ hm

namespace State.Sound
variable {n : Nat} {s t : State}

/-! ### The ring unit -/

theorem popRu {core : Nat} {q : QEntry} (h : s.Sound n) : (s.popRu core q).Sound n := h.modCore
theorem ringFault {core : Nat} {q : QEntry} {f : AFault} (h : s.Sound n) : (s.ringFault core q f).Sound n := h.popRu.lateFault
theorem ringEnd {core : Nat} {q : QEntry} (h : s.Sound n) : (s.ringEnd core q).Sound n := h.popRu.complete

theorem ringSet {core : Nat} {q : QEntry} {r : HReg} (h : s.Sound n) : (s.ringSet core q r).Sound n := by
  unfold State.ringSet
  refine .ite h.ringFault ?_
  split
  · exact h.ringFault
  · next e => exact .ite h.ringFault (.ite trivial (h.xlateRange e).modRing.ringEnd)

theorem ringWait {core : Nat} {q : QEntry} {r : HReg} {c : Word} {full : Bool} (h : s.Sound n) :
    (s.ringWait core q r c full).Sound n := by
  unfold State.ringWait
  exact .ite h.ringFault (.ite h.ringFault (.ite h.ringEnd trivial))

theorem ringMove {core : Nat} {q : QEntry} {r : HReg} {c : Word} {fill : Bool} (h : s.Sound n) :
    (s.ringMove core q r c fill).Sound n := by
  unfold State.ringMove
  exact .ite trivial (.ite h.ringFault (.ite (.ite h.ringFault h.filledBy.ringEnd) (.ite h.ringFault h.drained.ringEnd)))

theorem eventWrite {core ctx : Nat} {d a : SReg} {bits : BitVec 128} (h : s.Sound n) :
    (s.eventWrite core ctx d a bits).Sound n := h.lateWr.lateWr

theorem eventTake {core : Nat} {q : QEntry} {d a : SReg} {waits : Bool} (h : s.Sound n) :
    (s.eventTake core q d a waits).Sound n := by
  unfold State.eventTake
  split
  · exact h.modCore.eventWrite.ringEnd
  · exact .ite trivial h.eventWrite.ringEnd

theorem ringDo {core : Nat} {q : QEntry} (h : s.Sound n) : (s.ringDo core q).Sound n := by
  unfold State.ringDo
  split
  · exact h.ringSet
  · exact h.lateWr.ringEnd
  · exact h.ringWait
  · exact h.ringWait
  · exact h.ringMove
  · exact h.ringMove
  · exact h.eventTake
  · exact h.eventTake
  · exact .ite h.ringFault (.ite h.ringEnd trivial)
  · trivial

theorem ringStep {core ctx : Nat} (h : s.Sound n) : (s.ringStep core ctx).Sound n := by
  unfold State.ringStep
  split
  · exact h
  · refine .ite h ?_
    have hr := h.on (core := core) (ctx := ctx) |>.retire
    dsimp only
    split
    · exact h
    · next e => exact (Tried.Sound.ite (State.Sound.ite hr h).ringEnd (State.Sound.ite hr h).ringDo).of_did e
    · next e => exact (Tried.Sound.ite (State.Sound.ite hr h).ringEnd (State.Sound.ite hr h).ringDo).of_more e

theorem execRingUnitPerform {core ctx : Nat} (h : s.Sound n) : Answers n (execRingUnitPerform core ctx s) := h.ringStep.answer

theorem ringHeld {i : Instr} {a b : SReg} (h : s.Sound n) : Answers n (s.ringHeld i a b) :=
  h.dispatchWith fun ht => ht.retire.ringStep

theorem execCpwait {ch : BitVec 2} {a : SReg} (h : s.Sound n) : Answers n (execCpwait ch a s) :=
  (h.begin fun ht => ht.enqueue fun hu => hu.waitOn.ringStep).answer

/-! ### The copy engine -/

theorem modCopy {core : Nat} {seq : BitVec 16} {f : CopyReq → CopyReq} (h : s.Sound n) : (s.modCopy core seq f).Sound n :=
  h.modCore

theorem ownDest {seq : BitVec 16} {dst lw : Word} (h : s.Sound n) : (s.ownDest seq dst lw).Sound n := by
  unfold State.ownDest
  refine .ite h ?_
  split
  · exact h
  · next e => exact (h.xlateRange e).takeLines

theorem execCpq {ch : BitVec 2} {d a b : SReg} {c : CReg} (h : s.Sound n) : Answers n (execCpq ch d a b c s) :=
  (State.Sound.ite h.illegal (h.begin fun ht => .ite ht ht.drainCtx.numbered.modMe.ownDest.result)).answer

theorem copyFault {core : Nat} {r : CopyReq} {f : AFault} (h : s.Sound n) : (s.copyFault core r f).Sound n :=
  h.modCopy.lateFault

theorem copyChecks {core : Nat} {r : CopyReq} {src dst : Runs} (h : s.Sound n)
    (e : s.copyChecks core r = .ok (src, dst, t)) : t.Sound n := by
  unfold State.copyChecks at e
  dsimp only at e
  split at e
  · cases e
  · split at e
    · cases e
    · next hs =>
      split at e
      · cases e
      · next hd =>
        split at e
        · cases e
        · cases e
        · cases e; exact (h.xlateRange hs).xlateRange hd

theorem copyWrite {core : Nat} {r : CopyReq} {dst : Runs} {bs : List Byte} (h : s.Sound n) :
    (s.copyWrite core r dst bs).Sound n :=
  h.foldl fun ht => .ite ht.sendPieces (ht.onLines fun hu => hu.flushLine).writeLlc

theorem copyRead {core : Nat} {r r' : CopyReq} (h : s.Sound n) (e : s.copyRead core r = some (t, r')) : t.Sound n := by
  unfold State.copyRead at e
  extract_lets src at e
  split at e
  · cases e
  · obtain ⟨ht, -⟩ := Prod.mk.inj (Option.some.inj e)
    exact ht ▸ h.readRuns.modCopy

theorem copyPut {core : Nat} {r : CopyReq} (h : s.Sound n) : (s.copyPut core r).Sound n :=
  h.copyWrite.releaseRange.modCopy

theorem copyGo {core : Nat} {r : CopyReq} (h : s.Sound n) (e : s.copyGo core r = some t) : t.Sound n := by
  unfold State.copyGo at e
  split at e
  · split at e
    · cases e
    · next hr => cases e; exact .ite (h.copyRead hr) (h.copyRead hr).copyPut
  · cases e; exact h.copyPut

theorem copyMove {core : Nat} {r : CopyReq} (h : s.Sound n) (e : s.copyMove core r = some t) : t.Sound n := by
  unfold State.copyMove at e
  split at e
  · exact h.copyGo e
  · cases e

theorem copyStep {core : Nat} {ch : BitVec 2} {r : CopyReq} (h : s.Sound n) : (s.copyStep core ch r).Sound n := by
  unfold State.copyStep
  refine State.Sound.modCore ?_
  cases e : s.copyMove core r with
  | none => exact h
  | some t => exact h.copyMove e

theorem execCopyChunk {core : Nat} {ch : BitVec 2} (h : s.Sound n) : Answers n (execCopyChunk core ch s) := by
  refine State.Sound.answer (.ite h ?_)
  split
  · exact h
  · refine .ite h.copyStep ?_
    split
    · exact h.copyFault.modCore
    · next e => exact (h.copyChecks e).modCopy.copyStep

theorem copyDone {core : Nat} {r : CopyReq} (h : s.Sound n) : (s.copyDone core r).Sound n := h.modCore.complete
theorem copyPost {core : Nat} {r : CopyReq} (h : s.Sound n) : (s.copyPost core r).Sound n := .ite h.modCopy h.modCore.copyDone

theorem copyAdvance {core : Nat} {r : CopyReq} (h : s.Sound n) : (s.copyAdvance core r).1.Sound n := by
  unfold State.copyAdvance
  dsimp only
  split
  · exact h
  · split
    · exact h.filledBy
    · exact h.copyFault

theorem execCopyComplete {core : Nat} {ch : BitVec 2} (h : s.Sound n) : Answers n (execCopyComplete core ch s) := by
  refine State.Sound.answer ?_
  split
  · exact h
  · exact .ite h (.ite (State.Sound.ite h.flushSeq h).copyAdvance.copyPost (State.Sound.ite h.flushSeq h).copyAdvance.copyDone)

theorem execEventRecordPost {core : Nat} {ch : BitVec 2} (h : s.Sound n) : Answers n (execEventRecordPost core ch s) := by
  refine State.Sound.answer ?_
  split
  · exact h
  · exact .ite h.copyPost h

/-! ### The fetch of code -/

theorem keepCode {rs : Runs} (h : s.Sound n) : (s.keepCode rs).Sound n := h.onLines fun ht => ht.modMe

theorem fetchWord {va : Word} {w : BitVec 16} (h : s.Sound n) (e : s.fetchWord va = .ok (w, t)) : t.Sound n := by
  unfold State.fetchWord at e
  split at e
  · cases e
  · next ha =>
    split at e
    · cases e
    · cases e
    · cases e; exact (h.access ha).keepCode

theorem fetchWords {k : Nat} {va : Word} {ws : List (BitVec 16)} (h : s.Sound n) (e : s.fetchWords k va = .ok (ws, t)) :
    t.Sound n := by
  induction k generalizing s va ws with
  | zero => cases e; exact h
  | succ k ih =>
    unfold State.fetchWords at e
    split at e
    · cases e
    · next hw =>
      split at e
      · split at e
        · cases e
        · next hs => cases e; exact ih (h.fetchWord hw) hs
      · cases e; exact h.fetchWord hw

theorem fetchNext {va a : Word} (h : s.Sound n) (e : s.fetchNext va = .ok (a, t)) : t.Sound n := by
  unfold State.fetchNext at e
  split at e
  · cases e
  · next hs => cases e; exact h.fetchWords hs

theorem withNext (h : s.Sound n) (e : s.withNext = .ok t) : t.Sound n := by
  unfold State.withNext at e
  split at e
  · cases e
  · next hs => cases e; exact (h.fetchNext hs).modCx

theorem fetchFault {fresh : Bool} {f : AFault} (h : s.Sound n) : (s.fetchFault fresh f).Sound n :=
  (State.Sound.ite h.modCx h).takeFault

/-! ### The fabric -/

theorem modInteg {core j : Nat} {f : Integ → Integ} (h : s.Sound n) : (s.modInteg core j f).Sound n := by
  unfold State.modInteg
  exact h.modDie

theorem takeStands {core : Nat} {mask : BitVec 16} (h : s.Sound n) : (s.takeStands core mask).Sound n := by
  unfold State.takeStands
  refine State.Sound.modCore (h.modDieTo fun hd => ?_)
  exact { hd with stands := fun hn => Sparse.sorted_setAll (hd.stands hn) }

theorem configure {core w : Nat} (h : s.Sound n) : (s.configure core w).Sound n := h.modInteg

theorem endRun {core ns : Nat} {st : RunStatus} (h : s.Sound n) : (s.endRun core st ns).Sound n := by
  unfold State.endRun
  exact .ite h.drawn.modCore.lateFault h.drawn.modCore.complete

theorem execRunSettled {core : Nat} (h : s.Sound n) : Answers n (execRunSettled core s) := (State.Sound.ite h.endRun h).answer
theorem execRunTimeout {core : Nat} (h : s.Sound n) : Answers n (execRunTimeout core s) := (State.Sound.ite h.endRun h).answer
theorem execRunSaturated {core : Nat} (h : s.Sound n) : Answers n (execRunSaturated core s) :=
  (State.Sound.ite h.endRun h).answer

theorem fabRuns {core m : Nat} {acc : Access} {va : Word} {rs : Runs} (h : s.Sound n)
    (e : s.fabRuns core acc va m = .ok (rs, t)) : t.Sound n := h.access e

theorem journalFind {core fuel k : Nat} {j : Word} {r : Option (Nat × Nat)} (h : s.Sound n)
    (e : s.journalFind core j fuel k = .ok (r, t)) : t.Sound n := by
  induction fuel generalizing s k with
  | zero => cases e
  | succ fuel ih =>
    unfold State.journalFind at e
    split at e
    · cases e
    · next hr =>
      have ha := h.fabRuns hr
      dsimp only at e
      split at e
      · cases e; exact ha
      · split at e
        · cases e; exact ha.readRuns
        · exact ih ha.readRuns e

theorem popFq {core : Nat} (h : s.Sound n) : (s.popFq core).Sound n := h.modCore
theorem fabMore {core : Nat} {w : FabWork} (h : s.Sound n) : (s.fabMore core w).Sound n := h.modCore
theorem fabFault {core : Nat} {q : QEntry} {f : AFault} (h : s.Sound n) : (s.fabFault core q f).Sound n := h.popFq.lateFault
theorem fabEnd {core : Nat} {q : QEntry} (h : s.Sound n) : (s.fabEnd core q).Sound n := h.popFq.complete

theorem sampleWrite {core ctx : Nat} {d a : SReg} {v g : Nat} (h : s.Sound n) : (s.sampleWrite core ctx d a v g).Sound n :=
  h.lateWr.lateWr

theorem fabClaim {core : Nat} {q : QEntry} {d : SReg} (h : s.Sound n) : (s.fabClaim core q d).Sound n :=
  .ite h.takeStands.lateWr.fabEnd h.lateWr.fabEnd

theorem fabApply {core : Nat} {q : QEntry} {bs : List Byte} (h : s.Sound n) : (s.fabApply core q bs).Sound n := by
  unfold State.fabApply
  exact .ite (h.foldl fun ht => ht.configure).fabEnd h.fabFault

theorem fabImage {core : Nat} {q : QEntry} {left : Runs} {got : List Byte} (h : s.Sound n) :
    (s.fabImage core q left got).Sound n := .ite trivial (.ite h.readRuns.fabApply h.readRuns.fabMore)

theorem fabConfigure {core : Nat} {q : QEntry} (h : s.Sound n) : (s.fabConfigure core q).Sound n := by
  unfold State.fabConfigure
  split
  · exact h.fabImage
  · refine .ite h.fabFault (.ite h.fabFault ?_)
    split
    · exact h.fabFault
    · next e => exact (h.fabRuns e).fabImage

theorem fabScale {core : Nat} {q : QEntry} (h : s.Sound n) : (s.fabScale core q).Sound n := .ite h.fabFault h.modCore.fabEnd

theorem fabStart {core : Nat} {q : QEntry} (h : s.Sound n) : (s.fabStart core q).Sound n :=
  .ite h.fabFault (.ite h.modCore.fabEnd h.popFq.modCore)

theorem fabReplay {core j : Nat} {q : QEntry} {d a : SReg} (h : s.Sound n) : (s.fabReplay core q d a j).Sound n := by
  unfold State.fabReplay
  dsimp only
  split
  · exact h.fabFault
  · trivial
  · next e => exact .ite (h.journalFind e).modCore.sampleWrite.fabEnd (h.journalFind e).fabFault

theorem journalPut {core : Nat} {q : QEntry} {rs : Runs} {bs : List Byte} (h : s.Sound n) :
    (s.journalPut core q rs bs).Sound n :=
  h.foldl fun ht => .ite ht.sendPieces (ht.onLines fun hu => hu.flushLine).writeLlc

theorem fabRecord {core j v g : Nat} {q : QEntry} {d a : SReg} (h : s.Sound n) : (s.fabRecord core q d a j v g).Sound n := by
  unfold State.fabRecord
  dsimp only
  split
  · exact .ite h.sampleWrite.fabEnd trivial
  · refine .ite h.sampleWrite.fabFault ?_
    split
    · exact h.fabFault
    · next e =>
      exact .ite (h.fabRuns e).journalPut.modPart.drawn.fabMore (h.fabRuns e).journalPut.modPart.drawn.sampleWrite.fabEnd

theorem fabSample {core j : Nat} {q : QEntry} {d a : SReg} (h : s.Sound n) : (s.fabSample core q d a j).Sound n :=
  .ite h.fabFault (.ite h.fabReplay (.ite h.fabRecord h.drawn.sampleWrite.fabEnd))

theorem fabDo {core : Nat} {q : QEntry} (h : s.Sound n) : (s.fabDo core q).Sound n := by
  unfold State.fabDo
  have rest {k : Tried} (hk : k.Sound n) : Tried.Sound n (if (s.getCore core).fab.claim = 0 then
      s.fabFault core q (plainFault 0x0030) else if (s.getCore core).fab.status = .running then .wait else k) :=
    .ite h.fabFault (.ite trivial hk)
  dsimp only
  split
  · exact h.fabClaim
  · exact .ite (State.Sound.ite h.popFq h.popFq.endClaim) (.ite h.fabFault h.endClaim.fabEnd)
  · exact rest h.fabConfigure
  · exact rest h.fabScale
  · exact rest h.fabStart
  · exact rest h.lateWr.fabEnd
  · exact .ite h.fabFault h.lateWr.fabEnd
  · exact rest h.fabSample
  · trivial

theorem fabStep {core : Nat} (h : s.Sound n) : (s.fabStep core).Sound n := by
  unfold State.fabStep
  split
  · exact h
  · refine .ite h ?_
    have hr := h.on (core := core) (ctx := 0) |>.retire
    split
    · next e => exact h.fabDo.of_more e
    · next e => exact (State.Sound.ite hr h).fabDo.of_did e
    · exact h

theorem execFabricInstructionPerform {core : Nat} (h : s.Sound n) : Answers n (execFabricInstructionPerform core s) :=
  h.fabStep.answer

theorem fabWaits {i : Instr} (h : s.Sound n) : Answers n (s.fabWaits i) :=
  h.dispatchWith fun ht => .ite ht.retire (State.Sound.ite ht.waitOn ht.retire).fabStep

theorem execAfcfgClaim {d a : SReg} (h : s.Sound n) : Answers n (execAfcfgClaim d a s) :=
  (State.Sound.ite h.illegal (h.begin fun ht => .ite ht.illegal (ht.enqueue fun hu => hu.retire))).answer

end State.Sound
end Sys2Proof.Machine

/-! SUPPORT. Pools, cleared dies, launches and the inbox keep the order (R31, R74 to R82, R298, R320 to R323, R373 to R376,
R391). -/

namespace Sys2Proof.Machine

theorem Core.Sound.cleared {n : Nat} {c : Core} : c.clear.Sound n := ⟨fun _ => rfl, fun _ => rfl⟩

namespace State.Sound
variable {n : Nat} {s t : State}

/-! ### Pools -/

theorem execPoolSummary {part pool shard : Nat} (h : s.Sound n) : Answers n (execPoolSummary part pool shard s) :=
  (State.Sound.ite h.modPool h).answer
theorem execPoolSummaryAck {part pool src dst : Nat} (h : s.Sound n) : Answers n (execPoolSummaryAck part pool src dst s) :=
  h.modPool.answer
theorem execPputLinearize {part pool shard : Nat} (h : s.Sound n) : Answers n (execPputLinearize part pool shard s) :=
  h.modPool.answer
theorem execPoolRebalance {part pool src dst : Nat} (h : s.Sound n) : Answers n (execPoolRebalance part pool src dst s) :=
  (State.Sound.ite h.modPool h).answer

theorem takeWrite {r : ArbReq} {key payload : Word} (h : s.Sound n) : (s.takeWrite r key payload).Sound n := .ite h.modCtx h

theorem execPoolArbiterTake {part pool : Nat} (h : s.Sound n) : Answers n (execPoolArbiterTake part pool s) := by
  refine State.Sound.answer (.ite h ?_)
  split
  · exact h
  · split
    · exact .ite h.modPool.takeWrite.on.retire.on h.modPool.takeWrite
    · exact .ite h.modPool h.modPool

theorem execPoolEmptinessSweep {part pool : Nat} (h : s.Sound n) : Answers n (execPoolEmptinessSweep part pool s) := by
  unfold Machine.execPoolEmptinessSweep
  refine State.Sound.answer ?_
  dsimp only
  split
  · exact .ite h.modPool.modPool.takeWrite h.modPool
  · exact h.modPool

/-- An instruction that its context may not be allowed to issue (R298). -/
theorem system {control : Bool} {srcs dests : List SReg} {k : State → State} (h : s.Sound n)
    (hk : ∀ {t : State}, t.Sound n → (k t).Sound n) : Answers n (s.system control srcs dests k) :=
  (State.Sound.ite h.illegal (h.begin hk)).answer

theorem execPput {d a : SReg} {imm : Word} (h : s.Sound n) : Answers n (execPput d a imm s) :=
  h.system fun ht => .ite ht.illegal (.ite ht.fault (.ite ht.fault (.ite ht (.ite ht.fault ht.modPool.retire))))

theorem take {d a : SReg} {p : Nat} {waits : Bool} (h : s.Sound n) : (s.take d a p waits).Sound n := by
  unfold State.take
  dsimp only
  split
  · exact h.modPool.takeWrite.retire
  · exact .ite h.waitOn (.ite h.modPool.waitOn h.modPool.retire)

theorem execPtake {d a : SReg} {imm : Word} (h : s.Sound n) : Answers n (execPtake d a imm s) :=
  h.system fun ht => .ite ht.illegal (.ite ht ht.take)

theorem execPtakeW {d a : SReg} {imm : Word} (h : s.Sound n) : Answers n (execPtakeW d a imm s) :=
  h.system fun ht => .ite ht.illegal (.ite ht ht.take)

theorem execPcancel {d a : SReg} {imm : Word} (h : s.Sound n) : Answers n (execPcancel d a imm s) :=
  h.system fun ht => .ite ht.illegal (.ite ht.fault (.ite ht ht.modPool.result))

theorem putNode {part : Nat} {key tag : Word} (h : s.Sound n) : (s.putNode part key tag).Sound n := by
  unfold State.putNode
  exact h.modPool
theorem cancelNode {part : Nat} {tag : Word} (h : s.Sound n) : (s.cancelNode part tag).Sound n := h.modPool

/-! ### Cleared dies and dropped translations -/

theorem flushDie {die : Nat} (h : s.Sound n) : (s.flushDie die).Sound n := h.foldl fun ht => ht.flushLine

theorem clearDie {die : Nat} (h : s.Sound n) : (s.clearDie die).Sound n :=
  { h.flushDie.modDie (d := die) (f := fun d => { d with tlb := [], walks := [] }) with
    cores := List.forall_mem_map.2 fun c hc => by
      dsimp only
      split
      · exact Core.Sound.cleared
      · exact h.flushDie.cores c hc
    groves := List.forall_mem_map.2 fun g hg => by
      dsimp only
      split
      · exact Grove.Sound.clear
      · exact h.flushDie.groves g hg }

/-- Every core changes, and none of them in its memories. -/
theorem mapCores {f : Nat × Core → Core} (h : s.Sound n) (hs : ∀ c, (f c).scratch = c.2.scratch := by intro; rfl)
    (hp : ∀ c, (f c).port.inbox = c.2.port.inbox := by intro; rfl) :
    State.Sound n { s with cores := s.cores.map fun c => (c.1, f c) } :=
  { h with cores := List.forall_mem_map.2 fun c hc => (h.cores c hc).frame (hs c) (hp c) }

theorem dropTlb {part : Nat} {f : TlbEntry → Bool} {g : WalkEntry → Bool} (h : s.Sound n) : (s.dropTlb part f g).Sound n :=
  (h.foldl fun ht => ht.modDie).mapCores

theorem drainFree {core : Nat} (h : s.Sound n) : (s.drainFree core).Sound n := h.foldl fun ht => .ite ht.drainOne ht

/-! ### Launches -/

theorem readLaunch {part i : Nat} {r : Option LRec} (h : s.Sound n) (e : s.readLaunch part i = (r, t)) : t.Sound n := by
  unfold State.readLaunch at e
  split at e
  · next he => cases e; exact h.engRead he
  · next he =>
    dsimp only at e
    split at e
    · cases e; exact h.engRead he
    · cases e; exact h.engRead he

theorem declare {part i : Nat} {d : BitVec 64} (h : s.Sound n) : (s.declare part i d).Sound n := by
  unfold State.declare
  exact h.modEp.modEp

theorem armRelease {part i : Nat} (h : s.Sound n) : (s.armRelease part i).Sound n := by
  unfold State.armRelease
  exact .ite (h.foldl fun ht => ht.declare).modLaunch.modPart h.modLaunch

theorem arm {part i : Nat} {r : LRec} {tag : Word} {gen : BitVec 20} {level : BitVec 2} (h : s.Sound n) :
    (s.arm part i r tag gen level).Sound n := h.engWrite.modLaunch.launchBack.armRelease

theorem execArmingRelease {part idx : Nat} (h : s.Sound n) : Answers n (execArmingRelease part idx s) :=
  (State.Sound.ite h.armRelease h).answer

theorem reserve {core : Nat} (h : s.Sound n) : (s.reserve core).Sound n := h.modCore.trace.replayPop.bumpSeq

theorem modDelivery {core : Nat} {placed : Bool} {f : Delivery → Option Delivery} (h : s.Sound n) :
    (s.modDelivery core placed f).Sound n := h.modPart

theorem deliver {core : Nat} (h : s.Sound n) (e : s.deliver core = some t) : t.Sound n := by
  unfold State.deliver at e
  split at e
  · cases e
  · dsimp only at e
    split at e
    · split at e
      · cases e; exact h.perform.modDelivery
      · cases e
    · split at e
      · cases e; exact h.modDelivery
      · split at e
        · cases e; exact h.perform.modDelivery
        · cases e

theorem deliverReserve {core : Nat} (h : s.Sound n) (e : s.deliverReserve core = some t) : t.Sound n := by
  unfold State.deliverReserve at e
  split at e
  · cases e
  · split at e
    · cases e; exact h.ownCore.reserve.modDelivery
    · cases e

theorem execHeldInboxDelivery {core : Nat} (h : s.Sound n) : Answers n (execHeldInboxDelivery core s) :=
  (State.Sound.getD h.markHeld (.getD h.deliver (.getD h.deliverReserve h))).answer

theorem execLaunchConfirm {part idx : Nat} (h : s.Sound n) : Answers n (execLaunchConfirm part idx s) := by
  unfold Machine.execLaunchConfirm
  refine State.Sound.answer (.ite ?_ h)
  exact .ite (State.Sound.ite h.modLaunch h.modLaunch.signal).report (.ite h.modLaunch h.modLaunch.signal)

/-! ### The inbox -/

theorem execItake {d : SReg} (h : s.Sound n) : Answers n (execItake d s) := h.system fun ht => ht.result

theorem startUnit {slot : Nat} (h : s.Sound n) : (s.startUnit slot).Sound n := h.ownCore.modMe

theorem execIrel {d : SReg} (h : s.Sound n) : Answers n (execIrel d s) :=
  h.system fun ht => .ite ht.fault (State.Sound.ite ht ht.startUnit).modMe.result

theorem execIwait {d : SReg} (h : s.Sound n) : Answers n (execIwait d s) := h.system fun ht => .ite ht.result ht.waitOn

theorem execIwaitP {d a : SReg} (h : s.Sound n) : Answers n (execIwaitP d a s) :=
  h.system fun ht => .ite ht.illegal (.ite ht.result (.ite ht.result ht.waitOn))

/-! ### The end of a unit -/

theorem placeSys (h : s.Sound n) : s.placeSys.Sound n := by
  unfold State.placeSys
  exact (State.Sound.ite h.passUp h).modMe
theorem clearUnit (h : s.Sound n) : s.clearUnit.Sound n := h.modMe

theorem execGdone (h : s.Sound n) : Answers n (execGdone s) :=
  h.system fun ht => by
    split
    · exact ht.fault
    · refine .ite ht.waitOn ?_
      dsimp only
      split
      · exact ht.unbindAll.placeSys.clearUnit.modCx.foldl fun hu => hu.logLate
      · exact ht.unbindAll.placeSys.clearUnit.modCx.unitOver.foldl fun hu => hu.reportLaunch

end State.Sound
end Sys2Proof.Machine

/-! SUPPORT. The graph engine keeps the order (R60 to R72, R316 to R319, R376 to R381). -/

namespace Sys2Proof.Machine.State.Sound
variable {n : Nat} {s t : State}

/-! ### Node and graph records -/

theorem writeNode {part slot i : Nat} (h : s.Sound n) : (s.writeNode part slot i).Sound n := by
  unfold State.writeNode
  exact h.engPatch
theorem writeGraph {part slot : Nat} (h : s.Sound n) : (s.writeGraph part slot).Sound n := by
  unfold State.writeGraph
  exact h.engPatch.engWrite
theorem modNode {part slot i : Nat} {f : Node → Node} (h : s.Sound n) : (s.modNode part slot i f).Sound n :=
  h.modGraph.writeNode

theorem readIndices {part k : Nat} {va : Word} {r : Option (List Nat)} (h : s.Sound n)
    (e : s.readIndices part va k = (r, t)) : t.Sound n := by
  unfold State.readIndices at e
  split at e
  · next he => cases e; exact h.engRead he
  · next he => cases e; exact h.engRead he

theorem readNode {part : Nat} {va : Word} {r : Option Node} (h : s.Sound n) (e : s.readNode part va = (r, t)) :
    t.Sound n := by
  unfold State.readNode at e
  split at e
  · next he => cases e; exact h.engRead he
  · next he =>
    have hr := h.engRead he
    dsimp only at e
    split at e
    · cases e; exact hr
    · split at e
      · next hp => cases e; exact hr.readIndices hp
      · next hp =>
        split at e
        · next hs => cases e; exact (hr.readIndices hp).readIndices hs
        · next hs => cases e; exact (hr.readIndices hp).readIndices hs

theorem readNodes {part fuel i : Nat} {base : Word} {r : Option (Sparse Node)} (h : s.Sound n)
    (e : s.readNodes part base fuel i = (r, t)) : t.Sound n := by
  induction fuel generalizing s i r with
  | zero => cases e; exact h
  | succ fuel ih =>
    unfold State.readNodes at e
    split at e
    · next he => cases e; exact h.readNode he
    · next he =>
      split at e
      · next hs => cases e; exact ih (h.readNode he) hs
      · next hs => cases e; exact ih (h.readNode he) hs

theorem readGraph {part : Nat} {addr : Word} {r : Option Graph} (h : s.Sound n) (e : s.readGraph part addr = (r, t)) :
    t.Sound n := by
  unfold State.readGraph at e
  split at e
  · next he => cases e; exact h.engRead he
  · next he =>
    have hr := h.engRead he
    dsimp only at e
    split at e
    · cases e; exact hr
    · split at e
      · next hs => cases e; exact hr.readNodes hs
      · next hs => cases e; exact hr.readNodes hs

/-! ### Phases and jobs -/

theorem modJob {part : Nat} {f : Job → Job} (h : s.Sound n) : (s.modJob part f).Sound n := h.modPart
theorem jobEnd {part : Nat} (h : s.Sound n) : (s.jobEnd part).Sound n := .ite h.modJob.signal h

theorem phaseEnd {part p : Nat} (h : s.Sound n) : (s.phaseEnd part p).Sound n := by
  unfold State.phaseEnd
  exact .ite h.modJob.engPatch.signal.modJob.engPatch.jobEnd h

theorem phaseLeft {part p k : Nat} (h : s.Sound n) : (s.phaseLeft part p k).Sound n := by
  unfold State.phaseLeft
  exact h.modJob.engPatch
theorem phaseDrain {part p : Nat} (h : s.Sound n) : (s.phaseDrain part p).Sound n := .ite h.phaseLeft.phaseEnd h

theorem phaseCount {part slot : Nat} (h : s.Sound n) : (s.phaseCount part slot).Sound n := by
  unfold State.phaseCount
  exact (State.Sound.ite (.ite h.modGraph.phaseLeft.phaseEnd h.modGraph) h).phaseDrain

/-! ### The end of a graph -/

theorem graphSettle {part slot : Nat} (h : s.Sound n) : (s.graphSettle part slot).Sound n := by
  unfold State.graphSettle
  exact .ite h.writeGraph.modGraph.signal.phaseCount h.writeGraph

theorem cancelVisit {part slot i : Nat} (h : s.Sound n) : (s.cancelVisit part slot i).Sound n := by
  unfold State.cancelVisit
  have hc {p : Prop} [Decidable p] {tag : Word} := State.Sound.ite (c := p) (h.cancelNode (part := part) (tag := tag)) h
  exact .ite h (State.Sound.ite hc.stopLaunch hc).modGraph.modNode

theorem cancelGraph {part slot : Nat} {cause : BitVec 16} {root : BitVec 32} {idle : Bool} (h : s.Sound n) :
    (s.cancelGraph part slot cause root idle).Sound n := by
  unfold State.cancelGraph
  exact .ite h ((State.Sound.ite h.modGraph h.modGraph.count).foldl fun ht => ht.cancelVisit).graphSettle

theorem execGraphCancel {part slot : Nat} (h : s.Sound n) : Answers n (execGraphCancel part slot s) :=
  (State.Sound.ite h.graphSettle h.cancelGraph).answer

/-! ### Arming -/

theorem staleReport {part what : Nat} {tag : Word} {code : BitVec 16} (h : s.Sound n) :
    (s.staleReport part tag what code).Sound n := h.logPart

theorem handleLeft {part slot : Nat} (h : s.Sound n) : (s.handleLeft part slot).Sound n := by
  unfold State.handleLeft
  refine State.Sound.modPart (h.foldl fun {t e} ht => ?_)
  cases e with
  | token => exact ht
  | provisional => exact .ite ht ht.staleReport
  | confirm => exact .ite ht ht.staleReport
  | fault => exact .ite ht ht.staleReport

theorem putReady {part slot : Nat} (h : s.Sound n) : (s.putReady part slot).Sound n := by
  unfold State.putReady
  exact h.foldl fun ht => .ite ht.putNode ht

theorem armGraph {part slot : Nat} (h : s.Sound n) : (s.armGraph part slot).2.Sound n := by
  unfold State.armGraph
  split
  · exact h
  · dsimp only
    split
    · exact h
    · split
      · next e => exact h.readGraph e
      · next e =>
        split
        · exact h.readGraph e
        · exact ((h.readGraph e).handleLeft.modGraph.foldl fun ht => ht.writeNode).writeGraph.putReady

theorem execGarm {d a : SReg} (h : s.Sound n) : Answers n (execGarm d a s) := h.system fun ht => ht.armGraph.result

theorem armLaunch {part : Nat} {tag : Word} (h : s.Sound n) : (s.armLaunch part tag).2.Sound n := by
  unfold State.armLaunch
  dsimp only
  split
  · next e => exact h.readLaunch e
  · next e =>
    have hr := h.readLaunch e
    split
    · split
      · exact hr.modNode.writeGraph.arm
      · exact hr
    · split
      · exact hr
      · split
        · exact hr
        · exact hr.arm

theorem execLarm {d a : SReg} (h : s.Sound n) : Answers n (execLarm d a s) := h.system fun ht => ht.armLaunch.result

theorem patchLaunch {part : Nat} {i word value : Word} (h : s.Sound n) (e : s.patchLaunch part i word value = some t) :
    t.Sound n := by
  unfold State.patchLaunch at e
  split at e
  · cases e
  · cases e; exact h.engWrite

theorem execLpatch {a b : SReg} {c : CReg} (h : s.Sound n) : Answers n (execLpatch a b c s) :=
  h.system fun ht => by
    split
    · exact ht.fault
    · next e => exact (ht.patchLaunch e).retire

/-! ### Events of the graph engine -/

theorem takeEvent {part : Nat} {ev : GraphEvent} (h : s.Sound n) (e : s.takeEvent part ev = some t) : t.Sound n := by
  unfold State.takeEvent at e
  dsimp only at e
  generalize (if 0 < (s.getPart part).replays then (s.getPart part).backlog.head?
    else (s.getPart part).backlog.find? fun x => x.slot == ev.slot) = o at e
  cases o with
  | none => cases e
  | some x =>
    dsimp only at e
    split at e
    · cases e; exact h.modPart
    · cases e

theorem token {part slot i : Nat} (h : s.Sound n) : (s.token part slot i).Sound n := by
  unfold State.token
  exact .ite (.ite h.modNode.putNode h.modNode) h

theorem execGraphToken {part slot node : Nat} (h : s.Sound n) : Answers n (execGraphToken part slot node s) := by
  refine State.Sound.answer ?_
  split
  · exact h
  · next e => exact (h.takeEvent e).token

theorem execGraphProvisionalReport {part : Nat} {tag : Word} (h : s.Sound n) :
    Answers n (execGraphProvisionalReport part tag s) := by
  refine State.Sound.answer ?_
  split
  · exact h
  · next e =>
    have ht := h.takeEvent e
    split
    · exact ht.staleReport
    · exact .ite ht (.ite ht.modNode.writeGraph.modPart (ht.modNode.writeGraph.foldl fun hu => hu.token))

theorem spread {part slot i : Nat} (h : s.Sound n) : (s.spread part slot i).Sound n := h.foldl fun ht => .ite ht.modNode ht

theorem execGraphConfirmReport {part : Nat} {tag : Word} (h : s.Sound n) : Answers n (execGraphConfirmReport part tag s) := by
  refine State.Sound.answer ?_
  split
  · exact h
  · next e =>
    have ht := h.takeEvent e
    split
    · exact ht.staleReport
    · exact ht.modGraph.spread.graphSettle

/-! ### Walks -/

theorem startWalk {part slot root : Nat} (h : s.Sound n) : (s.startWalk part slot root).Sound n := by
  unfold State.startWalk
  exact h.modNode.count.modGraph

theorem endWalk {part slot : Nat} (h : s.Sound n) : (s.endWalk part slot).Sound n := by
  unfold State.endWalk
  dsimp only
  split
  · exact h.modGraph
  · exact h.modGraph.startWalk

theorem startQueued {part slot : Nat} (h : s.Sound n) : (s.startQueued part slot).Sound n := .ite h.endWalk.writeGraph h

theorem execGraphFaultReport {part : Nat} {tag : Word} {code : BitVec 16} (h : s.Sound n) :
    Answers n (execGraphFaultReport part tag code s) := by
  refine State.Sound.answer ?_
  split
  · exact h
  · next e =>
    have ht := h.takeEvent e
    refine State.Sound.startQueued ?_
    split
    · exact ht.staleReport
    · exact .ite ht (.ite ht.modNode.modGraph.writeGraph ht.modNode.cancelGraph)

theorem mark {part slot i : Nat} (h : s.Sound n) : (s.mark part slot i).Sound n := by
  unfold State.mark
  have hc {p : Prop} [Decidable p] {tag : Word} := State.Sound.ite (c := p) (h.cancelNode (part := part) (tag := tag)) h
  exact (State.Sound.ite hc.stopLaunch hc).modGraph.modNode

theorem execWalkMarkStep {part slot : Nat} (h : s.Sound n) : Answers n (execWalkMarkStep part slot s) := by
  unfold Machine.execWalkMarkStep
  exact (State.Sound.ite h (State.Sound.ite h.mark h).modGraph.writeGraph).answer

theorem retry {part slot : Nat} (h : s.Sound n) : (s.retry part slot).Sound n := by
  unfold State.retry
  exact h.modNode

theorem recount {part slot i : Nat} (h : s.Sound n) : (s.recount part slot i).Sound n := by
  unfold State.recount
  exact .ite h.modNode.putNode h.modNode

theorem walkOver {part slot : Nat} (h : s.Sound n) : (s.walkOver part slot).Sound n := h.count.modGraph.endWalk

theorem execWalkRecountStep {part slot : Nat} (h : s.Sound n) : Answers n (execWalkRecountStep part slot s) := by
  unfold Machine.execWalkRecountStep
  refine State.Sound.answer (.ite h (.ite h.cancelGraph (State.Sound.writeGraph ?_)))
  exact .ite (State.Sound.modGraph (.ite (State.Sound.recount (.ite h.retry h)) (.ite h.retry h)))
    (State.Sound.walkOver (.ite (State.Sound.recount (.ite h.retry h)) (.ite h.retry h)))

/-! ### Cancels -/

theorem cancelPhase {part p : Nat} (h : s.Sound n) : (s.cancelPhase part p).Sound n := by
  unfold State.cancelPhase
  exact .ite h ((State.Sound.ite h.modJob h).foldl fun ht => ht.cancelGraph).phaseDrain

theorem cancelJob {part : Nat} (h : s.Sound n) : (s.cancelJob part).Sound n := by
  unfold State.cancelJob
  refine .ite h (((h.modJob.foldl fun ht => ht.cancelPhase).foldl fun ht => ht.stopLaunch).foldl fun ht => ?_)
  dsimp only
  split
  · exact ht.cancelUnit
  · exact ht

theorem cancelAt {part : Nat} {level : CancelLevel} {w : Word} (h : s.Sound n) : (s.cancelAt part level w).Sound n := by
  cases level with
  | unit => exact .ite h.cancelUnit h
  | launch => exact .ite h.stopLaunch h
  | graph => exact h.cancelGraph
  | phase => exact h.cancelPhase
  | job => exact h.cancelJob

theorem execGcancel {level : CancelLevel} {a : SReg} (h : s.Sound n) : Answers n (execGcancel level a s) :=
  h.system fun ht => .ite ht.fault ht.retire.cancelAt

end Sys2Proof.Machine.State.Sound

/-! SUPPORT. Control registers, traps, helpers, barriers and the events of cores keep the order (R41 to R52, R89 to R98, R300 to
R314, R325 to R333). -/

namespace Sys2Proof.Machine.State.Sound
variable {n : Nat} {s t : State}

/-! ### Control registers -/

theorem execCget {d : SReg} {imm : Word} (h : s.Sound n) : Answers n (execCget d imm s) :=
  h.system fun ht => .ite ht.illegal ht.result

theorem poolSelect {w : Word} (h : s.Sound n) (e : s.poolSelect w = .ok t) : t.Sound n := by
  unfold State.poolSelect at e
  split at e
  · cases e
  · split at e
    · cases e
    · cases e; exact h.modCx

theorem poolWrite {w : Word} (h : s.Sound n) (e : s.poolWrite w = .ok t) : t.Sound n := by
  unfold State.poolWrite at e
  split at e
  · cases e
  · next hs =>
    dsimp only at e
    split at e
    · cases e
    · cases e; exact (h.poolSelect hs).modPool

theorem setJournal {w : Word} (h : s.Sound n) : (s.setJournal w).Sound n := h.modPart.foldl fun ht => .ite ht.modCore ht

theorem putReg {k : Nat} {w : Word} (h : s.Sound n) (e : s.putReg k w = .ok t) : t.Sound n := by
  unfold State.putReg at e
  dsimp only at e
  split at e
  · split at e
    · cases e
    · cases e; exact h.modMe
  · split at e
    · cases e
    · cases e; exact h.modMe
  · split at e
    · cases e
    · cases e; exact h.modMe
  · split at e
    · exact h.poolWrite e
    · exact h.poolSelect e
  · cases e; exact h.modCx
  · cases e; exact h.modCx
  · cases e; exact h.modCx
  · split at e
    · cases e
    · cases e; exact h.modCx
  · split at e
    · cases e
    · cases e; exact h.setJournal
  · cases e

theorem putWith {a : SReg} {f : State → Word → Except (BitVec 16) State} (h : s.Sound n)
    (hf : ∀ {u t : State} {w : Word}, u.Sound n → f u w = .ok t → t.Sound n) : Answers n (s.putWith a f) :=
  h.system fun ht => by
    split
    · exact ht.fault
    · next e => exact (hf ht e).retire

theorem execCput {a : SReg} {imm : Word} (h : s.Sound n) : Answers n (execCput a imm s) := h.putWith fun hu e => hu.putReg e
theorem execPoolboundSelect {a : SReg} (h : s.Sound n) : Answers n (execPoolboundSelect a s) :=
  h.putWith fun hu e => hu.poolSelect e
theorem execPoolboundWrite {a : SReg} (h : s.Sound n) : Answers n (execPoolboundWrite a s) :=
  h.putWith fun hu e => hu.poolWrite e
theorem execJournalWrite {a : SReg} (h : s.Sound n) : Answers n (execJournalWrite a s) :=
  h.putWith fun hu e => hu.putReg e

/-! ### Traps and helpers -/

theorem execTrap {imm : Word} (h : s.Sound n) : Answers n (execTrap imm s) := h.system fun ht => ht.takeTrap
theorem execEret (h : s.Sound n) : Answers n (execEret s) := h.system fun ht => ht.eret

theorem execHstart {d a : SReg} {imm : Word} (h : s.Sound n) : Answers n (execHstart d a imm s) :=
  h.system fun ht => by
    split
    · exact ht.result
    · exact ht.modCtx.result

theorem execHexit (h : s.Sound n) : Answers n (execHexit s) := h.system fun ht => .ite ht.illegal ht.modPart.modCx

theorem execHjoin {a : SReg} {imm : Word} (h : s.Sound n) : Answers n (execHjoin a imm s) :=
  h.system fun ht => .ite ht.illegal (.ite ht.retire ht.waitOn)

/-! ### Barriers -/

theorem execBarInit {bar : BitVec 7} {a : SReg} {op : VoteOp} (h : s.Sound n) : Answers n (execBarInit bar a op s) :=
  h.system fun ht => by
    split
    · exact ht.illegal
    · exact .ite ht.illegal (.ite ht.fault ht.modBar.retire)

theorem barWrite {r : BarResult} {d : SReg} {a : Option SReg} (h : s.Sound n) : (s.barWrite r d a).Sound n := by
  cases a with
  | none => exact h.modCx
  | some a => exact h.modCx.modCx

theorem release {k : Nat} {d : SReg} {a : Option SReg} (h : s.Sound n) : (s.release k d a).Sound n := by
  unfold State.release
  exact (h.modBar.foldl fun ht => ht.modCtx).frame.barWrite.retire

theorem barArrive {bar : BitVec 7} {d : SReg} {a : Option SReg} {vote : Option Word} (h : s.Sound n) :
    (s.barArrive bar d a vote).Sound n := by
  unfold State.barArrive
  split
  · exact h.illegal
  · dsimp only
    split
    · exact h.modCx.barWrite.retire
    · exact h.modCx.barWrite.retire
    · exact .ite h.modCx.fault (.ite h.modCx.waitOn (.ite h.modCx.waitOn
        (h.modCx.fenced fun ht => .ite ht.modBar.release ht.modBar.waitOn)))

theorem execBarWait {bar : BitVec 7} {d : SReg} (h : s.Sound n) : Answers n (execBarWait bar d s) :=
  h.system fun ht => ht.barArrive
theorem execBarVote {bar : BitVec 7} {d a b : SReg} (h : s.Sound n) : Answers n (execBarVote bar d a b s) :=
  h.system fun ht => ht.barArrive

/-! ### Traps, late faults and waits -/

theorem execFaultTrapEntry {code : BitVec 16} {info faddr : Word} (h : s.Sound n) :
    Answers n (execFaultTrapEntry code info faddr s) := (State.Sound.ite h.takeFault h).answer

theorem unqueue {core : Nat} {seq : BitVec 16} (h : s.Sound n) : (s.unqueue core seq).Sound n := h.modCore

theorem execLateFaultReport {core : Nat} {seq code : BitVec 16} {info faddr : Word} (h : s.Sound n) :
    Answers n (execLateFaultReport core seq code info faddr s) := (State.Sound.ite h.unqueue.lateFault h).answer

theorem execLateTrapEntry {core : Nat} (h : s.Sound n) : Answers n (execLateTrapEntry core s) := h.lateEntry.answer

theorem execTick {part : Nat} (h : s.Sound n) : Answers n (execTick part s) :=
  (State.Sound.ite h (h.foldl fun ht => ht.modCtx)).answer

theorem execTimerTrapEntry {core : Nat} (h : s.Sound n) : Answers n (execTimerTrapEntry core s) := h.timerEntry.answer

theorem execWaitTimeout {core ctx : Nat} (h : s.Sound n) : Answers n (execWaitTimeout core ctx s) :=
  (State.Sound.ite h.count.on.fault h).answer

theorem awake {core ctx : Nat} (h : s.Sound n) : (s.awake core ctx).Sound n := h.modCtx.frame

theorem wakeUp {core ctx : Nat} (h : s.Sound n) : (s.wakeUp core ctx).Sound n := by
  unfold State.wakeUp
  dsimp only
  split
  · exact h
  · refine .ite (.ite h.modCtx h) (.ite h ?_)
    split
    · exact .ite h.awake h
    · exact .ite h.on.retire h
    · exact h.fabStep
    · exact h.ringStep

theorem execWake {core ctx : Nat} (h : s.Sound n) : Answers n (execWake core ctx s) := h.wakeUp.answer
theorem execCancel {core : Nat} (h : s.Sound n) : Answers n (execCancel core s) := h.cancelUnit.answer

/-! ### Channels, ports and windows -/

theorem grant {core ep : Nat} (h : s.Sound n) : (s.grant core ep).Sound n := by
  unfold State.grant
  refine .ite h (.ite (.ite h.modEp h) (.ite h ?_))
  split
  · exact h.modEp.modEp
  · split
    · exact h.modEp.send
    · exact h
  · exact h.modEp

theorem peerReply {part chan peerChan words slots : Nat} {peer : BitVec 32} {given halted : Bool} (h : s.Sound n) :
    (s.peerReply part chan peer peerChan given halted words slots).Sound n := h.modPart.mapCores

theorem execChannelGrant {source : GrantFrom} {ep : Nat} (h : s.Sound n) : Answers n (execChannelGrant source ep s) :=
  match source with
  | .local _ => h.grant.answer
  | .peer .. => h.peerReply.answer

theorem execChannelMessageArrival {core ep : Nat} {seqno : BitVec 32} {ws : List Word} (h : s.Sound n) :
    Answers n (execChannelMessageArrival core ep seqno ws s) := by
  refine State.Sound.answer ?_
  dsimp only
  split
  · exact .ite h.modEp h
  · exact h

theorem execWindowPieceArrival {dst src : Nat} (h : s.Sound n) : Answers n (execWindowPieceArrival dst src s) :=
  h.arrive.answer

theorem ownWrite {core ctx off : Nat} {bs : List Byte} (h : s.Sound n) : (s.ownWrite core ctx off bs).Sound n := h.performAll

theorem execWindowRegisterWrite {core ctx off : Nat} {bs : List Byte} (h : s.Sound n) :
    Answers n (execWindowRegisterWrite core ctx off bs s) := (State.Sound.ite h.ownWrite h).answer

theorem execTail {core : Nat} {w : Word} (h : s.Sound n) : Answers n (execTail core w s) := h.ownWrite.answer
theorem execResv {core : Nat} {w : Word} (h : s.Sound n) : Answers n (execResv core w s) := h.modCore.bumpSeq.answer
theorem execPortstat {core : Nat} {w : Word} (h : s.Sound n) : Answers n (execPortstat core w s) := h.ownWrite.answer

theorem execReplayQueueTimeout {core : Nat} (h : s.Sound n) : Answers n (execReplayQueueTimeout core s) :=
  (State.Sound.ite h.logPart.modCore h).answer

theorem execStoreBufferDrain {core : Nat} (h : s.Sound n) : Answers n (execStoreBufferDrain core s) :=
  (State.Sound.ite h.drainOne h).answer

theorem execL1Eviction {die line : Nat} (h : s.Sound n) : Answers n (execL1Eviction die line s) := h.flushLine.answer

theorem execNullifiedInstruction (h : s.Sound n) : Answers n (execNullifiedInstruction s) := by
  refine State.Sound.answer (.ite ?_ h)
  split
  · exact h.fetchFault
  · next e => exact (h.withNext e).modCx

end Sys2Proof.Machine.State.Sound

/-! SUPPORT. The command front end and the commands that it performs keep the order (R366 to R372, R377 to R381, R387 to R399,
R427 to R430). -/

namespace Sys2Proof.Machine

/-- What a command leaves keeps the order, answered or not. -/
def Answer.Sound (n : Nat) (a : Answer) : Prop := a.2.Sound n

theorem Answer.Sound.ite {n : Nat} {a b : Answer} {c : Prop} [Decidable c] (ha : Answer.Sound n a) (hb : Answer.Sound n b) :
    Answer.Sound n (if c then a else b) := by
  split
  · exact ha
  · exact hb

theorem State.cutOk_iff (s : State) : s.cutOk = true ↔ s.cut = 1 ∨ s.cut = 2 ∨ s.cut = 4 := by
  simp [State.cutOk, or_assoc]

/-- Changes that leave a core's memories alone leave them alone together. -/
theorem Core.frame_foldl {c : Core} {ks : List Nat} {f : Core → Nat → Core}
    (hf : ∀ c k, (f c k).scratch = c.scratch ∧ (f c k).port = c.port) :
    (ks.foldl f c).scratch = c.scratch ∧ (ks.foldl f c).port = c.port :=
  List.foldlRecOn ks f (motive := fun x => x.scratch = c.scratch ∧ x.port = c.port) ⟨rfl, rfl⟩ fun x hx k _ =>
    ⟨(hf x k).1.trans hx.1, (hf x k).2.trans hx.2⟩

@[simp] theorem Core.halt_frame (c : Core) : c.halt.scratch = c.scratch ∧ c.halt.port = c.port := by
  unfold Core.halt
  dsimp only
  exact Core.frame_foldl fun _ _ => by split <;> exact ⟨rfl, rfl⟩

@[simp] theorem Core.resume_frame (c : Core) : c.resume.scratch = c.scratch ∧ c.resume.port = c.port := by
  unfold Core.resume
  dsimp only
  exact Core.frame_foldl fun _ _ => by split <;> exact ⟨rfl, rfl⟩

namespace State.Sound
variable {n : Nat} {s t : State}

/-! ### The front end -/

theorem modConn {c : Nat} {f : Conn → Conn} (h : s.Sound n) : (s.modConn c f).Sound n := h.frame

theorem respond {hdr : Hdr} {op : BitVec 8} {status : Nat} {payload : List Byte} (h : s.Sound n) :
    (s.answer hdr op status payload).Sound n := h.send

theorem nextHeld {conn : Nat} (h : s.Sound n) : (s.nextHeld conn).Sound n := by
  unfold State.nextHeld
  dsimp only
  split
  · exact h.modConn.frame
  · exact h

theorem holdCmd {hdr : Hdr} {i : Instr} (h : s.Sound n) : (s.holdCmd hdr i).Sound n := h.modConn

theorem ncp {i : Instr} {hdr : Hdr} {c : Cmd} {k : State → Answer} (h : s.Sound n) (hk : Answer.Sound n (k s)) :
    Answers n (s.ncp i hdr c k) := by
  refine State.Sound.answer (.ite h (.ite h.respond (.ite h.holdCmd ?_)))
  split
  · next e =>
    split at e
    · cases e
    · rw [e] at hk; exact State.Sound.holdCmd hk
  · next e =>
    split at e
    · cases e; exact h.modConn.respond.nextHeld
    · rw [e] at hk; exact (State.Sound.modConn hk).respond.nextHeld

theorem ans {status : Nat} (h : s.Sound n) : Answer.Sound n (ans s status) := h
theorem ansWith {payload : List Byte} (h : s.Sound n) : Answer.Sound n (ansWith s payload) := h
theorem waits (h : s.Sound n) : Answer.Sound n (waits s) := h

theorem execAttach {hdr : Hdr} {lo hi : BitVec 16} (h : s.Sound n) : Answers n (execAttach hdr lo hi s) := by
  refine h.ncp ?_
  split
  · exact h.ans
  · exact h.modConn.ansWith

theorem execDetach {hdr : Hdr} (h : s.Sound n) : Answers n (execDetach hdr s) := h.ncp h.modConn.ans

theorem execNcpUnsupportedOpcode {hdr : Hdr} {op : BitVec 8} (h : s.Sound n) :
    Answers n (execNcpUnsupportedOpcode hdr op s) := h.ncp h.ans

/-! ### Partitions -/

theorem enterLoops {part : Nat} (h : s.Sound n) : (s.enterLoops part).Sound n := h.foldl fun ht => ht.modCtx

theorem execSetpart {hdr : Hdr} {desc : Desc} (h : s.Sound n) : Answers n (execSetpart hdr desc s) :=
  h.ncp (.ite h.ans (.ite h.ans h.modPart.enterLoops.ans))

theorem execSetxlate {hdr : Hdr} {root waitlim : Word} {ways : BitVec 24} (h : s.Sound n) :
    Answers n (execSetxlate hdr root waitlim ways s) :=
  h.ncp (.ite h.ans (.ite h.ans h.clearWays.modPart.dropTlb.ans))

theorem settlePart {part : Nat} (h : s.Sound n) : (s.settlePart part).Sound n :=
  (h.foldl fun ht => ht.drainFree.cmoAll.arriveN).arriveN

theorem execInval {hdr : Hdr} {base len : Word} (h : s.Sound n) : Answers n (execInval hdr base len s) :=
  h.ncp (.ite h.ans (.ite h.ans (.ite h.dropTlb.settlePart.waits h.dropTlb.settlePart.ans)))

theorem setOwners {first count : Nat} {o : Byte} (h : s.Sound n) : (s.setOwners first count o).Sound n :=
  { h with owners := fun hn => Memory.wf_putAll _ _ _ (h.owners hn) }

theorem zeroFrames {lo hi : Nat} (h : s.Sound n) : (s.zeroFrames lo hi).Sound n := by
  refine State.Sound.foldl ?_ fun ht => ht.zeroDie
  exact { h with
    dies := List.forall_mem_map.2 fun d hd =>
      { h.dies d hd with copies := fun hn => Sparse.sorted_filter _ _ ((h.dies d hd).copies hn) }
    cores := List.forall_mem_map.2 fun c hc => (h.cores c hc).frame }

theorem dropFrames {lo k : Nat} (h : s.Sound n) : (s.dropFrames lo k).Sound n :=
  { h with
    dies := List.forall_mem_map.2 fun d hd => (h.dies d hd).frame
    cores := List.forall_mem_map.2 fun c hc => (h.cores c hc).frame }

theorem ownWork {first count : Nat} {o : Byte} (h : s.Sound n) : (s.ownWork first count o).2.Sound n := by
  unfold State.ownWork
  dsimp only
  split
  · exact h.setOwners.dropFrames.foldl fun ht => ht.drainFree.cmoAll
  · exact (h.setOwners.dropFrames.foldl fun ht => ht.drainFree.cmoAll).zeroFrames

theorem execOwn {hdr : Hdr} {first count : Nat} {owner : BitVec 8} (h : s.Sound n) :
    Answers n (execOwn hdr first count owner s) := h.ncp (.ite h.ans (.ite h.ownWork.ans h.ownWork.waits))

theorem dropStale (h : s.Sound n) : s.dropStale.Sound n := by
  refine State.Sound.foldl ?_ fun ht => ht.foldl fun {u r} hu => .ite ?_ hu
  · exact { h with
      dies := List.forall_mem_map.2 fun d hd => (h.dies d hd).frame
      cores := List.forall_mem_map.2 fun c hc => (h.cores c hc).frame }
  · split
    · exact hu.copyFault
    · next e => exact (hu.copyChecks e).modCopy

theorem recut {k : Nat} (h : s.Sound n) (hk : k = 1 ∨ k = 2 ∨ k = 4) : (s.recut k).Sound n := by
  have hc := h.foldl (l := (upTo 4).filter fun d => s.shifts k d) (f := State.clearDie) fun ht => ht.clearDie
  refine State.Sound.dropStale ?_
  exact { hc with
    cut := fun _ => (State.cutOk_iff _).2 hk
    cores := List.forall_mem_map.2 fun c hm => by
      dsimp only
      split
      · exact (hc.cores c hm).frame
      · exact hc.cores c hm
    dies := List.forall_mem_map.2 fun d hm => by
      dsimp only
      split
      · exact { hc.dies d hm with stands := fun _ => rfl }
      · exact hc.dies d hm }

theorem execCut {hdr : Hdr} {k : Nat} (h : s.Sound n) : Answers n (execCut hdr k s) := by
  refine h.ncp ?_
  split
  · exact h.ans
  · next hk => exact .ite h.ans (State.Sound.ite h (h.recut (by omega))).ans

/-! ### Graphs and launches -/

theorem boundOk {part slot fuel i : Nat} {g : Graph} {b : Bool} (h : s.Sound n)
    (e : s.boundOk part slot g fuel i = (b, t)) : t.Sound n := by
  induction fuel generalizing s i with
  | zero => cases e; exact h
  | succ fuel ih =>
    unfold State.boundOk at e
    split at e
    · next he => cases e; exact h.readLaunch he
    · next he =>
      split at e
      · exact ih (h.readLaunch he) e
      · cases e; exact h.readLaunch he

theorem setGtab {part slot : Nat} {addr : Word} (h : s.Sound n) : (s.setGtab part slot addr).Sound n := by
  unfold State.setGtab
  exact h.modPart.engWrite

theorem clearSlot {part slot : Nat} (h : s.Sound n) : (s.clearSlot part slot).Sound n := h.setGtab.modPart

theorem execGraphload {hdr : Hdr} {slot : Nat} {addr : Word} (h : s.Sound n) : Answers n (execGraphload hdr slot addr s) := by
  refine h.ncp (.ite h.ans (.ite h.ans ?_))
  dsimp only
  split
  · next e => exact (h.setGtab.readGraph e).clearSlot.ans
  · next e =>
    have hg := h.setGtab.readGraph e
    refine .ite hg.clearSlot.ans ?_
    split
    · next e => exact (hg.boundOk e).clearSlot.ans
    · next e => exact (hg.boundOk e).modGraph.ans

theorem execGrapharm {hdr : Hdr} {slot : Word} (h : s.Sound n) : Answers n (execGrapharm hdr slot s) := h.ncp h.armGraph.ans
theorem execLauncharm {hdr : Hdr} {tag : Word} (h : s.Sound n) : Answers n (execLauncharm hdr tag s) :=
  h.ncp h.armLaunch.ans

theorem execLaunchpatch {hdr : Hdr} {idx word value : Word} (h : s.Sound n) :
    Answers n (execLaunchpatch hdr idx word value s) := by
  refine h.ncp ?_
  split
  · exact h.ans
  · next e => exact (h.patchLaunch e).ans

theorem execCancelCommand {hdr : Hdr} {level : Nat} {target : Word} (h : s.Sound n) :
    Answers n (execCancelCommand hdr level target s) := by
  refine h.ncp ?_
  split
  · exact h.ans
  · exact .ite h.cancelAt.ans h.ans

theorem execSigreg {hdr : Hdr} {sig : Nat} {entry : BitVec 256} (h : s.Sound n) : Answers n (execSigreg hdr sig entry s) :=
  h.ncp (.ite h.ans (.ite h.engFail.ans h.engWrite.ans))

/-! ### Memory and cores from outside -/

theorem execRdmem {hdr : Hdr} {addr host : Word} {len : Nat} (h : s.Sound n) : Answers n (execRdmem hdr addr len host s) :=
  h.ncp (.ite h.ans (.ite (.ite h.arriveN.waits h.arriveN.readPieces.send.ans) (.ite h.logPart.ans (.ite h.waits h.send.ans))))

theorem tellEnd {e : Endpoint} {halted : Bool} {words slots : Nat} (h : s.Sound n) :
    (s.tellEnd e halted words slots).Sound n := by
  unfold State.tellEnd
  split
  · exact h.send
  · exact h

theorem tellHalted {core : Nat} (h : s.Sound n) : (s.tellHalted core).Sound n := h.foldl fun ht => .ite ht.tellEnd ht

theorem wakeKept {core : Nat} (h : s.Sound n) : (s.wakeKept core).Sound n :=
  h.foldl fun ht => .ite ht.frame (.ite ht.wakeUp ht)

theorem execHalt {hdr : Hdr} {idx : Nat} (h : s.Sound n) : Answers n (execHalt hdr idx s) :=
  h.ncp (.ite h.ans (State.Sound.ite h (h.modCore (by simp) (by simp)).tellHalted).ans)

theorem execResume {hdr : Hdr} {idx : Nat} (h : s.Sound n) : Answers n (execResume hdr idx s) :=
  have hr := (h.modCore (f := Core.resume) (by simp) (by simp)).tellHalted
  h.ncp (.ite h.ans (.ite h.ans (State.Sound.ite hr.stopUnit hr.wakeKept).ans))

theorem execReplaytrace {hdr : Hdr} {idx count : Nat} {addr : Word} (h : s.Sound n) :
    Answers n (execReplaytrace hdr idx count addr s) := h.ncp (.ite h.ans (.ite h.ans h.modCore.ans))

/-! ### Jobs -/

theorem startJob {part : Nat} {j : Job} (h : s.Sound n) : (s.startJob part j).Sound n := by
  unfold State.startJob
  exact (h.modPart.engPatch.foldl fun ht => ht.engPatch).foldl fun ht => ht.phaseEnd

theorem execJobstart {hdr : Hdr} (h : s.Sound n) : Answers n (execJobstart hdr s) := by
  refine h.ncp (.ite h.ans ?_)
  split
  · next e => exact (h.engRead e).ans
  · next e =>
    split
    · exact (h.engRead e).ans
    · exact (h.engRead e).startJob.ans

theorem execJobstat {hdr : Hdr} (h : s.Sound n) : Answers n (execJobstat hdr s) := h.ncp h.ansWith

/-! ### Ports, channels between modules and groups -/

theorem execPortcfg {hdr : Hdr} {port : Nat} {desc : Word} (h : s.Sound n) : Answers n (execPortcfg hdr port desc s) :=
  h.ncp (.ite h.ans (.ite h.ans h.modPort.ans))

theorem execXchan {hdr : Hdr} {decl : XDecl} (h : s.Sound n) : Answers n (execXchan hdr decl s) :=
  h.ncp (.ite h.ans (.ite (State.Sound.ite h.modCore.tellEnd h).ans (.ite h.ans (.ite h.ans (.ite h.ans h.modEp.tellEnd.ans)))))

theorem declareRank {part group : Nat} {r : CollRank × Nat} (h : s.Sound n) : (s.declareRank part group r).Sound n :=
  .ite h.modEp.modEp h

theorem execCollgrp {hdr : Hdr} {group k : Nat} {ranks : List CollRank} (h : s.Sound n) :
    Answers n (execCollgrp hdr group k ranks s) :=
  h.ncp (.ite h.ans (h.modPart.foldl fun ht => ht.declareRank).ans)

/-! ### Counters, power and logs -/

theorem execStats {hdr : Hdr} {clear : Bool} (h : s.Sound n) : Answers n (execStats hdr clear s) :=
  h.ncp (.ite (State.Sound.ite h.frame h).ansWith (State.Sound.ite h.modPart h).ansWith)

theorem setCap {watts : BitVec 32} (h : s.Sound n) : (s.setCap watts).Sound n :=
  h.setTap (by split <;> rfl)

theorem execPowercap {hdr : Hdr} {watts : BitVec 32} (h : s.Sound n) : Answers n (execPowercap hdr watts s) :=
  h.ncp (.ite h.ans h.setCap.ans)

theorem execErrlog {hdr : Hdr} {first : BitVec 32} {count : Nat} (h : s.Sound n) : Answers n (execErrlog hdr first count s) :=
  h.ncp (.ite h.ans h.ansWith)

end State.Sound
end Sys2Proof.Machine

/-! SUPPORT. Boot, attestation, failure and power keep the order (R395, R405 to R411, R423 to R428). -/

namespace Sys2Proof.Machine

@[simp] theorem Taproot.tcm_setSlot (t : Taproot) (x : Slot) (bs : List Byte) : (t.setSlot x bs).tcm = t.tcm := by
  cases x <;> rfl

@[simp] theorem Taproot.tcm_stage (t : Taproot) (conn : Nat) (x : Slot) (bs : List Byte) (commit : Bool) :
    (t.stage conn x bs commit).tcm = t.tcm := by cases x <;> rfl

/-- The TCM that a boot leaves is empty or holds the body of the image that boots. -/
theorem Taproot.wf_tcm_boot (t : Taproot) : Memory.wf t.boot.tcm = true := by
  unfold Taproot.boot
  dsimp only
  split
  · rfl
  · exact Memory.wf_putAll _ _ _ rfl

namespace State.Sound
variable {n : Nat} {s t : State}

/-! ### Boot and attestation -/

theorem boot (h : s.Sound n) : s.boot.Sound n where
  mem _ := rfl
  owners hn := Memory.wf_filter _ _ (h.owners hn)
  cut _ := rfl
  dies := List.forall_mem_nil _
  cores := List.forall_mem_nil _
  groves := List.forall_mem_nil _
  mems := List.forall_mem_nil _
  tcm _ := by
    unfold State.boot
    dsimp only
    split
    · exact Taproot.wf_tcm_boot _
    · exact Taproot.wf_tcm_boot _

theorem execModuleReset (h : s.Sound n) : Answers n (execModuleReset s) := (h.setTap (t := s.tap.landed)).boot.answer
theorem execIdentity {hdr : Hdr} (h : s.Sound n) : Answers n (execIdentity hdr s) := h.ncp h.ansWith

theorem execQuote {hdr : Hdr} {nonce : BitVec 256} {mask : BitVec 8} (h : s.Sound n) :
    Answers n (execQuote hdr nonce mask s) := h.ncp h.drawn.ansWith

theorem execExtend {hdr : Hdr} {reg : Nat} {digest : BitVec 256} (h : s.Sound n) :
    Answers n (execExtend hdr reg digest s) := h.ncp (.ite h.ans h.setTap.ans)

theorem staging {conn : Nat} {k : Answer} (h : s.Sound n) (hk : Answer.Sound n k) :
    Answer.Sound n (s.staging conn k) := by
  unfold State.staging
  refine .ite h.setTap.ans ?_
  split
  · exact .ite h.waits h.ans
  · exact .ite h.ans hk

theorem execFwstage {hdr : Hdr} {addr : Word} {commit : Bool} (h : s.Sound n) :
    Answers n (execFwstage hdr addr commit s) :=
  h.ncp (h.staging (.ite h.ans (h.setTap (by simp)).waits))

theorem setTcm {m : Memory} (h : s.Sound n) (hm : Memory.wf s.tap.tcm = true → Memory.wf m = true) :
    State.Sound n { s with tap := { s.tap with tcm := m } } := { h with tcm := fun hn => hm (h.tcm hn) }

theorem execFwstageRecovery {hdr : Hdr} {off : Nat} {bytes : List Byte} {last commit : Bool} (h : s.Sound n) :
    Answers n (execFwstageRecovery hdr off bytes last commit s) := by
  have ht := h.setTcm fun hm => Memory.wf_putAll s.tap.tcm off bytes hm
  refine h.ncp (h.staging (.ite h.ans (.ite ht.ans (.ite ?_ ht.ans))))
  exact (ht.setTap (by simp)).waits

theorem execStagingPowerLoss (h : s.Sound n) : Answers n (execStagingPowerLoss s) := by
  refine State.Sound.answer ?_
  split
  · exact h
  · exact (h.setTap (by simp)).boot

/-! ### Failure -/

theorem failLaunch {part i : Nat} {code : BitVec 16} (h : s.Sound n) : (s.failLaunch part i code).Sound n := by
  unfold State.failLaunch
  exact .ite h (.ite h.countFault (.ite h.countFault.stopLaunch.modLaunch.report h.countFault.stopLaunch.modLaunch))

theorem failPart {part : Nat} (h : s.Sound n) : (s.failPart part).Sound n := by
  unfold State.failPart
  exact ((h.foldl fun ht => ht.failLaunch).cancelJob.foldl fun ht => ht.cancelGraph).foldl fun ht => .ite ht.cancelUnit ht

theorem failModule (h : s.Sound n) : s.failModule.Sound n := h.setTap.foldl fun ht => ht.failPart

theorem execTaprootWatchdog (h : s.Sound n) : Answers n (execTaprootWatchdog s) := (State.Sound.ite h.failModule h).answer
theorem execHeartbeat (h : s.Sound n) : Answers n (execHeartbeat s) := (State.Sound.ite h.send h).answer

theorem execSoftError {pa : Word} {place : ErrorPlace} {corrected : Bool} (h : s.Sound n) :
    Answers n (execSoftError pa place corrected s) := (State.Sound.ite h.logMod.frame h.logMod.failModule).answer

/-! ### Power and heat -/

theorem execThermalThrottle {cause : HeatCause} (h : s.Sound n) : Answers n (execThermalThrottle cause s) :=
  (h.setTap (by split <;> rfl)).answer

theorem settlePower (h : s.Sound n) : s.settlePower.Sound n := .ite h h.setTap

theorem execThermalTrip {cause : HeatCause} (h : s.Sound n) : Answers n (execThermalTrip cause s) :=
  (State.Sound.ite h h.failModule).answer

theorem execThrottleCleared (h : s.Sound n) : Answers n (execThrottleCleared s) := h.setTap.answer

theorem powerDie {total die : Nat} {demands : List Nat} (h : s.Sound n) : (s.powerDie total demands die).Sound n := by
  unfold State.powerDie
  exact h.modDie.setTap

theorem junction {die temp : Nat} (h : s.Sound n) : (s.junction die temp).Sound n :=
  .ite (h.setTap (by split <;> rfl)) (.ite h.setTap h)

theorem sense (h : s.Sound n) : s.sense.Sound n := h.frame

theorem powerPeriod (h : s.Sound n) : s.powerPeriod.Sound n := by
  unfold State.powerPeriod
  split
  next =>
    exact .ite (State.Sound.foldl (h.sense.foldl fun ht => ht.junction) fun ht => ht.powerDie).failModule
      ((h.sense.foldl fun ht => ht.junction).foldl fun ht => ht.powerDie)

theorem execPowerPeriod {fixedMw : Nat} {demands : List (Nat × Nat)} (h : s.Sound n) :
    Answers n (execPowerPeriod fixedMw demands s) := h.setTap.powerPeriod.answer

theorem execTokenTake {grove need : Nat} (h : s.Sound n) : Answers n (execTokenTake grove need s) :=
  h.modDie.modGrove.answer

end State.Sound
end Sys2Proof.Machine

/-! SUPPORT. Ports, collectives, outside writes, scalar loads and stores and scalar floating point keep the order (R218 to R221,
R226 to R229, R366, R387, R392 to R404, R413, R414, R419). -/

namespace Sys2Proof.Machine.State.Sound
variable {n : Nat} {s t : State}

/-! ### Collectives -/

theorem collDest {k : Nat} {r : CollReq} {rs : Runs} (h : s.Sound n) (e : s.collDest k r = .ok (rs, t)) :
    t.Sound n := h.access e

theorem collRead {r : CollReq} (h : s.Sound n) : (s.collRead r).Sound n := by
  unfold State.collRead
  split
  · exact h
  · exact h.readRuns

theorem collWrite {rs : Runs} {bs : List Byte} (h : s.Sound n) : (s.collWrite rs bs).Sound n :=
  h.foldl fun ht => .ite ht.frame ht.writeLlc

theorem collFresh {r : CollReq} {rs : Runs} (h : s.Sound n) : (s.collFresh r rs).Sound n := h.onLines fun ht => ht.flushLine

theorem collScramble {k : Nat} {r : CollReq} (h : s.Sound n) : (s.collScramble k r).Sound n := by
  unfold State.collScramble
  split
  · exact h
  · next e => exact (h.collDest e).collFresh.collWrite.drawn

theorem collReply {g : Group} {r : CollReq} {fl decodes : Flags} {status : Nat} (h : s.Sound n) :
    (s.collReply g r fl decodes status).Sound n := .ite h h.modCore.modEp

theorem collFault {k status : Nat} {r : CollReq} (h : s.Sound n) : (s.collFault k status r).Sound n := by
  unfold State.collFault
  refine .ite h (.ite h.reportLaunch (.ite ?_ h))
  split
  · exact h.reportLaunch
  · split
    · exact h.reportLaunch
    · exact h

theorem modGroup {part k : Nat} {f : Group → Group} (h : s.Sound n) : (s.modGroup part k f).Sound n := h.modPart

theorem freeSlot {part group : Nat} {g : Group} {r : CollReq} (h : s.Sound n) : (s.freeSlot part group g r).Sound n := by
  unfold State.freeSlot
  split
  · exact h
  · exact h.modEp

theorem dropReqs {part group : Nat} {rs : List CollReq} (h : s.Sound n) : (s.dropReqs part group rs).Sound n :=
  h.modGroup.foldl fun ht => ht.freeSlot

theorem collWriteRank {k st : Nat} {ps : List CollPeer} {r : CollReq} (h : s.Sound n) :
    (s.collWriteRank k ps st r).1.Sound n := by
  unfold State.collWriteRank
  split
  · dsimp only
    split
    · exact h
    · next e => exact (h.collDest e).collFresh.collWrite
  · exact .ite h.collScramble h

theorem collWritten {part group st : Nat} {rs : List CollReq} {ps : List CollPeer} (h : s.Sound n) :
    (s.collWritten part group rs ps st).Sound n := h.foldl fun ht => ht.collWriteRank.modGroup

/-- What follows a reply that may be ready. -/
theorem elim {α : Type} {o : Option α} {f : α → State} (h : s.Sound n) (hf : ∀ {a : α}, (f a).Sound n) :
    (o.elim s f).Sound n := by
  cases o with
  | none => exact h
  | some a => exact hf

theorem collReplies {part group : Nat} (h : s.Sound n) : (s.collReplies part group).Sound n :=
  (h.dropReqs.foldl fun ht => ht.elim ht.collReply).foldl fun ht => ht.elim ht.collFault

theorem execCollectiveStart {core ep : Nat} {words : List Word} (h : s.Sound n) :
    Answers n (execCollectiveStart core ep words s) := by
  refine State.Sound.answer ?_
  dsimp only
  split
  · exact .ite h.modGroup h
  · exact h

theorem execCollectiveComplete {part group : Nat} {peers : List CollPeer} (h : s.Sound n) :
    Answers n (execCollectiveComplete part group peers s) := by
  refine State.Sound.answer ?_
  have replies {t : State} (ht : t.Sound n) : (if t.collLanded part then t.collReplies part group else t).Sound n :=
    .ite ht.collReplies ht
  refine .ite (replies h) (.ite h (replies (State.Sound.collWritten (.ite ?_ (State.Sound.foldl ?_ fun ht => ht.send)))))
  · exact h.foldl fun ht => .ite ht.collRead ht
  · exact h.foldl fun ht => .ite ht.collRead ht

/-! ### Ports -/

theorem execPortTrainingLost {port : Nat} (h : s.Sound n) : Answers n (execPortTrainingLost port s) :=
  (State.Sound.ite (State.Sound.logMod h.modPort.frame) h).answer

theorem tellPort {port : Nat} (h : s.Sound n) : (s.tellPort port).Sound n :=
  h.foldl fun ht => ht.foldl fun hu => .ite hu.tellEnd hu

theorem execPortUp {port lo hi : Nat} (h : s.Sound n) : Answers n (execPortUp port lo hi s) :=
  (State.Sound.ite h.modPort.tellPort h).answer

theorem linkFailed {core : Nat} (h : s.Sound n) : (s.linkFailed core).Sound n := by
  unfold State.linkFailed
  split
  · exact h.failLaunch
  · exact h.logLate
  · exact h

theorem failChannel {core ep : Nat} (h : s.Sound n) : (s.failChannel core ep).Sound n := by
  unfold State.failChannel
  exact (State.Sound.ite h.linkFailed.cancelUnit h.linkFailed).modEp

theorem failGroup {part group : Nat} (h : s.Sound n) : (s.failGroup part group).Sound n := by
  unfold State.failGroup
  exact (h.collWritten.collReplies.foldl fun ht => .ite ht.linkFailed ht).modGroup

theorem execPortFailed {port : Nat} (h : s.Sound n) : Answers n (execPortFailed port s) := by
  refine State.Sound.answer (.ite h ?_)
  exact .ite h.modPort.logMod.failModule ((h.modPort.logMod.foldl fun ht => ht.failChannel).foldl fun ht => ht.failGroup)

theorem execUnsupportedPacket {port : Nat} {kind : PacketKind} (h : s.Sound n) :
    Answers n (execUnsupportedPacket port kind s) := by
  cases kind with
  | transport => exact h.modPort.answer
  | semantic => exact h.send.answer

/-! ### Time across a gang -/

theorem execTimeStampExchange {port : Nat} {peerTime : Word} (h : s.Sound n) :
    Answers n (execTimeStampExchange port peerTime s) := (State.Sound.ite h.send.frame h).answer

theorem execOutOfStep (h : s.Sound n) : Answers n (execOutOfStep s) := (State.Sound.ite h.frame h).answer
theorem execBackInStep (h : s.Sound n) : Answers n (execBackInStep s) := (State.Sound.ite h.frame h).answer

/-! ### Outside writes -/

theorem execHostRemoteWrite {part pa : Nat} {bytes : List Byte} (h : s.Sound n) :
    Answers n (execHostRemoteWrite part pa bytes s) :=
  (State.Sound.ite h.send (.ite h.frame (.ite h.writeLlc h.logPart))).answer

theorem execPeerRemoteWrite {port pa : Nat} {bytes : List Byte} (h : s.Sound n) :
    Answers n (execPeerRemoteWrite port pa bytes s) :=
  (State.Sound.ite h.writeLlc (.ite h.send.logPart h.send.logMod)).answer

/-! ### Scalar loads and stores -/

theorem loadOp {d a : SReg} {imm : Word} {z : Nat} {sx : Bool} (h : s.Sound n) : Answers n (s.loadOp d a imm z sx) :=
  (h.start fun ht => ht.load fun hu => hu.result).answer

theorem storeOp {d a : SReg} {imm : Word} {z : Nat} (h : s.Sound n) : Answers n (s.storeOp d a imm z) :=
  (h.begin fun ht => ht.store).answer

theorem acquire {scope : Scope} {va : Word} {m : Nat} {d : SReg} {k : State → Nat → State} (h : s.Sound n)
    (hk : ∀ {t : State} {v : Nat}, t.Sound n → (k t v).Sound n) : (s.acquire scope va m d k).Sound n :=
  h.gate fun ht => ht.fenced fun hu => hk (State.Sound.readIn (.ite (hu.onLines fun hv => hv.flushLine) hu))

theorem execLdAcq {scope : Scope} {size : BitVec 2} {d a : SReg} {imm : Word} (h : s.Sound n) :
    Answers n (execLdAcq scope size d a imm s) :=
  (h.start fun ht => .ite ht.takeFault (ht.acquire fun hu => hu.result)).answer

theorem releaseRuns {rs : Runs} {bs : List Byte} (h : s.Sound n) : (s.releaseRuns rs bs).Sound n :=
  h.foldl fun ht => .ite ht.winStore ht.holdRuns.layBytes

theorem execStRel {scope : Scope} {size : BitVec 2} {d a : SReg} {imm : Word} (h : s.Sound n) :
    Answers n (execStRel scope size d a imm s) :=
  (h.begin fun ht => .ite ht.takeFault (ht.gate fun hu => hu.fenced fun hv =>
    (State.Sound.ite hv.releaseRuns hv.storeRuns).retire)).answer

theorem execLdlD {d : SReg} {imm : Word} (h : s.Sound n) : Answers n (execLdlD d imm s) :=
  (h.start fun ht => ht.load fun hu => hu.result).answer

end Sys2Proof.Machine.State.Sound

/-! SUPPORT. The blocks of a context image keep the order as they load, and the image as it is written (R346 to R350). -/

namespace Sys2Proof.Machine

theorem Memory.sorted_shift {m : Memory} {lo : Nat} (h : Sparse.sorted (α := Byte) m = true) (hlo : ∀ c ∈ m, lo ≤ c.1) :
    Sparse.sorted (α := Byte) (m.map fun c => (c.1 - lo, c.2)) = true := by
  induction m with
  | nil => rfl
  | cons c m ih =>
    obtain ⟨hc, hm⟩ := List.forall_mem_cons.1 hlo
    refine Sparse.sorted_cons _ _ (ih (Sparse.sorted_tail _ _ h) hm) fun y q e => ?_
    obtain ⟨d, hd, rfl⟩ := List.mem_map.1 (e ▸ List.mem_cons_self : y ∈ m.map fun c => (c.1 - lo, c.2))
    have := Sparse.lt_of_mem c m h d hd
    dsimp only
    omega

/-- A slice of a memory in canonical form is in canonical form. -/
theorem Memory.wf_slice {m : Memory} (h : Memory.wf m = true) (lo k : Nat) : Memory.wf (m.slice lo k) = true := by
  obtain ⟨sorted, nonzero⟩ := (Memory.wf_iff m).1 h
  refine (Memory.wf_iff _).2
    ⟨Memory.sorted_shift (Sparse.sorted_filter (α := Byte) _ _ sorted) fun c hc => ?_, fun c hc => ?_⟩
  · simp only [List.mem_filter, Bool.and_eq_true, decide_eq_true_eq] at hc
    exact hc.2.1
  · obtain ⟨d, hd, rfl⟩ := List.mem_map.1 hc
    exact nonzero d (List.mem_of_mem_filter hd)

theorem Grove.Sound.setBank {n b : Nat} {g : Grove} {m : Memory} (h : g.Sound n) (hm : Memory.wf m = true) :
    Grove.Sound n { g with banks := g.banks.set b m } where
  banks hn := Sparse.forall_mem_set (P := fun m => Memory.wf m = true) (h.banks hn) hm

/-- Loading keeps the order, from bytes in canonical form. -/
structure Block.Keeps (n : Nat) (b : Block) : Prop where
  load : ∀ {s : State} {m : Memory}, s.Sound n → Memory.wf m = true → (b.load m s).Sound n

/-- Every block of a list keeps the order as it loads. -/
def KeepAll (n : Nat) (bs : List Block) : Prop := ∀ b ∈ bs, b.Keeps n

namespace Block.Keeps
variable {n off len k : Nat}

theorem raw {get : State → Memory} {put : Memory → State → State}
    (h : ∀ {s : State} {m : Memory}, s.Sound n → Memory.wf m = true → (put m s).Sound n) :
    Block.Keeps n (.raw off len get put) := ⟨h⟩

theorem num {get : State → Nat} {put : Nat → State → State} {ok : Nat → Bool}
    (h : ∀ {s : State} {x : Nat}, s.Sound n → (put x s).Sound n) : Block.Keeps n (.num off len get put ok) :=
  ⟨fun hs _ => h hs⟩

theorem array {get : State → Nat → Nat} {put : Nat → Nat → State → State} {ok : Nat → Nat → Bool}
    (h : ∀ {s : State} {i x : Nat}, s.Sound n → (put i x s).Sound n) : Block.Keeps n (.array off len k get put ok) :=
  ⟨fun hs _ => hs.foldl fun ht => .ite ht (h ht)⟩

theorem list {get : State → List Nat} {put : List Nat → State → State} {ok : Nat → Bool}
    (h : ∀ {s : State} {xs : List Nat}, s.Sound n → (put xs s).Sound n) : Block.Keeps n (.list off len k get put ok) :=
  ⟨fun hs _ => h hs⟩

end Block.Keeps

namespace KeepAll
variable {n : Nat} {b : Block} {bs cs : List Block}

theorem nil : KeepAll n [] := List.forall_mem_nil _
theorem cons (hb : b.Keeps n) (h : KeepAll n bs) : KeepAll n (b :: bs) := List.forall_mem_cons.2 ⟨hb, h⟩
theorem append (h : KeepAll n bs) (hc : KeepAll n cs) : KeepAll n (bs ++ cs) := List.forall_mem_append.2 ⟨h, hc⟩

theorem map {l : List Nat} {f : Nat → Block} (h : ∀ {k}, (f k).Keeps n) : KeepAll n (l.map f) :=
  List.forall_mem_map.2 fun _ _ => h

theorem flatMap {l : List Nat} {f : Nat → List Block} (h : ∀ {k}, KeepAll n (f k)) :
    KeepAll n (l.flatMap f) := fun b hb => by
  obtain ⟨k, _, hk⟩ := List.mem_flatMap.1 hb
  exact h b hk

end KeepAll

namespace State.Sound
variable {n : Nat} {s t : State}

/-! ### What blocks load -/

theorem loadCore {core x : Nat} (h : s.Sound n) : (s.loadCore core x).Sound n := by
  unfold State.loadCore
  exact h.modCore.frame

theorem loadRank {core x : Nat} {e : Endpoint} (h : s.Sound n) : (s.loadRank core x e).Sound n := by
  unfold State.loadRank
  split
  · exact .ite h.modPart h
  · exact h

theorem loadPort {core x : Nat} (h : s.Sound n) : (s.loadPort core x).Sound n := by
  unfold State.loadPort
  exact h.modCore.modPart

theorem loadStand {part die st x : Nat} (h : s.Sound n) : (s.loadStand part die st x).Sound n := by
  unfold State.loadStand
  refine State.Sound.modCore (h.modDieTo fun hd => ?_)
  exact { hd with stands := fun hn => Sparse.sorted_set _ _ _ (hd.stands hn) }

theorem loadStrays {part : Nat} {xs : List Nat} (h : s.Sound n) : (s.loadStrays part xs).Sound n := by
  unfold State.loadStrays
  exact State.Sound.modPart (h.foldl fun ht => ht.modEp)

theorem loadBars {core x : Nat} (h : s.Sound n) : (s.loadBars core x).Sound n := by
  unfold State.loadBars
  exact h.foldl fun ht => .ite ht ht.modCtx

/-! ### The blocks -/

theorem keepAll_coreBlocks {base core part pools : Nat} : KeepAll n (coreBlocks base core part pools) := by
  unfold coreBlocks
  refine .append (.append ?_ (.map ?_)) ?_
  · refine .cons (.raw ?_) <| .cons (.array ?_) <| .cons (.array ?_) <| .cons (.array ?_) .nil
    · exact fun hs hm => hs.modCoreTo fun hc => { hc with scratch := fun _ => hm }
    · exact fun hs => hs.modCore
    · exact fun hs => hs.setK
    · exact fun hs => hs.modCtx
  · exact .num fun hs => hs.modCtx
  · refine .cons (.array ?_) <| .cons (.array ?_) <| .cons (.num ?_) <| .cons (.raw ?_) <| .cons (.array ?_) <|
      .cons (.list ?_) <| .cons (.array ?_) <| .cons (.list ?_) <| .cons (.list ?_) <| .cons ?_ <| .cons (.raw ?_) <|
      .cons (.num ?_) .nil
    · exact fun hs => hs.modRing
    · exact fun hs => hs.modCore
    · exact fun hs => hs.loadPort
    · exact fun hs hm => hs.modCoreTo fun hc => { hc with inbox := fun _ => hm }
    · exact fun hs => hs.modCore
    · exact fun hs => hs.modCore
    · exact fun hs => hs.modCore (by intro; split <;> rfl) (by intro; split <;> rfl)
    · exact fun hs => hs.modCore
    · exact fun hs => hs.modCore
    · refine ⟨fun hs _ => ?_⟩
      dsimp only
      exact hs.foldl fun ht => .ite ht.modCore ht.modEp.loadRank
    · exact fun hs _ => hs.modCore
    · exact fun hs => hs.loadCore

theorem keepAll_groveBlocks {base grove : Nat} : KeepAll n (groveBlocks base grove) := by
  unfold groveBlocks
  refine .append (.append (.append (.map ?_) (.map ?_)) (.map ?_)) <| .cons (.list ?_) <| .cons (.num ?_) .nil
  · exact .raw fun hs _ => hs.modGrove
  · exact .raw fun hs hm => hs.modGroveTo fun hg => hg.setBank hm
  · exact .raw fun hs _ => hs.modGrove
  · exact fun hs => hs.modGrove
  · exact fun hs => hs.modGrove

theorem keepAll_dieBlocks {k die part cores pools : Nat} : KeepAll n (dieBlocks k die part cores pools) := by
  unfold dieBlocks
  refine .append (.append (.append (.flatMap ?_) ?_) (.flatMap ?_)) (.flatMap ?_)
  · exact .cons (.num fun hs => hs.modDie) <| .cons (.list fun hs => hs.modDie) .nil
  · exact .cons (.list fun hs => hs.frame) <| .cons (.list fun hs => hs.modPart) .nil
  · exact .cons (.num fun hs => .ite hs hs.loadStand) <| .cons (.array fun hs => hs.modDie) .nil
  · exact .append keepAll_groveBlocks (.flatMap keepAll_coreBlocks)

theorem keepAll_partBlocks {part cores pools : Nat} : KeepAll n (partBlocks part cores pools) := by
  unfold partBlocks
  refine .cons (.num ?_) <| .cons (.array ?_) <| .cons (.array ?_) <| .cons (.array ?_) <| .cons (.num ?_) <|
    .cons (.array ?_) <| .cons (.num ?_) <| .cons (.num ?_) <| .cons (.num ?_) <| .cons (.num ?_) <| .cons (.num ?_) <|
    .cons (.num ?_) <| .cons (.list ?_) <| .cons (.list ?_) .nil
  · exact fun hs => hs.modPart
  · exact fun hs => hs.modPart
  · exact fun hs => hs.modPool
  · exact fun hs => hs.modPool
  · exact fun hs => hs.modPart
  · exact fun hs => hs.modCore
  · exact fun hs => hs.modPart
  · exact fun hs => hs.foldl fun ht => ht.modCore
  · exact fun hs => hs.foldl fun ht => .ite ht.modLaunch ht
  · exact fun hs => hs.foldl fun ht => .ite ht.modGraph ht
  · exact fun hs => hs.foldl fun ht => .ite ht.modGraph ht
  · exact fun hs => hs.foldl fun ht => .ite ht.modGraph ht
  · exact fun hs => hs.foldl fun ht => ht.modCore
  · exact fun hs => hs.modPart.modPool

theorem keepAll_lastBlocks {part cores : Nat} : KeepAll n (lastBlocks part cores) :=
  .cons (.array fun hs => hs.loadBars) <| .cons (.list fun hs => hs.loadStrays) .nil

theorem keepAll_blocks {part : Nat} : KeepAll n (s.blocks part) :=
  .append (.append keepAll_partBlocks (.flatMap keepAll_dieBlocks)) keepAll_lastBlocks

/-! ### The image -/

/-- Bytes put into module memory one by one. -/
theorem putCells {cells : Memory} {f : Nat → Nat} (h : s.Sound n) :
    State.Sound n { s with mem := cells.foldl (fun m c => Memory.put m (f c.1) c.2) s.mem } :=
  h.setMem fun hn => List.foldlRecOn cells _ (motive := fun m => Memory.wf m = true) (h.mem hn) fun _ hm _ _ =>
    Memory.wf_put _ _ _ hm

theorem clearMem {lo hi : Nat} (h : s.Sound n) : State.Sound n { s with mem := Memory.clear s.mem lo hi } :=
  h.setMem fun hn => Memory.wf_clear _ _ _ (h.mem hn)

theorem writeImage {part base : Nat} {instant : Word} (h : s.Sound n) : (s.writeImage part base instant).Sound n := by
  unfold State.writeImage
  exact State.Sound.writeLlc (h.clearMem.foldl fun {t b} ht => ht.putCells (f := fun a => base + b.off + a))

theorem loadImage {part : Nat} {m : Memory} (h : s.Sound n) (hm : 0 < n → Memory.wf m = true) :
    (s.loadImage part m).Sound n := by
  cases n with
  | zero => exact State.sound_zero _
  | succ n =>
    exact List.foldlRecOn _ _ (motive := State.Sound (n + 1)) h fun _ ht b hb =>
      (keepAll_blocks b hb).load ht (Memory.wf_slice (hm n.succ_pos) b.off b.len)

end State.Sound
end Sys2Proof.Machine

/-! SUPPORT. Gang switch, image transfer and restore keep the order (R343, R344, R415 to R421). -/

namespace Sys2Proof.Machine.State.Sound
variable {n : Nat} {s t : State}

/-! ### The point that every engine reaches -/

theorem withdrawWaits {core : Nat} (h : s.Sound n) : (s.withdrawWaits core).Sound n := by
  unfold State.withdrawWaits
  exact h.foldl fun ht => ht.leaveWait

theorem abandonRun {core : Nat} (h : s.Sound n) : (s.abandonRun core).Sound n := by
  unfold State.abandonRun
  exact .ite (State.Sound.ite h.complete h).modCore (.ite h.complete h)

theorem restHeads {core : Nat} (h : s.Sound n) : (s.restHeads core).Sound n := by
  unfold State.restHeads
  refine State.Sound.modCore ?_
  split
  · split
    · have hr {q : QEntry} : State.Sound n (if (s.getCtx core 0).waitsFor q.seq then (s.on core 0).retire else s) :=
        .ite h.on.retire h
      dsimp only
      split
      · next e => exact hr.sampleWrite.fabEnd.of_did e
      · exact hr
    · exact h
  · exact h

theorem restCopy {core : Nat} {seq : BitVec 16} {k : Nat} (h : s.Sound n) : (s.restCopy core seq k).Sound n := by
  induction k generalizing s with
  | zero => exact h
  | succ k ih =>
    unfold State.restCopy
    split
    · exact h
    · split
      · next e => exact ih (h.copyGo e)
      · exact h

theorem restCopies {core : Nat} (h : s.Sound n) : (s.restCopies core).Sound n := by
  unfold State.restCopies
  exact (h.foldl fun ht => ht.restCopy).modCore

theorem restCore {core : Nat} (h : s.Sound n) : (s.restCore core).Sound n :=
  h.restHeads.withdrawWaits.cmoDrain.drainAll.restCopies.abandonRun

theorem restGrove {grove : Nat} (h : s.Sound n) : (s.restGrove grove).Sound n := by
  unfold State.restGrove
  split
  · exact h
  · exact h.matrixRun.modGrove

theorem restPool {part i : Nat} (h : s.Sound n) : (s.restPool part i).Sound n := by
  unfold State.restPool
  refine State.Sound.modPool (State.Sound.foldl (h.foldl fun ht => (ht.foldl fun hu => hu.modPool).modPool) fun ht => ?_)
  split
  · exact ht.modPool.takeWrite
  · exact ht.takeWrite

theorem savePool {part i : Nat} (h : s.Sound n) : (s.savePool part i).Sound n := by
  unfold State.savePool
  exact h.clearMem.foldl fun ht => ht.writeLlc

theorem saveTrace {part base : Nat} (h : s.Sound n) : (s.saveTrace part base).Sound n :=
  h.foldl fun ht => ht.clearMem.foldl fun hu => hu.writeLlc

theorem reinject {part : Nat} (h : s.Sound n) : (s.reinject part).Sound n := h.foldl fun ht => ht.arrive

theorem spillPieces {die : Nat} (h : s.Sound n) : (s.spillPieces die).Sound n :=
  h.foldl fun ht => .ite ht.frame.perform ht

theorem dropPieces {part : Nat} (h : s.Sound n) : (s.dropPieces part).Sound n := h.frame

theorem rest {part : Nat} (h : s.Sound n) : (s.rest part).Sound n := by
  unfold State.rest
  refine State.Sound.foldl (State.Sound.foldl (State.Sound.foldl (State.Sound.foldl (State.Sound.reinject ?_) ?_) ?_) ?_) ?_
  · exact (h.foldl fun ht => ht.restCore).foldl fun ht => ht.foldl fun hu => hu.restGrove
  · exact fun ht => ht.spillPieces
  · exact fun ht => ht.restPool
  · exact fun ht => ht.flushDie
  · exact fun ht => ht.savePool

theorem settleOwn {conn : Nat} {e : BitVec 16 × Instr} (h : s.Sound n) : (s.settleOwn conn e).Sound n := by
  unfold State.settleOwn
  split
  · exact .ite (.ite h.ownWork.modConn h.ownWork) h
  · exact h

theorem settleOwns (h : s.Sound n) : s.settleOwns.Sound n := h.foldl fun ht => ht.foldl fun hu => hu.settleOwn

theorem stopPart {part : Nat} {gang : BitVec 32} (h : s.Sound n) : (s.stopPart part gang).Sound n :=
  .ite h h.modPart.rest.modPart

theorem takeImage {part : Nat} {r : SwitchReq} (h : s.Sound n) : (s.takeImage part r).Sound n := by
  unfold State.takeImage
  exact h.saveTrace.writeImage.dropPieces.modPart.drawn.count

theorem nextHeldAll {conns : List Nat} (h : s.Sound n) : (conns.foldl State.nextHeld s).Sound n := h.foldl fun ht => ht.nextHeld

theorem execSwitchInstant {part : Nat} (h : s.Sound n) : Answers n (execSwitchInstant part s) := by
  refine State.Sound.answer ?_
  split
  · exact h
  · exact .ite h (.ite h.stopPart.settleOwns h.stopPart.settleOwns.takeImage.nextHeldAll)

theorem execDigestWrite {part : Nat} (h : s.Sound n) : Answers n (execDigestWrite part s) := by
  refine State.Sound.answer ?_
  split
  · exact h
  · exact .ite h h.writeLlc.modPart.nextHeldAll

/-! ### SWITCH, IMGXFER and RESTORE -/

theorem execSwitch {hdr : Hdr} {at_ image trace : Word} {gang rsv : BitVec 32} (h : s.Sound n) :
    Answers n (execSwitch hdr at_ image trace gang rsv s) := by
  refine h.ncp (.ite ?_ (.ite h.ans (.ite h.ans (.ite h.ans (.ite h.ans h.modPart.ans)))))
  split
  · exact h.ans
  · exact .ite h.modPart.ans h.ans

theorem execImgxfer {hdr : Hdr} {src len : Word} {peer : BitVec 32} {dst : Word} {route : BitVec 16} (h : s.Sound n) :
    Answers n (execImgxfer hdr src len peer dst route s) := by
  refine h.ncp ?_
  dsimp only
  split
  · exact h.ans
  · exact h.waits
  · refine .ite h.ans (.ite h.logPart.ans ?_)
    split
    · exact h.ans
    · exact .ite h.waits h.send.modConn.waits

theorem withdrawRestore {part : Nat} (h : s.Sound n) : Answer.Sound n (s.withdrawRestore part) := by
  unfold State.withdrawRestore
  split
  · exact .ite h.modPart.ans h.ans
  · exact .ite h.modConn.ans h.ans
  · exact h.ans

theorem execRestore {hdr : Hdr} {image trace at_ : Word} (h : s.Sound n) : Answers n (execRestore hdr image trace at_ s) :=
  h.ncp (.ite h.withdrawRestore (.ite h.logPart.ans (.ite h.ans (.ite h.ans (.ite h.ans (.ite h.ans
    (.ite h.modConn.waits (.ite h.logPart.ans h.modPart.ans))))))))

/-! ### A partition comes back -/

theorem clearPart {part : Nat} (h : s.Sound n) : (s.clearPart part).Sound n := by
  have hf : (s.diesOf part |>.foldl State.flushDie s).Sound n := h.foldl fun ht => ht.flushDie
  unfold State.clearPart
  refine State.Sound.modPart ?_
  exact
    { hf with
      cores := List.forall_mem_map.2 fun c hc => by
        dsimp only
        split
        · exact (Core.sound_reset n).frame
        · exact hf.cores c hc
      groves := fun g hg => hf.groves g (List.mem_of_mem_filter hg)
      dies := List.forall_mem_map.2 fun d hd => by
        dsimp only
        split
        · exact Die.sound_reset n
        · exact hf.dies d hd }

theorem loadPool {part i : Nat} (h : s.Sound n) : (s.loadPool part i).Sound n := .ite h h.modPool

theorem loadRings {core : Nat} (h : s.Sound n) : (s.loadRings core).Sound n := by
  unfold State.loadRings
  refine h.foldl fun ht => .ite ht ?_
  split
  · exact ht
  · next e => exact (ht.xlateRange e).modRing

theorem loadGroups {grove : Nat} (h : s.Sound n) : (s.loadGroups grove).Sound n := by
  unfold State.loadGroups
  exact h.modGrove

theorem loadOwned {core : Nat} (h : s.Sound n) : (s.loadOwned core).Sound n := by
  unfold State.loadOwned
  refine h.foldl fun ht => .ite ht ?_
  split
  · exact ht
  · next e => exact (ht.copyChecks e).takeLines

theorem loadHandling {core : Nat} (h : s.Sound n) : (s.loadHandling core).Sound n := by
  unfold State.loadHandling
  refine h.foldl fun ht => .ite ht ?_
  split
  · exact ht
  · exact ht.modCtx

theorem loadGraph {part slot : Nat} (h : s.Sound n) : (s.loadGraph part slot).Sound n := by
  unfold State.loadGraph
  split
  · exact h
  · exact h
  · dsimp only
    split
    · exact h.modPart
    · exact h

theorem loadLaunch {part i : Nat} (h : s.Sound n) : (s.loadLaunch part i).Sound n := by
  unfold State.loadLaunch
  split
  · exact h
  · split
    · exact h
    · exact .ite h (.ite h.modLaunch.modGraph h.modLaunch)

theorem loadUnit {core : Nat} (h : s.Sound n) : (s.loadUnit core).Sound n := by
  unfold State.loadUnit
  split
  · exact h.modCore
  · exact h

theorem loadPuts {part : Nat} (h : s.Sound n) : (s.loadPuts part).Sound n := by
  unfold State.loadPuts
  exact h.modPool

theorem settleImage {part : Nat} (h : s.Sound n) : (s.settleImage part).Sound n := by
  unfold State.settleImage
  refine State.Sound.reinject (State.Sound.foldl (State.Sound.foldl (State.Sound.foldl (State.Sound.loadPuts
    (State.Sound.foldl (State.Sound.foldl (h.foldl ?_) ?_) ?_)) ?_) ?_) ?_)
  · exact fun ht => ht.loadPool
  · exact fun ht => ht.loadGraph
  · exact fun ht => ht.loadLaunch
  · exact fun ht => ht.loadRings
  · exact fun ht => ht.foldl fun hu => hu.loadGroups
  · exact fun ht => ht.loadUnit.loadOwned.loadHandling

theorem execRestoreInstant {part : Nat} (h : s.Sound n) : Answers n (execRestoreInstant part s) := by
  refine State.Sound.answer ?_
  split
  · exact h
  · exact .ite h (h.clearPart.loadImage fun hn => Memory.wf_slice (h.mem hn) _ _).settleImage.modPart

end Sys2Proof.Machine.State.Sound

/-! SUPPORT. What an instruction or an event does is a next state that keeps the order. -/

namespace Sys2Proof.Machine.State.Sound
variable {n : Nat} {s : State}

/-- Every arm of the dispatch answers a next state. The families of the pipeline and the queues come first, then each other
meaning by its own law. -/
theorem exec (h : s.Sound n) (i : Instr) : Answers n (exec i s) :=
  match i with
  | .vaddF32 .. | .vsubF32 .. | .vmulF32 .. | .vfmaF32 .. | .vminF32 .. | .vmaxF32 .. | .vdivF32 .. | .vsqrtF32 ..
  | .vaddF64 .. | .vsubF64 .. | .vmulF64 .. | .vfmaF64 .. | .vminF64 .. | .vmaxF64 .. | .vdivF64 .. | .vsqrtF64 ..
  | .vaddI32 .. | .vsubI32 .. | .vmulI32 .. | .vand .. | .vor .. | .vxor .. | .vsllI32 .. | .vsrlI32 .. | .vsraI32 ..
  | .vminI32 .. | .vmaxI32 .. | .vminuI32 .. | .vmaxuI32 .. | .vaddsI32 .. | .vsubsI32 .. | .vmulhI32 .. | .vaddI64 ..
  | .vsubI64 .. | .vmulI64 .. | .vsllI64 .. | .vsrlI64 .. | .vsraI64 .. | .vminI64 .. | .vmaxI64 .. | .vceqF32 ..
  | .vcltF32 .. | .vcleF32 .. | .vceqI32 .. | .vcltI32 .. | .vcltuI32 .. | .vceqF64 .. | .vcltF64 .. | .kand .. | .kor ..
  | .kxor .. | .kandn .. | .vsel .. | .vbcast .. | .vmovs .. | .kpop .. | .vldW .. | .vldD .. | .vstW .. | .vstD ..
  | .vldxW .. | .vstxW .. | .kld .. | .kst .. | .vredsumF32 .. | .vredmaxF32 .. | .vredminF32 .. | .vredsumF64 ..
  | .vredsumI32 .. | .vredmaxI32 .. | .vredsumI64 .. | .vredor .. | .vperm .. | .vslide .. | .vfsl .. | .vfsr .. | .vlut3 ..
  | .vrng .. | .vcvtF32I32 .. | .vcvtI32F32 .. | .vcvtF64F32 .. | .vcvtF32F64 .. | .vcvtF16F32 .. | .vcvtF32F16 ..
  | .vcvtBf16F32 .. | .vcvtF32Bf16 .. | .vscanF32 .. | .vscanI32 .. | .vsortxF32 .. | .vexp2F32 .. | .venc .. | .vdec ..
  | .mleaseRel | .mloadW .. | .mswap | .mmac .. | .mgrp .. | .mst .. | .mzero .. | .mloadT .. | .afcfgRel | .afcfg ..
  | .afscale .. | .afrun | .afwaitTry .. => h.dispatch
  | .hset .. | .hget .. | .evtry .. | .hadvP .. | .hadvC .. => h.ringHeld
  | .evwait .. | .hwaitF .. | .hwaitE .. => h.dispatchWith fun ht => ht.waitOn.ringStep
  | .afwait .. | .afsamp .. => h.fabWaits
  | .add .. | .sub .. | .and .. | .or .. | .xor .. | .sll .. | .srl .. | .sra .. | .mul .. | .mulh .. | .mulhu .. | .div ..
  | .divu .. | .rem .. | .remu .. | .addw .. | .subw .. | .sllw .. | .srlw .. | .sraw .. | .mulw .. | .slt .. | .sltu ..
  | .seq .. | .min .. | .max .. | .minu .. | .maxu .. | .rol .. | .ror .. | .andn .. | .orn .. =>
    h.answer_begin fun ht => ht.result
  | .madd .. | .sel .. => h.answer_begin fun ht => ht.result
  | .addi .. | .andi .. | .ori .. | .xori .. | .slli .. | .srli .. | .srai .. | .muli .. | .clz .. | .ctz .. | .popc ..
  | .rev8 .. => h.answer_begin fun ht => ht.result
  | .ldB .. | .ldH .. | .ldW .. | .ldD .. | .ldBu .. | .ldHu .. | .ldWu .. => h.loadOp
  | .stB .. | .stH .. | .stW .. | .stD .. => h.storeOp
  | .brEq .. | .brNe .. | .brLt .. | .brGe .. => h.answer_begin fun ht => ht.branch
  | .brEqTwoReg .. | .brNeTwoReg .. | .brLtTwoReg .. | .brGeTwoReg .. | .brLtu .. | .brGeu .. =>
    h.answer_begin fun ht => ht.branch
  | .faddD .. | .fsubD .. | .fmulD .. | .fdivD .. | .fminD .. | .fmaxD .. | .faddS .. | .fsubS .. | .fmulS .. | .fdivS ..
  | .fminS .. | .fmaxS .. | .feqD .. | .fltD .. | .fleD .. | .feqS .. | .fltS .. | .fleS .. =>
    h.answer_begin fun ht => ht.orFlags.result
  | .fsqrtD .. | .fsqrtS .. | .fclassD .. | .fclassS .. | .fcvtDS .. | .fcvtSD .. | .fcvtLD .. | .fcvtLuD .. | .fcvtDL ..
  | .fcvtDLu .. | .fcvtWS .. | .fcvtSW .. | .fcvtWD .. | .fcvtWuD .. | .fcvtLS .. | .fcvtLuS .. | .fcvtSL .. | .fcvtSLu ..
  | .fcvtWuS .. | .fcvtSWu .. => h.answer_begin fun ht => ht.orFlags.result
  | .fmaddD .. | .fmaddS .. => h.answer_begin fun ht => ht.orFlags.result
  | .amoAdd .. | .amoAnd .. | .amoOr .. | .amoXor .. | .amoMin .. | .amoMax .. | .amoSwap .. | .amoAddScoped ..
  | .amoAndScoped .. | .amoOrScoped .. | .amoXorScoped .. | .amoMinScoped .. | .amoMaxScoped .. | .amoSwapScoped .. =>
    h.answer_start fun ht => ht.amo
  | .amoCas .. | .amoCasScoped .. => h.answer_start fun ht => ht.amo
  | .cmoCleanL1 .. | .cmoCleanLlc .. | .cmoCleanMem .. | .cmoInvL1 .. | .cmoInvLlc .. | .cmoInvMem .. | .cmoClinvL1 ..
  | .cmoClinvLlc .. | .cmoClinvMem .. => h.cmo
  | .vectorInstructionExecute .. => h.execVectorInstructionExecute
  | .mlease => h.execMlease
  | .matrixCommandAccept .. => h.execMatrixCommandAccept
  | .matrixCommandComplete .. => h.execMatrixCommandComplete
  | .leaseGrant .. => h.execLeaseGrant
  | .leaseExpiry .. => h.execLeaseExpiry
  | .cpq .. => h.execCpq
  | .cpwait .. => h.execCpwait
  | .copyChunk .. => h.execCopyChunk
  | .copyComplete .. => h.execCopyComplete
  | .eventRecordPost .. => h.execEventRecordPost
  | .ringUnitPerform .. => h.execRingUnitPerform
  | .afcfgClaim .. => h.execAfcfgClaim
  | .fabricInstructionPerform .. => h.execFabricInstructionPerform
  | .runSettled .. => h.execRunSettled
  | .runTimeout .. => h.execRunTimeout
  | .runSaturated .. => h.execRunSaturated
  | .attach .. => h.execAttach
  | .detach .. => h.execDetach
  | .setpart .. => h.execSetpart
  | .graphload .. => h.execGraphload
  | .grapharm .. => h.execGrapharm
  | .launcharm .. => h.execLauncharm
  | .launchpatch .. => h.execLaunchpatch
  | .cancelCommand .. => h.execCancelCommand
  | .sigreg .. => h.execSigreg
  | .rdmem .. => h.execRdmem
  | .halt .. => h.execHalt
  | .resume .. => h.execResume
  | .jobstart .. => h.execJobstart
  | .jobstat .. => h.execJobstat
  | .setxlate .. => h.execSetxlate
  | .inval .. => h.execInval
  | .own .. => h.execOwn
  | .cut .. => h.execCut
  | .portcfg .. => h.execPortcfg
  | .xchan .. => h.execXchan
  | .collgrp .. => h.execCollgrp
  | .identity .. => h.execIdentity
  | .quote .. => h.execQuote
  | .extend .. => h.execExtend
  | .fwstage .. => h.execFwstage
  | .fwstageRecovery .. => h.execFwstageRecovery
  | .switch .. => h.execSwitch
  | .restore .. => h.execRestore
  | .imgxfer .. => h.execImgxfer
  | .replaytrace .. => h.execReplaytrace
  | .stats .. => h.execStats
  | .powercap .. => h.execPowercap
  | .errlog .. => h.execErrlog
  | .ncpUnsupportedOpcode .. => h.execNcpUnsupportedOpcode
  | .ldAcq .. => h.execLdAcq
  | .ldlD .. => h.execLdlD
  | .stRel .. => h.execStRel
  | .j .. => h.execJ
  | .jal .. => h.execJal
  | .jr .. => h.execJr
  | .jalr .. => h.execJalr
  | .fence .. => h.execFence
  | .chbind .. => h.execChbind
  | .chsend .. => h.execChsend
  | .cmoLineOperationsDone .. => h.execCmoLineOperationsDone
  | .cget .. => h.execCget
  | .cput .. => h.execCput
  | .poolboundSelect .. => h.execPoolboundSelect
  | .poolboundWrite .. => h.execPoolboundWrite
  | .journalWrite .. => h.execJournalWrite
  | .trap .. => h.execTrap
  | .eret => h.execEret
  | .hstart .. => h.execHstart
  | .hexit => h.execHexit
  | .hjoin .. => h.execHjoin
  | .gdone => h.execGdone
  | .gcancel .. => h.execGcancel
  | .garm .. => h.execGarm
  | .larm .. => h.execLarm
  | .lpatch .. => h.execLpatch
  | .pput .. => h.execPput
  | .ptake .. => h.execPtake
  | .ptakeW .. => h.execPtakeW
  | .pcancel .. => h.execPcancel
  | .barInit .. => h.execBarInit
  | .barWait .. => h.execBarWait
  | .barVote .. => h.execBarVote
  | .itake .. => h.execItake
  | .irel .. => h.execIrel
  | .iwait .. => h.execIwait
  | .iwaitP .. => h.execIwaitP
  | .faultTrapEntry .. => h.execFaultTrapEntry
  | .lateFaultReport .. => h.execLateFaultReport
  | .lateTrapEntry .. => h.execLateTrapEntry
  | .tick .. => h.execTick
  | .timerTrapEntry .. => h.execTimerTrapEntry
  | .waitTimeout .. => h.execWaitTimeout
  | .wake .. => h.execWake
  | .cancel .. => h.execCancel
  | .channelGrant .. => h.execChannelGrant
  | .channelMessageArrival .. => h.execChannelMessageArrival
  | .windowPieceArrival .. => h.execWindowPieceArrival
  | .windowRegisterWrite .. => h.execWindowRegisterWrite
  | .tail .. => h.execTail
  | .resv .. => h.execResv
  | .portstat .. => h.execPortstat
  | .heldInboxDelivery .. => h.execHeldInboxDelivery
  | .armingRelease .. => h.execArmingRelease
  | .launchConfirm .. => h.execLaunchConfirm
  | .graphToken .. => h.execGraphToken
  | .graphProvisionalReport .. => h.execGraphProvisionalReport
  | .graphConfirmReport .. => h.execGraphConfirmReport
  | .graphFaultReport .. => h.execGraphFaultReport
  | .walkMarkStep .. => h.execWalkMarkStep
  | .walkRecountStep .. => h.execWalkRecountStep
  | .graphCancel .. => h.execGraphCancel
  | .poolSummary .. => h.execPoolSummary
  | .poolSummaryAck .. => h.execPoolSummaryAck
  | .pputLinearize .. => h.execPputLinearize
  | .poolRebalance .. => h.execPoolRebalance
  | .poolArbiterTake .. => h.execPoolArbiterTake
  | .poolEmptinessSweep .. => h.execPoolEmptinessSweep
  | .collectiveStart .. => h.execCollectiveStart
  | .collectiveComplete .. => h.execCollectiveComplete
  | .hostRemoteWrite .. => h.execHostRemoteWrite
  | .unsupportedPacket .. => h.execUnsupportedPacket
  | .flitReplay .. => h.answer
  | .portTrainingLost .. => h.execPortTrainingLost
  | .portUp .. => h.execPortUp
  | .portFailed .. => h.execPortFailed
  | .timeStampExchange .. => h.execTimeStampExchange
  | .outOfStep => h.execOutOfStep
  | .switchInstant .. => h.execSwitchInstant
  | .digestWrite .. => h.execDigestWrite
  | .restoreInstant .. => h.execRestoreInstant
  | .moduleReset => h.execModuleReset
  | .heartbeat => h.execHeartbeat
  | .taprootWatchdog => h.execTaprootWatchdog
  | .replayQueueTimeout .. => h.execReplayQueueTimeout
  | .powerPeriod .. => h.execPowerPeriod
  | .tokenTake .. => h.execTokenTake
  | .thermalThrottle .. => h.execThermalThrottle
  | .thermalTrip .. => h.execThermalTrip
  | .softError .. => h.execSoftError
  | .stagingPowerLoss => h.execStagingPowerLoss
  | .storeBufferDrain .. => h.execStoreBufferDrain
  | .l1Eviction .. => h.execL1Eviction
  | .nullifiedInstruction => h.execNullifiedInstruction
  | .peerRemoteWrite .. => h.execPeerRemoteWrite
  | .backInStep => h.execBackInStep
  | .throttleCleared => h.execThrottleCleared

end Sys2Proof.Machine.State.Sound

/-! SUPPORT. A step of a context, the passing of time and a step of the machine keep the order (R5, R25, R36, R41, R153 to R155,
R414, R432). -/

namespace Sys2Proof.Machine

/-- A move of the agenda that is one: it names a core and a context that exist, and no encoded instruction. -/
def Move.Ok : Move → Prop
  | .issue core ctx | .resume core ctx => core < Config.cores ∧ ctx < 11
  | .elapse => True
  | .act i => i.fields = none

theorem Move.ok_pair {core ctx : Nat} : core < Config.cores ∧ ctx < 11 ↔ ¬(Config.cores ≤ core ∨ 11 ≤ ctx) := by
  omega

/-- Any other move faults. -/
theorem State.perform?_of_not_ok {s : State} {m : Move} (h : ¬ m.Ok) : s.perform? m = .fault .badMove := by
  cases m with
  | issue core ctx => exact if_pos (Decidable.not_not.1 fun hn => h (Move.ok_pair.2 hn))
  | resume core ctx => exact if_pos (Decidable.not_not.1 fun hn => h (Move.ok_pair.2 hn))
  | elapse => exact absurd trivial h
  | act i => exact if_pos (Option.isSome_iff_ne_none.2 h)

namespace State.Sound
variable {n : Nat} {s t : State}

/-! ### A step of a context -/

theorem formChain (h : s.Sound n) (e : s.formChain = .ok t) : t.Sound n := by
  unfold State.formChain at e
  split at e
  · cases e; exact h
  · split at e
    · cases e
    · next hf =>
      split at e
      · cases e
      · next hg => cases e; exact ((h.fetchNext hf).fetchNext hg).modCx

/-- The instruction whose words are fetched is executed. -/
theorem runChain {fresh : Bool} (h : s.Sound n) : Answers n (s.runChain fresh) := by
  unfold State.runChain
  split
  · exact h.exec _
  split
  · exact h.fetchFault.answer
  next hf =>
    have hw := h.fetchWords hf
    split
    · exact hw.illegal.answer
    dsimp only
    split
    · exact hw.modCx.illegal.answer
    split
    · split
      · exact hw.modCx.fetchFault.answer
      · next hn => exact (hw.modCx.withNext hn).exec _
    · exact hw.modCx.exec _

theorem issue (h : s.Sound n) : Answers n s.issue := by
  unfold State.issue
  split
  · exact h.fetchFault.answer
  · next e => exact (h.formChain e).runChain

theorem issueOf {core ctx : Nat} (h : s.Sound n) : Answers n (s.issueOf core ctx) :=
  (State.Sound.modCore h.frame).on.issue

/-! ### The clock -/

theorem countWaits {dt : Nat} (h : s.Sound n) : (s.countWaits dt).Sound n :=
  h.mapCores (hp := by intro; dsimp only; split <;> rfl)

theorem acknowledge (h : s.Sound n) : s.acknowledge.Sound n := h.mapCores.frame
theorem countGang {dt : Nat} (h : s.Sound n) : (s.countGang dt).Sound n := .ite h.frame h.frame
theorem countModule {dt : Nat} (h : s.Sound n) : (s.countModule dt).Sound n := h.setTap

theorem powerPeriods {old : Nat} (h : s.Sound n) : (s.powerPeriods old).Sound n := .ite h (h.foldl fun ht => ht.powerPeriod)

theorem elapse (h : s.Sound n) : s.elapse.Sound n := by
  unfold State.elapse
  exact (State.Sound.countWaits h.setTap).countGang.countModule.settlePower.acknowledge.powerPeriods.frame

/-! ### Moves -/

theorem perform? {m : Move} (h : s.Sound n) (ok : m.Ok) : Answers n (s.perform? m) := by
  cases m with
  | issue core ctx =>
    unfold State.perform?
    dsimp only
    rw [if_neg (Move.ok_pair.1 ok)]
    split
    · exact h.issueOf
    · exact h.answer
  | resume core ctx =>
    unfold State.perform?
    dsimp only
    rw [if_neg (Move.ok_pair.1 ok)]
    split
    · exact h.on.issue
    · exact h.answer
  | elapse => exact h.elapse.answer
  | act i =>
    unfold State.perform?
    dsimp only
    rw [if_neg (by simp [show i.fields = none from ok])]
    split
    · exact h.answer
    · exact h.exec i

/-- With an empty agenda the machine finds a move that is one. -/
theorem step_of_agenda_nil (h : s.Sound n) (e : s.agenda = []) : Answers n (step s) := by
  unfold step State.nextMove
  rw [e]
  dsimp only
  split
  · exact h.elapse.answer
  split
  · exact h.exec _
  split
  · exact h.issueOf
  · exact h.elapse.answer

end State.Sound

theorem step_of_agenda_cons {s : State} {m : Move} {rest : List Move} (e : s.agenda = m :: rest) :
    step s = ({ s with agenda := rest }).perform? m := by
  unfold step State.nextMove
  rw [e]

namespace State.Sound
variable {n : Nat} {s t : State}

/-- A step answers a next state that keeps the order, when the agenda's first move is one. -/
theorem step (h : s.Sound n) (ok : ∀ m ∈ s.agenda.head?, m.Ok) : Answers n (step s) := by
  cases e : s.agenda with
  | nil => exact h.step_of_agenda_nil e
  | cons m rest =>
    rw [step_of_agenda_cons e]
    exact State.Sound.perform? h.frame (ok m (by simp [e]))

/-- A step answers a next state that keeps the order, or faults. -/
theorem step_or_fault (h : s.Sound n) : Answers n (Machine.step s) ∨ Machine.step s = .fault .badMove := by
  by_cases ok : ∀ m ∈ s.agenda.head?, m.Ok
  · exact .inl (h.step ok)
  · push Not at ok
    obtain ⟨m, hm, bad⟩ := ok
    obtain ⟨rest, e⟩ := List.head?_eq_some_iff.1 hm
    exact .inr ((step_of_agenda_cons e).trans (State.perform?_of_not_ok bad))

/-- The next state of a step keeps the order. -/
theorem of_step (h : s.Sound n) (e : Machine.step s = .next t) : t.Sound n := by
  rcases h.step_or_fault with ⟨u, hu, sound⟩ | hf
  · cases hu.symm.trans e; exact sound
  · cases hf.symm.trans e

end State.Sound
end Sys2Proof.Machine

/-! CERTIFICATE. What every step keeps, and that it never refuses (O29, O30, O31), from one law per operation: each keeps the
order at every level. -/

namespace Sys2Proof.Machine

/-- Settles O29: the order of level 1 is `State.safe`. -/
theorem stepKeepsSafe : Obligations.StepKeepsSafe := fun s t safe e =>
  (State.sound_one_iff t).1 (((State.sound_one_iff s).2 safe).of_step e)

/-- Settles O30: the order of level 2 is `State.safe` and `State.storesOk`. -/
theorem stepKeepsStores : Obligations.StepKeepsStores := fun s t safe stores e =>
  ((State.sound_two_iff t).1 (((State.sound_two_iff s).2 ⟨safe, stores⟩).of_step e)).2

/-- Settles O31: at level 0, which every state has, a step answers or faults, and it faults for a move that is none alone. -/
theorem stepAlwaysAnswers : Obligations.StepAlwaysAnswers := by
  intro s
  have h := State.sound_zero s
  refine ⟨fun r refused => ?_, fun pair act => ?_⟩
  · rcases h.step_or_fault with ⟨t, ht, _⟩ | hf
    · cases ht.symm.trans refused
    · cases hf.symm.trans refused
  · obtain ⟨t, ht, _⟩ := h.step fun m hm => by
      cases m with
      | issue core ctx => exact pair core ctx (.inl hm)
      | resume core ctx => exact pair core ctx (.inr hm)
      | elapse => exact trivial
      | act i => exact act i hm
    exact ⟨t, ht⟩

end Sys2Proof.Machine

end

section
/-! SUPPORT. Dispatch of an engine-bound instruction that its place takes (R264, R265, R335): what leaving the store
buffer changes of the acting core, and the state in which the instruction is queued. -/

namespace Sys2Proof.Machine

/-! ### A context's stores leave the buffer (R99, R107) -/

/-- `t` is `s` after upkeep of the dies' copies for a core in which its `n` oldest buffered stores have left: of the core
only its L1, its buffer and the count of what left it differ. -/
structure State.Drained (core n : Nat) (s t : State) : Prop where
  acting : t.core = s.core
  context : t.ctx = s.ctx
  cut : t.cut = s.cut
  groves : t.groves = s.groves
  parts : t.parts = s.parts
  getCore : ∃ l1 out, t.getCore core =
    { s.getCore core with l1 := l1, sbOut := out, sb := (s.getCore core).sb.drop n }

/-- How many buffered stores there are up to the context's last one, when one more enters behind. -/
theorem lastOwn_concat (sb : List SbEntry) (e : SbEntry) (ctx : Nat) :
    lastOwn (sb ++ [e]) ctx = if e.ctx = ctx then sb.length + 1 else lastOwn sb ctx := by
  have count : (sb.foldl (fun (acc : Nat × Nat) e => (acc.1 + 1, if e.ctx = ctx then acc.1 + 1 else acc.2)) (0, 0)).1 =
      sb.length := by
    induction sb using List.reverseRecOn with
    | nil => rfl
    | append_singleton sb e ih => simp [ih]
  simp only [lastOwn, List.foldl_append, List.foldl_cons, List.foldl_nil, count]

/-- Behind the context's last store no store is its own. -/
theorem ctx_ne_of_mem_drop_lastOwn {sb : List SbEntry} {ctx : Nat} :
    ∀ e ∈ sb.drop (lastOwn sb ctx), e.ctx ≠ ctx := by
  induction sb using List.reverseRecOn with
  | nil => simp
  | append_singleton sb x ih =>
    rw [lastOwn_concat]
    split
    · simp
    · next other =>
      intro e he
      rw [List.drop_append] at he
      rcases List.mem_append.1 he with old | new
      · exact ih e old
      · rwa [List.mem_singleton.1 (List.mem_of_mem_drop new)]

/-- A line that leaves every L1 of a die changes nothing else of a core. -/
theorem State.getCore_dropLine (s : State) (die line core : Nat) :
    ∃ l1, (s.dropLine die line).getCore core = { s.getCore core with l1 := l1 } := by
  unfold State.getCore State.dropLine
  dsimp only
  induction s.cores with
  | nil => exact ⟨_, rfl⟩
  | cons x m ih =>
    simp only [List.map_cons, Sparse.get]
    split
    · split
      · exact ⟨_, rfl⟩
      · exact ⟨_, rfl⟩
    · split
      · exact ⟨_, rfl⟩
      · exact ih

namespace State.Drained
variable {core n m : Nat} {s t u : State}

theorem refl (s : State) : Drained core 0 s s := ⟨rfl, rfl, rfl, rfl, rfl, _, _, rfl⟩

theorem trans (h : Drained core n s t) (h' : Drained core m t u) : Drained core (n + m) s u := by
  obtain ⟨a, b, c, d, e, l1, out, hc⟩ := h
  obtain ⟨a', b', c', d', e', l1', out', hc'⟩ := h'
  refine ⟨a'.trans a, b'.trans b, c'.trans c, d'.trans d, e'.trans e, l1', out', ?_⟩
  rw [hc', hc, List.drop_drop]

theorem modDie {d : Nat} {f : Die → Die} (h : Drained core n s t) : Drained core n s (t.modDie d f) := { h with }

theorem modMem {d : Nat} {f : MemDie → MemDie} (h : Drained core n s t) : Drained core n s (t.modMem d f) := { h with }

theorem setMem {m : Memory} (h : Drained core n s t) : Drained core n s { t with mem := m } := { h with }

/-- A change of the core's L1. -/
theorem setL1 {f : Core → List Nat} (h : Drained core n s t) :
    Drained core n s (t.modCore core fun c => { c with l1 := f c }) := by
  obtain ⟨a, b, c, d, e, l1, out, hc⟩ := h
  exact ⟨a, b, c, d, e, f (t.getCore core), out, by rw [State.getCore_modCore_same, hc]⟩

/-- A repetition of what lets nothing leave. -/
theorem foldl {α : Type} {f : State → α → State} (l : List α) (h : Drained core n s t)
    (hf : ∀ {v : State} {a : α}, Drained core n s v → Drained core n s (f v a)) : Drained core n s (l.foldl f t) :=
  List.foldlRecOn l f h fun _ hv _ _ => hf hv

theorem llcBack {l : Nat} (h : Drained core n s t) : Drained core n s (t.llcBack l) := h.modMem

theorem llcKeep {l : Nat} (h : Drained core n s t) : Drained core n s (t.llcKeep l) := by
  unfold State.llcKeep
  dsimp only
  split
  · exact h
  · split
    · exact h.modMem
    · exact h.llcBack.modMem
    · exact h.llcBack

theorem fill {die line : Nat} (h : Drained core n s t) : Drained core n s (t.fill die line) := by
  unfold State.fill
  split
  · exact h
  · exact h.modDie.llcKeep

theorem cleanLine {die line : Nat} (h : Drained core n s t) : Drained core n s (t.cleanLine die line) := by
  unfold State.cleanLine
  split
  · exact h
  · have hw {l : Line} : Drained core n s _ := h.foldl (upTo 32) (f := fun s i => if l.dirty.getLsbD i then
        { s with mem := Memory.put s.mem (line * 32 + i) (l.bytes[i % 32]'(Nat.mod_lt _ (by decide))) }
      else s) fun hv => by split; exacts [hv.setMem, hv]
    refine modDie ?_
    split
    · exact hw
    · exact hw.llcKeep

theorem dropLine {die line : Nat} (h : Drained core n s t) : Drained core n s (t.dropLine die line) := by
  obtain ⟨a, b, c, d, e, l1, out, hc⟩ := h
  obtain ⟨l1', he⟩ := t.getCore_dropLine die line core
  exact ⟨a, b, c, d, e, l1', out, by rw [he, hc]⟩

theorem flushLine {die line : Nat} (h : Drained core n s t) : Drained core n s (t.flushLine die line) :=
  h.cleanLine.dropLine

theorem evict {line : Nat} (h : Drained core n s t) : Drained core n s (t.evict core line) := by
  unfold State.evict
  dsimp only
  split
  · exact h.cleanLine.setL1
  · exact h.flushLine

theorem hold {line : Nat} (h : Drained core n s t) : Drained core n s (t.hold core line) := by
  unfold State.hold
  dsimp only
  split
  · exact h.fill
  · refine setL1 (fill ?_)
    split
    · exact h
    · cases (List.filter _ _).head? with
      | none => exact h
      | some l => exact h.evict

theorem holdRuns {rs : Runs} (h : Drained core n s t) : Drained core n s (t.holdRuns core rs) :=
  h.foldl rs fun hv => by split; exacts [hv, hv.foldl _ fun hw => hw.hold]

theorem storeByte {die pa : Nat} {b : Byte} (h : Drained core n s t) : Drained core n s (t.storeByte die pa b) := by
  unfold State.storeByte
  exact h.fill.modDie

theorem storeBytes {die pa : Nat} {bs : List Byte} (h : Drained core n s t) :
    Drained core n s (t.storeBytes die pa bs) := by
  induction bs generalizing t pa with
  | nil => exact h
  | cons b bs ih => exact ih h.storeByte

theorem drainOne (s : State) (core : Nat) : Drained core 1 s (s.drainOne core) := by
  unfold State.drainOne
  split
  · next empty => exact ⟨rfl, rfl, rfl, rfl, rfl, (s.getCore core).l1, (s.getCore core).sbOut, by
      rw [empty, List.drop_nil, ← empty]⟩
  · next rest full =>
    exact storeBytes (holdRuns ⟨rfl, rfl, rfl, rfl, rfl, _, _, by rw [State.getCore_modCore_same, full]; rfl⟩)

theorem drainN (s : State) (core k : Nat) : Drained core k s (s.drainN core k) := by
  induction k generalizing s with
  | zero => exact refl s
  | succ k ih =>
    have h := (drainOne s core).trans (ih (s.drainOne core))
    rwa [Nat.add_comm] at h

theorem drainCtx (s : State) (core ctx : Nat) :
    Drained core (lastOwn (s.getCore core).sb ctx) s (s.drainCtx core ctx) := drainN _ _ _

end State.Drained

/-! ### The queue of a place (R264, R265, R335) -/

/-- The dispatch-ring entry of the instruction that the acting context dispatches next. -/
def State.dispatchEntry (s : State) (i : Instr) : DEntry :=
  { addr := s.cx.pc, seq := s.me.seq, word := i.word, ctx := s.ctx, st := .inFlight, unit := s.me.units, fault := 0,
    launch := s.me.unit.bind fun u => u.launch, inUnit := s.me.unit.isSome }

/-- That instruction with its captured operands, as a queue holds it. -/
def State.captured (s : State) (p : Place) (i : Instr) (a b c : Word) : QEntry :=
  { instr := i, seq := s.me.seq, ctx := s.ctx, a := a, b := b, c := c, fmode := s.me.fmode,
    journal := if p = .fabric then s.mine.journal else 0, unit := s.me.units, words := s.cx.words, sys := false }

/-- A pass that rises, or one that need not, changes nothing else of the core. -/
theorem State.passUp_me (s : State) (c : Prop) [Decidable c] :
    ∃ pass, (if c then s.passUp s.core else s).me = { s.me with pass := pass } ∧
      (if c then s.passUp s.core else s).core = s.core ∧ (if c then s.passUp s.core else s).ctx = s.ctx ∧
      (if c then s.passUp s.core else s).groves = s.groves := by
  split
  · unfold State.passUp
    dsimp only
    split
    · exact ⟨_, rfl, rfl, rfl, rfl⟩
    · exact ⟨_, State.me_modMe _ _, rfl, rfl, rfl⟩
  · exact ⟨_, rfl, rfl, rfl, rfl⟩

/-- The acting core once its context's stores have left the buffer and the instruction has its number. -/
theorem State.me_numbered_drainCtx (s : State) (i : Instr) :
    ∃ l1 out, ((s.drainCtx s.core s.ctx).numbered i).me =
      { s.me with l1 := l1, sbOut := out, sb := s.me.sb.drop (lastOwn s.me.sb s.ctx), seq := s.me.seq + 1,
                  dring := s.me.dring.set (s.me.seq.toNat % 64) (s.dispatchEntry i) } := by
  obtain ⟨acting, context, -, -, -, l1, out, hme⟩ := State.Drained.drainCtx s s.core s.ctx
  refine ⟨l1, out, (State.me_modMe _ _).trans ?_⟩
  rw [State.me, acting, hme, context]
  rfl

/-- What is captured after the stores have left and the number is taken is what the context had. -/
theorem State.captured_numbered_drainCtx (s : State) (p : Place) (i : Instr) (a b c : Word) :
    let v := (s.drainCtx s.core s.ctx).numbered i
    { instr := i, seq := s.me.seq, ctx := v.ctx, a := a, b := b, c := c, fmode := s.me.fmode,
      journal := if p = .fabric then v.mine.journal else 0, unit := s.me.units, words := v.cx.words, sys := false } =
    s.captured p i a b c := by
  intro v
  obtain ⟨acting, context, cut, -, parts, -⟩ := State.Drained.drainCtx s s.core s.ctx
  obtain ⟨l1, out, hme⟩ := s.me_numbered_drainCtx i
  have ctx : v.ctx = s.ctx := context
  have cx : v.cx = s.cx := by rw [show v.cx = v.me.getCtx v.ctx from rfl, hme, ctx]; rfl
  have mine : v.mine = s.mine := by
    unfold State.mine State.part State.partOf State.getPart
    rw [show v.cut = s.cut from cut, show v.core = s.core from acting, show v.parts = s.parts from parts]
  rw [ctx, cx, mine]
  rfl

/-- With its stores out of the buffer, its number taken and its entry in the queue of its place, the instruction is
dispatched. -/
theorem State.dispatched_of_queued {s w : State} {p : Place} {i : Instr} {a b c : Word} {l1 : List Nat} {out : Nat}
    {pass : BitVec 32} (acting : w.core = s.core) (context : w.ctx = s.ctx) (hme : w.me =
      { s.me with l1 := l1, sbOut := out, sb := s.me.sb.drop (lastOwn s.me.sb s.ctx), seq := s.me.seq + 1, pass := pass,
                  dring := s.me.dring.set (s.me.seq.toNat % 64) (s.dispatchEntry i) }) :
    Claims.dispatched s (w.modMe fun x =>
      match p with
      | .vector => { x with vq := x.vq ++ [s.captured p i a b c] }
      | .ring => { x with ru := x.ru ++ [s.captured p i a b c] }
      | .fabric => { x with fq := x.fq ++ [s.captured p i a b c] }) p i a b c := by
  have cx (f : Core → Core) : (w.modMe f).cx = (f w.me).getCtx w.ctx :=
    congrArg (Core.getCtx · w.ctx) (State.me_modMe w f)
  have entry : Sparse.get DEntry.reset (s.me.dring.set (s.me.seq.toNat % 64) (s.dispatchEntry i)) (s.me.seq.toNat % 64) =
    s.dispatchEntry i := Sparse.get_set_same _ _ _ _
  simp only [Claims.dispatched, cx, State.me_modMe, hme, context]
  refine ⟨?_, ?_, ?_, ?_, acting, context, ?_⟩
  · cases p <;> rfl
  · cases p <;> exact entry
  · cases p <;> rfl
  · cases p <;> exact ctx_ne_of_mem_drop_lastOwn
  · cases p <;> rfl

/-- A dispatch that nothing stalls, and that no flush takes, queues the instruction with its captured operands and goes
on. -/
theorem State.enqueue_now {s : State} {p : Place} {i : Instr} {a b c : Word} (takes : Claims.takes s p)
    (noFlush : s.me.flushing p = false) :
    ∃ t, (∀ k, s.enqueue p i a b c k = k t s.me.seq false) ∧ Claims.dispatched s t p i a b c ∧
      t.groves = s.groves := by
  obtain ⟨room, ready, drains⟩ := takes
  have goes : (!s.me.room p || s.me.dringBusy || !s.drainable s.core s.ctx) = false := by
    cases p <;> simpa [Core.room, Core.dringBusy, Claims.queue, drains, ready] using room
  have drained := State.Drained.drainCtx s s.core s.ctx
  obtain ⟨l1, out, hme⟩ := s.me_numbered_drainCtx i
  simp only [State.enqueue, goes, noFlush, Bool.false_eq_true, if_false, State.captured_numbered_drainCtx]
  obtain ⟨pass, hme', acting, context, groves⟩ :=
    ((s.drainCtx s.core s.ctx).numbered i).passUp_me (p = .vector ∧ s.me.vq.isEmpty)
  rw [hme] at hme'
  exact ⟨_, fun _ => rfl,
    State.dispatched_of_queued (acting.trans drained.acting) (context.trans drained.context) hme',
    groves.trans drained.groves⟩

/-! ### Dispatch once the operands are ready -/

/-- A change of a context changes nothing else of its core. -/
theorem State.getCore_modCtx (s : State) (c k j : Nat) (f : Ctx → Ctx) :
    ∃ ctxs, (s.modCtx c k f).getCore j = { s.getCore j with ctxs := ctxs } := by
  unfold State.modCtx
  rw [State.getCore_modCore]
  split
  · next same => subst same; exact ⟨_, rfl⟩
  · exact ⟨_, rfl⟩

@[simp] theorem State.port_modCtx (s : State) (c k j : Nat) (f : Ctx → Ctx) :
    ((s.modCtx c k f).getCore j).port = (s.getCore j).port := by
  obtain ⟨_, he⟩ := s.getCore_modCtx c k j f
  rw [he]

@[simp] theorem State.heldBack_modCtx (s : State) (c k core : Nat) (f : Ctx → Ctx) (g : Piece → Bool) :
    (s.modCtx c k f).heldBack core g = s.heldBack core g := by
  simp only [State.heldBack, State.inReplay, State.replayAdmits, State.port_modCtx]
  rfl

/-- A change of a context holds no buffered store back, and lets none go. -/
@[simp] theorem State.drainable_modCtx (s : State) (c k core ctx : Nat) (f : Ctx → Ctx) :
    (s.modCtx c k f).drainable core ctx = s.drainable core ctx := by
  obtain ⟨_, he⟩ := s.getCore_modCtx c k core f
  simp only [State.drainable, State.stuck, State.heldBack_modCtx, he]
  rfl

/-- A place takes an instruction that has begun as it did before. -/
theorem State.takes_started {s : State} {p : Place} (srcs : List SReg) (h : Claims.takes s p) :
    Claims.takes (s.started srcs) p := by
  obtain ⟨room, ready, drains⟩ := h
  unfold Claims.takes
  rw [State.me_started]
  refine ⟨?_, ready, (State.drainable_modCtx ..).trans drains⟩
  cases p <;> exact room

/-- A dispatch to a place that takes the instruction, during no flush, goes on in the state in which it is queued. -/
theorem State.dispatchWith_now {s : State} {p : Place} {i : Instr} {a b : SReg} {c : CReg}
    (allowed : s.barred p i = false)
    (begins : s.canBegin [a, b, c.setWidth 5] i.lateDests = true) (takes : Claims.takes s p)
    (noFlush : s.me.flushing p = false) :
    ∃ t, (∀ k, s.dispatchWith p i a b c k = .next (k t s.me.seq false)) ∧
      Claims.dispatched (s.started [a, b, c.setWidth 5]) t p i (s.rd a) (s.rd b) (s.rdC c) ∧ t.groves = s.groves := by
  have noFlush' : (s.started [a, b, c.setWidth 5]).me.flushing p = false := by
    rw [State.me_started]
    cases p <;> exact noFlush
  obtain ⟨t, queues, dispatched, groves⟩ := State.enqueue_now (i := i) (a := s.rd a) (b := s.rd b) (c := s.rdC c)
    (State.takes_started [a, b, c.setWidth 5] takes) noFlush'
  refine ⟨t, fun k => ?_, dispatched, groves⟩
  simp only [State.dispatchWith, allowed, Bool.false_eq_true, if_false, State.begin_started _ _ _ _ begins,
    State.rd_started, State.rdC_started, queues, State.me_started, Core.modCtx_frame]

/-- The dispatching core still acts. -/
theorem State.core_of_dispatched {s t : State} {p : Place} {i : Instr} {a b c : Word}
    (h : Claims.dispatched s t p i a b c) : t.core = s.core := by
  obtain ⟨-, -, -, -, acting, -⟩ := h
  exact acting

end Sys2Proof.Machine
end

section
/-! SUPPORT. The lease of a matrix array (R20, R276): what a grant, the end of a lease and a request do to a grove. -/

namespace Sys2Proof.Machine

/-! ### Grants (R20) -/

/-- Counting on from the last holder, `k` is met before `h`. -/
def Grove.before (g : Grove) (k h : Fin 4) : Prop := (k - g.last - 1).val < (h - g.last - 1).val

/-- The last holder comes last. -/
theorem Grove.before_last (g : Grove) {k : Fin 4} (h : k ≠ g.last) : g.before k g.last := by
  unfold Grove.before
  generalize g.last = l at h ⊢
  revert k l
  decide

/-- The search in round-robin order ends at the first core that it is for. -/
theorem find?_round_robin (last h : Fin 4) (p : Fin 4 → Bool) (hp : p h = true)
    (first : ∀ k : Fin 4, (k - last - 1).val < (h - last - 1).val → p k = false) :
    [last + 1, last + 2, last + 3, last].find? p = some h := by
  revert last h p
  decide

theorem Grove.grant_held {g : Grove} {h : Fin 4} (held : g.holder = some h) : g.grant = g := by
  simp [Grove.grant, held]

@[simp] theorem Grove.grant_requests (g : Grove) : g.grant.requests = g.requests := by
  unfold Grove.grant
  split
  · rfl
  · dsimp only; split <;> rfl

theorem Grove.grant_unrequested {g : Grove} (unasked : g.requests = 0) : g.grant = g := by
  cases held : g.holder with
  | some h => exact Grove.grant_held held
  | none => simp [Grove.grant, held, unasked]

/-- A free array goes to the first requesting core after its last holder. -/
theorem Grove.grant_first {g : Grove} {h : Fin 4} (free : g.holder = none) (asks : g.requests.getLsbD h.val = true)
    (first : ∀ k, g.before k h → g.requests.getLsbD k.val = false) :
    g.grant = { g with holder := some h, used := 0 } := by
  have found := find?_round_robin g.last h (fun i => g.requests.getLsbD i.val) asks first
  simp only [Grove.grant, free, found]

/-- Of the requesting cores one comes first. -/
theorem Grove.exists_first {g : Grove} {h : Fin 4} (asks : g.requests.getLsbD h.val = true) :
    ∃ k, g.requests.getLsbD k.val = true ∧ ∀ j, g.before j k → g.requests.getLsbD j.val = false := by
  obtain ⟨k, hk, least⟩ := Finset.exists_min_image {k : Fin 4 | g.requests.getLsbD k.val = true}
    (fun k => (k - g.last - 1).val) ⟨h, by simpa using asks⟩
  refine ⟨k, by simpa using hk, fun j hj => ?_⟩
  by_contra hne
  exact absurd (least j (by simpa using hne)) (Nat.not_le.2 hj)

/-! ### The end of a lease (R20, R276) -/

/-- The array after the lease of `h`. -/
def Grove.released (g : Grove) (h : Fin 4) : Grove := { g with holder := none, used := 0, last := h }

@[simp] theorem Grove.released_requests (g : Grove) (h : Fin 4) : (g.released h).requests = g.requests := rfl

/-- A core's request is placed. -/
def Grove.asking (g : Grove) (core : Nat) : Grove := { g with requests := g.requests ||| (1#4 <<< (core % 4)) }

theorem Grove.asking_asks (g : Grove) (core : Nat) : (g.asking core).requests.getLsbD (core % 4) = true := by
  simp [Grove.asking, Nat.mod_lt]

/-- The request of a core is withdrawn. -/
def Grove.withdrawn (g : Grove) (core : Nat) : Grove := { g with requests := g.requests &&& ~~~(1#4 <<< (core % 4)) }

theorem Grove.withdrawn_asks_no (g : Grove) (core : Nat) : (g.withdrawn core).requests.getLsbD (core % 4) = false := by
  simp [Grove.withdrawn]

/-- A core that is granted the array asked for it. -/
theorem Grove.requested_of_grant {g : Grove} {h : Fin 4} (free : g.holder = none) (granted : g.grant.holder = some h) :
    g.requests.getLsbD h.val = true := by
  simp only [Grove.grant, free] at granted
  split at granted
  · next found => cases granted; simpa using List.find?_some found
  · rw [free] at granted; cases granted

theorem Grove.passOn_free {g : Grove} (free : g.holder = none) : g.passOn = g := by simp [Grove.passOn, free]

theorem Grove.passOn_held {g : Grove} {h : Fin 4} (held : g.holder = some h) : g.passOn = (g.released h).grant := by
  simp [Grove.passOn, held, Grove.released]

@[simp] theorem Grove.passOn_requests (g : Grove) : g.passOn.requests = g.requests := by
  cases held : g.holder with
  | none => rw [Grove.passOn_free held]
  | some h => rw [Grove.passOn_held held, Grove.grant_requests, Grove.released_requests]

/-- A new lease has accepted no command yet. -/
theorem Grove.grant_used {g : Grove} (unused : g.used = 0) : g.grant.used = 0 := by
  unfold Grove.grant
  split
  · exact unused
  · dsimp only; split
    · rfl
    · exact unused

/-- What an expiry makes of the holder of a lease: the lease stays with a holder that asks alone, and goes to another
core where one asks. -/
theorem Grove.passOn_holder {g : Grove} {h : Fin 4} (held : g.holder = some h) :
    ((∀ k : Fin 4, k ≠ h → g.requests.getLsbD k.val = false) → g.requests.getLsbD h.val = true →
      g.passOn.holder = some h) ∧
    ((∃ k : Fin 4, k ≠ h ∧ g.requests.getLsbD k.val = true) → ∃ k, k ≠ h ∧ g.passOn.holder = some k) ∧
    (g.requests = 0 → g.passOn.holder = none) := by
  rw [Grove.passOn_held held]
  refine ⟨fun alone asks => ?_, fun ⟨k, other, asks⟩ => ?_, fun unasked => ?_⟩
  · have first (k : Fin 4) (earlier : (g.released h).before k h) : g.requests.getLsbD k.val = false :=
      alone k fun e => absurd (e ▸ earlier) (Nat.lt_irrefl _)
    rw [Grove.grant_first (g := g.released h) rfl asks first]
  · obtain ⟨j, hj, first⟩ := Grove.exists_first (g := g.released h) asks
    refine ⟨j, fun e => ?_, by rw [Grove.grant_first (g := g.released h) rfl hj first]⟩
    subst e
    exact Bool.false_ne_true ((first k (Grove.before_last (g.released j) other)).symm.trans asks)
  · exact congrArg Grove.holder (Grove.grant_unrequested (g := g.released h) unasked)

/-- A core that withdraws its request asks no more, and holds no lease. -/
theorem State.endLease_withdraws (s : State) (core : Nat) :
    let g := (s.endLease core).getGrove (groveOf core)
    g.requests.getLsbD (core % 4) = false ∧ g.holder ≠ some (inGrove core) := by
  have ends : (s.endLease core).getGrove (groveOf core) =
      let g := (s.getGrove (groveOf core)).withdrawn core
      if g.holder = some (inGrove core) then g.passOn else g := State.getGrove_modGrove_same _ _ _
  intro g
  rw [show g = _ from ends]
  have asks_no := (s.getGrove (groveOf core)).withdrawn_asks_no core
  dsimp only
  split
  · next held =>
    rw [Grove.passOn_requests]
    refine ⟨asks_no, fun again => ?_⟩
    rw [Grove.passOn_held held] at again
    have asks := Grove.requested_of_grant rfl again
    exact Bool.false_ne_true (asks_no.symm.trans asks)
  · next other => exact ⟨asks_no, other⟩

/-! ### The head of a vector queue -/

@[simp] theorem State.vq_complete (s : State) (core : Nat) (seq : BitVec 16) :
    ((s.complete core seq).getCore core).vq = (s.getCore core).vq := by
  unfold State.complete
  rw [show ∀ t : State, (t.releaseLines core seq).getCore core = t.getCore core from fun _ => rfl,
    State.getCore_modCore_same]
  unfold Core.modEntry
  dsimp only
  split <;> rfl

@[simp] theorem State.vq_popVq (s : State) (core : Nat) :
    ((s.popVq core).getCore core).vq = (s.getCore core).vq.drop 1 := by
  rw [State.popVq, State.getCore_modCore_same]

end Sys2Proof.Machine
end

section
/-! SUPPORT. The check of the issuing context (R35, R193), and hstart, hexit and hjoin once they begin (R312 to R314). -/

namespace Sys2Proof.Machine

/-! ### Who may issue what (R35, R193) -/

section
variable {s : State}

/-- A helper's vector, matrix or fabric instruction is not dispatched. -/
theorem State.dispatchWith_helper {p : Place} {i : Instr} {a b : SReg} {c : CReg}
    {k : State → BitVec 16 → Bool → State} (helper : s.ctx ≠ 0) (place : p ≠ .ring) :
    s.dispatchWith p i a b c k = .next s.illegal := by
  simp [State.dispatchWith, State.barred, helper, place]

theorem State.dispatch_helper {p : Place} {i : Instr} {a b : SReg} {c : CReg} (helper : s.ctx ≠ 0)
    (place : p ≠ .ring) : s.dispatch p i a b c = .next s.illegal := State.dispatchWith_helper helper place

theorem State.fabWaits_helper {i : Instr} (helper : s.ctx ≠ 0) : s.fabWaits i = .next s.illegal :=
  State.dispatchWith_helper helper nofun

theorem execAfcfgClaim_helper {d a : SReg} (helper : s.ctx ≠ 0) : execAfcfgClaim d a s = .next s.illegal := by
  simp [execAfcfgClaim, State.barred, helper]

/-- A helper's system instruction that is the control context's does not begin. -/
theorem State.system_helper {srcs dests : List SReg} {k : State → State} (helper : s.ctx ≠ 0) :
    s.system true srcs dests k = .next s.illegal := by
  simp [State.system, State.sysBarred, helper]

end

/-! ### hstart, hexit, hjoin (R312 to R314) -/

/-- A system instruction that its context may issue begins once its registers are ready. -/
theorem State.system_started {s : State} {control : Bool} {srcs dests : List SReg} {k : State → State}
    (allowed : s.sysBarred control dests = false) (begins : s.canBegin srcs dests = true) :
    s.system control srcs dests k = .next (k (s.started srcs)) := by
  rw [State.system, allowed, if_neg Bool.false_ne_true, State.begin_started s srcs dests k begins]

/-- An instruction begins without a change of a context's mode. -/
theorem State.mode_started (s : State) (srcs : List SReg) (k : Nat) :
    ((s.started srcs).me.getCtx k).mode = (s.getCtx s.core k).mode := by
  rw [State.me_started, Core.getCtx_modCtx]
  split
  · next acting => subst acting; rfl
  · rfl

theorem State.freeHelper_started (s : State) (srcs : List SReg) :
    (s.started srcs).me.freeHelper = s.me.freeHelper := by
  simp only [Core.freeHelper, State.mode_started]
  rfl

theorem State.helpersFree_started (s : State) (srcs : List SReg) (mask : BitVec 10) :
    (s.started srcs).me.helpersFree mask = s.me.helpersFree mask := by
  simp only [Core.helpersFree, State.mode_started]
  rfl

/-- No helper is FREE. -/
theorem Core.freeHelper_none {c : Core} (busy : ∀ h, 1 ≤ h → h ≤ 10 → (c.getCtx h).mode ≠ .free) :
    c.freeHelper = none := by
  simp only [Core.freeHelper, upTo, List.find?_eq_none, List.mem_map, List.mem_range]
  rintro _ ⟨i, hi, rfl⟩
  simpa using busy (i + 1) (by omega) (by omega)

/-- The lowest FREE helper is the one below which every helper is busy. -/
theorem Core.freeHelper_lowest {c : Core} {h : Nat} (low : 1 ≤ h) (high : h ≤ 10) (free : (c.getCtx h).mode = .free)
    (busy : ∀ j, 1 ≤ j → j < h → (c.getCtx j).mode ≠ .free) : c.freeHelper = some h := by
  obtain ⟨i, rfl⟩ := Nat.exists_eq_add_of_le' low
  have found : (List.range 10).find? (fun i => (c.getCtx (i + 1)).mode == .free) = some i :=
    List.find?_range_eq_some.2 ⟨by simpa using free, by simpa using high, fun j hj =>
      by simpa using busy (j + 1) (by omega) (by omega)⟩
  rw [Core.freeHelper, List.find?_map]
  exact congrArg (Option.map (· + 1)) found

/-- hjoin's helpers are those of its mask. -/
theorem Core.helpersFree_iff (c : Core) (mask : BitVec 10) :
    c.helpersFree mask = true ↔ ∀ i < 10, mask.getLsbD i = true → (c.getCtx (i + 1)).mode = .free := by
  simp [Core.helpersFree, upTo, imp_iff_not_or]

/-- hstart in the control context (R312). -/
theorem execHstart_started {d a : SReg} {imm : Word} {s : State} (control : s.ctx = 0) (unbound : s.isBound d = false)
    (begins : s.canBegin [a] [d] = true) :
    let u := s.started [a]
    ((∀ h, 1 ≤ h → h ≤ 10 → (s.getCtx s.core h).mode ≠ .free) → execHstart d a imm s = .next (u.result d 0)) ∧
    ∀ h, 1 ≤ h → h ≤ 10 → (s.getCtx s.core h).mode = .free →
      (∀ j, 1 ≤ j → j < h → (s.getCtx s.core j).mode ≠ .free) →
      execHstart d a imm s =
        .next ((u.modCtx s.core h fun x =>
          { (x.freed.sequential (s.cx.pc + imm * 2)).store 2 (s.rd a) with mode := .ready }).result d
            (BitVec.ofNat 64 h)) := by
  intro u
  have allowed : s.sysBarred true [d] = false := by simp [State.sysBarred, control, unbound]
  refine ⟨fun busy => ?_, fun h low high free busy => ?_⟩
  · have none : s.me.freeHelper = none := Core.freeHelper_none busy
    rw [execHstart, State.system_started allowed begins]
    simp only [u, State.freeHelper_started, none]
  · have lowest : s.me.freeHelper = some h := Core.freeHelper_lowest low high free busy
    rw [execHstart, State.system_started allowed begins]
    simp only [u, State.freeHelper_started, lowest, State.rd_started, State.cx_started, State.started_core]

/-- hjoin in the control context (R314). -/
theorem execHjoin_started {a : SReg} {imm : Word} {s : State} (control : s.ctx = 0) (begins : s.canBegin [a] [] = true) :
    let u := s.started [a]
    let mask : BitVec 10 := (s.rd a ||| imm).setWidth 10
    execHjoin a imm s = .next (if 1023 < imm.toNat then u.illegal
      else if s.me.helpersFree mask then u.retire else u.waitOn (.helpers mask) none) := by
  rw [execHjoin, State.system_started (by simp [State.sysBarred, control]) begins]
  simp only [State.rd_started, State.helpersFree_started]

/-- The takes of the acting context that wait in an arbiter of its partition are withdrawn. -/
def State.withdrawTakes (s : State) : State :=
  s.modPart s.part fun p =>
    { p with pools := p.pools.map fun x =>
        (x.1, { x.2 with arb := x.2.arb.map fun r =>
          if r.core = s.core ∧ r.ctx = s.ctx then { r with live := false } else r }) }

/-- hexit in any context (R313). -/
theorem execHexit_started (s : State) :
    let u := s.started []
    execHexit s = .next (if s.ctx = 0 ∨ s.cx.sl0 then u.illegal else u.withdrawTakes.modCx Ctx.freed) := by
  rw [execHexit, State.system_started (s := s) rfl rfl]
  simp only [State.cx_started]
  rfl

end Sys2Proof.Machine
end

section
/-! CERTIFICATE. Helper contexts (O48) and the lease of the matrix array (O53). -/

namespace Sys2Proof.Machine

/-- R35, R193: the check of the issuing context is each instruction's first. -/
theorem helperTrapsIllegal : Claims.HelperTrapsIllegal := by
  intro i s reserved helper
  cases i
  case hstart | hjoin | gcancel | garm | larm | lpatch | barInit | barWait | barVote | itake | irel | iwait | iwaitP
    | gdone => exact State.system_helper helper
  case mlease => exact State.dispatchWith_helper helper nofun
  case afcfgClaim => exact execAfcfgClaim_helper helper
  case afwait | afsamp => exact State.fabWaits_helper helper
  case vaddF32 | vsubF32 | vmulF32 | vfmaF32 | vminF32 | vmaxF32 | vdivF32 | vsqrtF32 | vaddF64 | vsubF64 | vmulF64
    | vfmaF64 | vminF64 | vmaxF64 | vdivF64 | vsqrtF64 | vaddI32 | vsubI32 | vmulI32 | vand | vor | vxor | vsllI32
    | vsrlI32 | vsraI32 | vminI32 | vmaxI32 | vminuI32 | vmaxuI32 | vaddsI32 | vsubsI32 | vmulhI32 | vaddI64 | vsubI64
    | vmulI64 | vsllI64 | vsrlI64 | vsraI64 | vminI64 | vmaxI64 | vceqF32 | vcltF32 | vcleF32 | vceqI32 | vcltI32
    | vcltuI32 | vceqF64 | vcltF64 | kand | kor | kxor | kandn | vsel | vbcast | vmovs | kpop | vldW | vldD | vstW | vstD
    | vldxW | vstxW | kld | kst | vredsumF32 | vredmaxF32 | vredminF32 | vredsumF64 | vredsumI32 | vredmaxI32 | vredsumI64
    | vredor | vperm | vslide | vfsl | vfsr | vlut3 | vrng | vcvtF32I32 | vcvtI32F32 | vcvtF64F32 | vcvtF32F64
    | vcvtF16F32 | vcvtF32F16 | vcvtBf16F32 | vcvtF32Bf16 | vscanF32 | vscanI32 | vsortxF32 | vexp2F32 | venc | vdec
    | mleaseRel | mloadW | mswap | mmac | mgrp | mst | mzero | mloadT | afcfgRel | afcfg | afscale | afrun | afwaitTry =>
    exact State.dispatch_helper helper nofun
  all_goals exact reserved.elim

/-- R312 to R314, an instruction at a time. -/
theorem helperInstructions : Claims.HelperInstructions := by
  refine ⟨fun d a imm s control unbound begins => execHstart_started control unbound begins,
    fun s => ⟨fun barred => ?_, fun helper noSlot => ?_⟩, fun a imm s control begins => ?_⟩
  · exact (execHexit_started s).trans (by rw [if_pos barred])
  · refine ⟨(s.started []).withdrawTakes.modCx Ctx.freed, ?_, ?_, rfl, rfl, fun c other => ?_⟩
    · exact (execHexit_started s).trans (by rw [if_neg (by simp [helper, noSlot])])
    · have regs : (s.started []).withdrawTakes.cx.regs = s.cx.regs := by
        rw [show (s.started []).withdrawTakes.cx = (s.started []).cx from rfl, State.cx_started]
      rw [State.cx_modCx, Ctx.freed, regs]
    · exact (State.getCore_modCtx_other _ _ _ _ _ other).trans (State.getCore_modCtx_other s _ _ _ _ other)
  · have answer := execHjoin_started (imm := imm) control begins
    refine ⟨fun wide => ?_, fun narrow free => ?_, fun narrow ⟨i, hi, named, busy⟩ => ?_⟩
    · exact answer.trans (by rw [if_pos wide])
    · exact answer.trans (by rw [if_neg (Nat.not_lt.2 narrow), if_pos ((s.me.helpersFree_iff _).2 free)])
    · exact answer.trans (by
        rw [if_neg (Nat.not_lt.2 narrow), if_neg fun free => busy ((s.me.helpersFree_iff _).1 free i hi named)])

/-- Settles O48: the check of the issuing context comes first, and each helper instruction is told once it begins. -/
theorem helpers : Obligations.Helpers := ⟨helperTrapsIllegal, helperInstructions⟩

/-- The events of R20 and R276. -/
theorem leaseEvents : Claims.LeaseEvents := by
  refine ⟨fun grove s => ?_, fun grove s => ?_, fun core q rest s queue release => ?_⟩
  · refine ⟨_, rfl, ?_⟩
    simp only [State.getGrove_modGrove_same]
    refine ⟨Grove.grant_requests _, fun _ => Grove.grant_held, fun _ => Grove.grant_unrequested,
      fun h free asks first => ?_⟩
    rw [Grove.grant_first free asks first]
    exact ⟨rfl, rfl⟩
  · refine ⟨_, rfl, ?_⟩
    simp only [State.getGrove_modGrove_same]
    refine ⟨Grove.passOn_free, fun h held => ⟨Grove.passOn_requests _, ?_, Grove.passOn_holder held⟩⟩
    rw [Grove.passOn_held held]
    exact Grove.grant_used rfl
  · let popped := if q.sys then s.popVq core else (s.popVq core).complete core q.seq
    refine ⟨popped.endLease core, ?_, ?_, State.endLease_withdraws popped core⟩
    · show Host.Outcome.next _ = _
      simp only [queue, State.leaseHead, release]
      rfl
    · show (popped.getCore core).vq = rest
      unfold popped
      split <;> simp [queue]

/-- mlease asks at dispatch, and waits when its core does not hold the lease. -/
theorem leaseRequest : Claims.LeaseRequest := by
  intro s control begins takes noFlush g
  obtain ⟨t, goes, dispatched, groves⟩ := State.dispatchWith_now (s := s) (i := .mlease) (a := 0) (b := 0) (c := 0)
    (by simp [State.barred, control, Instr.lateDests]) begins takes noFlush
  have acting : t.core = s.core := (State.core_of_dispatched dispatched).trans (s.started_core _)
  have same : t.getGrove (groveOf s.core) = g := by unfold g State.getGrove; rw [groves]
  let u := t.modGrove (groveOf s.core) fun g => g.asking s.core
  have asked : u.getGrove (groveOf s.core) = g.asking s.core := by rw [State.getGrove_modGrove_same, same]
  have answer : exec .mlease s =
      .next (if g.holder = some (inGrove s.core) then u.retire else u.waitOn .lease (some s.me.seq)) := by
    refine (goes _).trans ?_
    simp only [Bool.false_eq_true, if_false, State.modGrove_frame, acting, State.getGrove_modGrove_same, same]
    rfl
  refine ⟨u, dispatched, ?_, ?_, fun held => ?_, fun other => ?_⟩
  · rw [asked, Grove.asking_asks]
  · rw [asked, Grove.asking]
  · rw [answer, if_pos held]
  · rw [answer, if_neg other]

/-- Settles O53: the request joins the dispatch, and every event comes down to a grant in round-robin order. -/
theorem lease : Obligations.Lease := ⟨leaseRequest, leaseEvents⟩

end Sys2Proof.Machine
end

section
/-! CERTIFICATE. A step runs the instruction decoded at the PC (O28): the move that the step makes, the chain that an
issue forms, and what it does with the words at the PC (R36, R153 to R155, R347, R432). -/

namespace Sys2Proof.Machine

/-! ### The move of a step -/

/-- Cores and contexts that exist pass the first check of a move. -/
theorem pair_exists {core ctx : Nat} (hc : core < 512) (hk : ctx < 11) : ¬(Config.cores ≤ core ∨ 11 ≤ ctx) :=
  Move.ok_pair.1 ⟨hc, hk⟩

/-- The first move of the agenda is the issue of a context whose turn it is. -/
theorem step_of_issue {s : State} {core ctx : Nat} {rest : List Move} (hc : core < 512) (hk : ctx < 11)
    (first : s.agenda = .issue core ctx :: rest) (turn : s.nextCtx core = some ctx) :
    step s = (Claims.issuing s core ctx rest).issue := by
  rw [step_of_agenda_cons first]
  exact (if_neg (pair_exists hc hk)).trans (if_pos turn)

/-- With an empty agenda, no tick owed and no event due, the next READY context issues. -/
theorem step_of_nextReady {s : State} {core ctx : Nat} (empty : s.agenda = []) (tick : s.tickDue = false)
    (due : s.due = none) (ready : s.nextReady = some (core, ctx)) :
    step s = (Claims.issuing s core ctx []).issue := by
  unfold step State.nextMove State.issueOf Claims.issuing
  simp only [empty, tick, due, ready, Bool.false_eq_true, if_false]

/-- The first move of the agenda completes the instruction of a context that a wake has made READY. -/
theorem step_of_resume {s : State} {core ctx : Nat} {rest : List Move} (hc : core < 512) (hk : ctx < 11)
    (first : s.agenda = .resume core ctx :: rest) (may : s.mayIssue core ctx = true)
    (waking : (s.getCtx core ctx).waking = true) :
    step s = ({ s with agenda := rest }.on core ctx).issue := by
  rw [step_of_agenda_cons first]
  exact (if_neg (pair_exists hc hk)).trans (if_pos (Bool.and_eq_true_iff.2 ⟨may, waking⟩))

/-- The first move of the agenda is an event. -/
theorem step_of_act {s : State} {i : Instr} {rest : List Move} (first : s.agenda = .act i :: rest)
    (event : i.fields = none) :
    step s = if { s with agenda := rest }.stands i then .next { s with agenda := rest }
      else exec i { s with agenda := rest } := by
  rw [step_of_agenda_cons first]
  exact if_neg (by simp [event])

/-! ### The chain of an issue (R432) -/

/-- The chain that an issue forms. -/
theorem State.formChain_of_chained {u v : State} (h : Claims.chained u v) : u.formChain = .ok v := by
  unfold State.formChain
  rcases h with ⟨formed, rfl⟩ | ⟨fresh, npc, p, nnpc, q, first, second, rfl⟩
  · simp [formed]
  · simp [fresh, first, second]

/-- With its chain formed, an issue runs it. -/
theorem State.issue_of_chained {u v : State} (h : Claims.chained u v) : u.issue = v.runChain u.cx.fresh := by
  unfold State.issue
  rw [State.formChain_of_chained h]

/-- A word after a fresh chain's PC that cannot be fetched faults. -/
theorem State.issue_of_fetchNext_error {u : State} (fresh : u.cx.fresh = true) :
    (∀ f, u.fetchNext u.cx.pc = .error f → u.issue = .next (u.fetchFault true f)) ∧
    ∀ npc p f, u.fetchNext u.cx.pc = .ok (npc, p) → p.fetchNext npc = .error f →
      u.issue = .next (u.fetchFault true f) := by
  unfold State.issue State.formChain
  exact ⟨fun f first => by simp [fresh, first], fun npc p f first second => by simp [fresh, first, second]⟩

/-! ### The words at the PC (R35, R153 to R155) -/

/-- What an issue does with the instruction that its words decode to. -/
theorem State.runChain_decoded {v w : State} {fresh : Bool} {ws : List (BitVec 16)} {i : Instr}
    (runs : v.cx.nul0 = false) (words : v.fetchWords 5 v.cx.pc = .ok (ws, w)) (decoded : decodeWords ws = .ok i) :
    let w' := w.modCx fun x => { x with words := ws }
    (w.ctx ≠ 0 → i.helperMay = false → v.runChain fresh = .next w'.illegal) ∧
    (w.ctx = 0 ∨ i.helperMay = true →
      (w'.needsNext i = false → v.runChain fresh = exec i w') ∧
      (w'.needsNext i = true → ∀ x, w'.withNext = .ok x → v.runChain fresh = exec i x) ∧
      (w'.needsNext i = true → ∀ f, w'.withNext = .error f → v.runChain fresh = .next (w'.fetchFault fresh f))) := by
  intro w'
  unfold State.runChain
  simp only [runs, words, decoded, Bool.false_eq_true, if_false]
  refine ⟨fun helper may => if_pos ⟨helper, by simp [may]⟩, fun allowed => ?_⟩
  rw [if_neg fun ⟨helper, may⟩ => allowed.elim helper fun h => by simp [h] at may]
  exact ⟨fun need => by simp [w', need], fun need x next => by simp [w', need, next],
    fun need f next => by simp [w', need, next]⟩

/-- A halfword is read little-endian from where its translation leads. -/
theorem State.fetchWord_memory {va : Word} {pa : Nat} {s v : State} (found : s.access s.core .fetch va 2 = .ok ([(pa, 2)], v))
    (low : inWindow pa = false) (high : inWindow (pa + 1) = false) (code : v.granuleData va = .ok false) :
    s.fetchWord va = .ok (BitVec.ofNat 16 ((v.seen v.die pa).toNat + 256 * (v.seen v.die (pa + 1)).toNat),
      v.keepCode [(pa, 2)]) := by
  unfold State.fetchWord
  simp [found, code, State.fetchBytes, upTo, List.range_succ, low, high, natOf]

/-- Settles O28: which move the step makes, then what an issue makes of its chain and of the words at its PC. -/
theorem stepRunsDecoded : Obligations.StepRunsDecoded := by
  refine ⟨fun core ctx rest s hc hk => ⟨step_of_issue hc hk, step_of_nextReady, step_of_resume hc hk⟩,
    fun u fresh => State.issue_of_fetchNext_error fresh, fun u v chain => ?_, fun i rest s first event => ?_,
    fun va pa s v => State.fetchWord_memory⟩
  · rw [State.issue_of_chained chain]
    refine ⟨fun nul => by simp [State.runChain, nul], fun runs ws w words => ⟨fun e bad => ?_, fun i decoded => ?_⟩,
      fun runs f words => by simp [State.runChain, runs, words]⟩
    · simp [State.runChain, runs, words, bad]
    · exact State.runChain_decoded runs words decoded
  · rw [step_of_act first event]
    exact ⟨fun moves => by simp [moves], fun stands => by simp [stands]⟩

end Sys2Proof.Machine
end

section
/-! SUPPORT. Updates one after another as one update, and what a retiring instruction pops (R49, R50, R153). -/

namespace Sys2Proof

/-- The last of two writes to a key stands. -/
theorem Sparse.set_set {α : Type} (m : Sparse α) (k : Nat) (v w : α) :
    Sparse.set (Sparse.set m k v) k w = Sparse.set m k w := by
  induction m with
  | nil => simp [Sparse.set]
  | cons x m ih =>
    obtain ⟨k', v'⟩ := x
    simp only [Sparse.set]
    split
    · simp [Sparse.set]
    · split
      · simp [Sparse.set]
      · next below other => simp only [Sparse.set, if_neg below, if_neg other, ih]

namespace Machine

@[simp] theorem State.modCore_modCore (s : State) (c : Nat) (f g : Core → Core) :
    (s.modCore c f).modCore c g = s.modCore c fun x => g (f x) := by
  simp only [State.modCore, State.setCore, State.getCore, Sparse.get_set_same, Sparse.set_set]

@[simp] theorem Core.modCtx_modCtx (x : Core) (k : Nat) (f g : Ctx → Ctx) :
    (x.modCtx k f).modCtx k g = x.modCtx k fun y => g (f y) := by
  simp only [Core.modCtx, Core.getCtx, Sparse.get_set_same, Sparse.set_set]

@[simp] theorem State.modCtx_modCtx (s : State) (c k : Nat) (f g : Ctx → Ctx) :
    (s.modCtx c k f).modCtx c k g = s.modCtx c k fun y => g (f y) := by
  simp only [State.modCtx, State.modCore_modCore, Core.modCtx_modCtx]

@[simp] theorem State.modCx_modCx (s : State) (f g : Ctx → Ctx) :
    (s.modCx f).modCx g = s.modCx fun y => g (f y) := State.modCtx_modCtx _ _ _ _ _

/-! ### Contexts and endpoints are apart -/

@[simp] theorem State.getCtx_modEp (s : State) (c e c' k : Nat) (f : Endpoint → Endpoint) :
    (s.modEp c e f).getCtx c' k = s.getCtx c' k := by
  unfold State.getCtx State.modEp
  rw [State.getCore_modCore]
  split
  · next same => rw [same]; rfl
  · rfl

@[simp] theorem State.cx_modEp (s : State) (c e : Nat) (f : Endpoint → Endpoint) : (s.modEp c e f).cx = s.cx :=
  State.getCtx_modEp _ _ _ _ _ _

@[simp] theorem State.cx_send (s : State) (m : Out) : (s.send m).cx = s.cx := rfl

@[simp] theorem State.getEp_modCx (s : State) (c e : Nat) (f : Ctx → Ctx) : (s.modCx f).getEp c e = s.getEp c e :=
  State.getEp_modCtx _ _ _ _ _ _

theorem State.getEp_modEp_other (s : State) {c e c' e' : Nat} (f : Endpoint → Endpoint) (apart : (c', e') ≠ (c, e)) :
    (s.modEp c e f).getEp c' e' = s.getEp c' e' := by
  rw [State.getEp_modEp, if_neg fun ⟨core, ep⟩ => apart (Prod.ext core ep)]

/-- A message that is sent leaves every context as it is. -/
@[simp] theorem State.cx_sendMsg (s : State) (core ctx ep : Nat) (ws : List Word) :
    (s.sendMsg core ctx ep ws).cx = s.cx := by
  unfold State.sendMsg
  dsimp only
  split <;> simp

@[simp] theorem State.sendMsg_core (s : State) (core ctx ep : Nat) (ws : List Word) :
    (s.sendMsg core ctx ep ws).core = s.core := by
  unfold State.sendMsg
  dsimp only
  split <;> rfl

/-! ### What retiring pops (R50) -/

/-- With nothing to pop, an instruction retires by its context alone. -/
theorem State.retire_of_unpopped {s : State} (none : s.cx.popped = []) :
    s.retire = s.modCx fun x => x.advance.settled := by
  rw [State.retire, State.popAll, none]
  rfl

/-- A pop takes the first word of a stream that holds one. -/
theorem Endpoint.pop_flatten {e : Endpoint} (holds : e.peek.isSome = true) : e.pop.msgs.flatten = e.msgs.flatten.tail := by
  unfold Endpoint.peek at holds
  unfold Endpoint.pop
  rcases h : e.msgs with _ | ⟨_ | ⟨w, _ | ⟨w', ws⟩⟩, rest⟩ <;> simp_all

/-- Endpoints popped in turn, each once. -/
theorem State.getEp_foldl_popEp (s : State) (eps : List Nat) (once : eps.Nodup) (e : Nat) :
    (eps.foldl (fun s e => s.popEp s.core e) s).getEp s.core e =
      if e ∈ eps then (s.getEp s.core e).pop else s.getEp s.core e := by
  induction eps generalizing s with
  | nil => rfl
  | cons x eps ih =>
    obtain ⟨fresh, once⟩ := List.nodup_cons.1 once
    have popped : (s.popEp s.core x).getEp s.core e = if e = x then (s.getEp s.core e).pop else s.getEp s.core e := by
      rw [State.popEp, State.getEp_modEp]
      by_cases same : e = x <;> simp [same]
    refine (ih (s.popEp s.core x) once).trans ?_
    rw [show (s.popEp s.core x).core = s.core from rfl, popped]
    by_cases same : e = x
    · subst same; simp [fresh]
    · simp [same]

/-- Of each number of a list the first is left. -/
theorem nodup_eraseDups : ∀ l : List Nat, l.eraseDups.Nodup
  | [] => List.nodup_nil
  | a :: l => by
    rw [List.eraseDups_cons]
    exact List.nodup_cons.2 ⟨by simp, nodup_eraseDups (l.filter fun b => !b == a)⟩
  termination_by l => l.length
  decreasing_by exact Nat.lt_succ_of_le (List.length_filter_le _ _)

/-- The endpoints that an instruction pops are named once each. -/
theorem State.receives_nodup (s : State) (srcs : List SReg) : (s.receives srcs).Nodup := nodup_eraseDups _

/-- An endpoint that an instruction that begins is to pop holds a word. -/
theorem State.peek_of_mem_receives {s : State} {srcs dests : List SReg} {e : Nat} (begins : s.canBegin srcs dests = true)
    (named : e ∈ s.receives srcs) : (s.getEp s.core e).peek.isSome = true := by
  simp only [State.receives, List.mem_eraseDups, List.mem_map, List.mem_filter, Bool.and_eq_true] at named
  obtain ⟨r, ⟨source, bound, receive⟩, rfl⟩ := named
  simp only [State.canBegin, State.canStart, Bool.and_eq_true, Bool.not_eq_true', List.any_eq_false] at begins
  have fed := begins.1.2 r source
  simpa [State.starved, bound, receive, Option.isSome_iff_ne_none] using fed

@[simp] theorem State.isBound_started (s : State) (srcs : List SReg) (r : SReg) :
    (s.started srcs).isBound r = s.isBound r := by
  unfold State.isBound
  rw [State.cx_started]
  rfl

/-! ### Results (R147, R165) -/

/-- A result for a register that is not bound. -/
theorem State.wr_unbound {s : State} {d : SReg} (unbound : s.isBound d = false) (v : Word) :
    s.wr d v = s.modCx fun x => x.store d.toNat v := by
  unfold State.wr State.wrAt
  exact if_neg (by rw [show (s.getCtx s.core s.ctx).bound d.toNat = false from unbound]; exact Bool.false_ne_true)

/-- A result for a register that is bound. -/
theorem State.wr_bound {s : State} {d : SReg} (bound : s.isBound d = true) (v : Word) :
    s.wr d v = if (s.getEp s.core (s.cx.boundEp d.toNat)).send then s.sendMsg s.core s.ctx (s.cx.boundEp d.toNat) [v]
      else s := by
  unfold State.wr State.wrAt
  exact if_pos bound

@[simp] theorem Ctx.store_popped (x : Ctx) (i : Nat) (v : Word) : (x.store i v).popped = x.popped := by
  unfold Ctx.store
  split <;> rfl

end Machine
end Sys2Proof
end

section
/-! CERTIFICATE. Where a result goes, and what retiring pops (O35). -/

namespace Sys2Proof.Machine

/-- R147, R165: a result for a register that is not bound. -/
theorem resultToRegister : Claims.ResultToRegister := by
  intro s d v unbound none
  rw [State.result, State.wr_unbound unbound, State.retire_of_unpopped (by simp [none]), State.modCx_modCx]
  congr 1
  funext x
  by_cases zero : d = 0
  · subst zero; rfl
  · have index : d.toNat ≠ 0 := fun h => zero (BitVec.eq_of_toNat_eq h)
    rw [Ctx.store, if_neg index, if_neg zero]
    rfl

/-- R49, R50: a result for a bound register. -/
theorem resultToBoundRegister : Claims.ResultToBoundRegister := by
  intro s d v bound none e
  refine ⟨fun receive => ?_, ?_⟩
  · rw [State.result, State.wr_bound bound, receive, if_neg Bool.false_ne_true, State.retire_of_unpopped none]
    rfl
  · intro c' e' send peer apart t
    have sent : t = ((s.modEp s.core e fun x => { x with grants := x.grants - 1, seqno := x.seqno + 1 }).modEp c' e'
        fun r => { r with grants := r.grants - 1, msgs := r.msgs ++ [[v]] }).modCx Claims.steppedCtx := by
      have w : s.wr d v = s.sendMsg s.core s.ctx e [v] := by rw [State.wr_bound bound, send, if_pos rfl]
      rw [show t = s.result d v from rfl, State.result, State.retire_of_unpopped (by simp [w, none]), w, State.sendMsg, peer]
      rfl
    refine ⟨by simp [sent], ?_, ?_⟩
    · rw [sent, State.getEp_modCx, State.getEp_modEp_other _ _ apart.symm, State.getEp_modEp_same]
    · rw [sent, State.getEp_modCx, State.getEp_modEp_same, State.getEp_modEp_other _ _ apart]

/-- R50: what retiring pops, when the result goes to a register that is not bound. -/
theorem retirePopsOnce : Claims.RetirePopsOnce := by
  intro s srcs dests d v begins unbound t e
  let w := (s.started srcs).modCx fun x => x.store d.toNat v
  have written : (s.started srcs).wr d v = w := State.wr_unbound ((s.isBound_started srcs d).trans unbound) v
  have popped : w.cx.popped = s.receives srcs := by simp [w]
  have streams : t.getEp s.core e = if e ∈ s.receives srcs then (s.getEp s.core e).pop else s.getEp s.core e := by
    rw [show t = w.retire from congrArg State.retire written, State.retire, State.getEp_modCx, State.popAll, popped]
    refine (State.getEp_foldl_popEp w _ (s.receives_nodup srcs) e).trans ?_
    simp [w]
  exact ⟨fun named => by rw [streams, if_pos named, Endpoint.pop_flatten (State.peek_of_mem_receives begins named)],
    fun unnamed => by rw [streams, if_neg unnamed]⟩

/-- Settles O35: a result goes to the register or to its channel, and retiring pops each endpoint once. -/
theorem resultWrite : Obligations.ResultWrite := ⟨resultToRegister, resultToBoundRegister, retirePopsOnce⟩

end Sys2Proof.Machine
end

section
/-! CERTIFICATE. The inbox instructions (O6): each begins in the control context, and reads the inbox as it then stands
(R43, R320, R436). -/

namespace Sys2Proof.Machine

/-- A control instruction with an unbound destination begins once its registers are ready. -/
theorem State.system_control {s : State} {d : SReg} {srcs : List SReg} {k : State → State} (control : s.ctx = 0)
    (unbound : s.isBound d = false) (begins : s.canBegin srcs [d] = true) :
    s.system true srcs [d] k = .next (k (s.started srcs)) :=
  State.system_started (by simp [State.sysBarred, control, unbound]) begins

@[simp] theorem State.port_started (s : State) (srcs : List SReg) : (s.started srcs).me.port = s.me.port := by
  rw [State.me_started]
  rfl

@[simp] theorem State.getPool_started (s : State) (srcs : List SReg) (p n : Nat) :
    (s.started srcs).getPool p n = s.getPool p n := rfl

@[simp] theorem State.poolsPer_started (s : State) (srcs : List SReg) : (s.started srcs).poolsPer = s.poolsPer := rfl

section
variable {d : SReg} {s : State}

/-- With a record published, itake and iwait read HEAD, and irel releases its slot. -/
theorem inbox_of_record (control : s.ctx = 0) (unbound : s.isBound d = false) (begins : s.canBegin [] [d] = true)
    (record : s.me.port.head.toNat < s.me.port.tail.toNat) :
    let u := s.started []
    let slot := s.me.port.head.toNat % 64
    let dead := (Memory.get s.me.port.inbox (64 * slot + 0x10)).getLsbD 7
    execItake d s = .next (u.result d s.me.port.head) ∧ execIwait d s = .next (u.result d s.me.port.head) ∧
    execIrel d s = .next (((if dead then u else u.startUnit slot).modMe fun c =>
      { c with port := { c.port with head := c.port.head + 1, marks := c.port.marks &&& ~~~(1#64 <<< slot) } }).result d
        (if dead then 1 else 0)) := by
  have published : s.me.port.hasRecord = true := decide_eq_true record
  unfold execItake execIwait execIrel
  simp only [State.system_control control unbound begins, State.port_started, published, if_true, Bool.not_true,
    Bool.false_eq_true, if_false, and_self]

/-- With no record published, itake reads all ones, iwait waits and irel faults. -/
theorem inbox_of_empty (control : s.ctx = 0) (unbound : s.isBound d = false) (begins : s.canBegin [] [d] = true)
    (empty : s.me.port.tail.toNat ≤ s.me.port.head.toNat) :
    let u := s.started []
    execItake d s = .next (u.result d (BitVec.allOnes 64)) ∧ execIwait d s = .next (u.waitOn .inbox none) ∧
    execIrel d s = .next (u.fault 0x0015) := by
  have published : s.me.port.hasRecord = false := decide_eq_false (Nat.not_lt.2 empty)
  unfold execItake execIwait execIrel
  simp only [State.system_control control unbound begins, State.port_started, published, Bool.not_false,
    Bool.false_eq_true, if_true, if_false, ones64, and_self]

/-- What iwait.p does once it begins. -/
theorem execIwaitP_started {a : SReg} (control : s.ctx = 0) (unbound : s.isBound d = false)
    (begins : s.canBegin [a] [d] = true) :
    let u := s.started [a]
    let n := bits (s.rd a).toNat 5 0
    execIwaitP d a s = .next (if s.poolsPer ≤ n then u.illegal else if s.me.port.hasRecord then u.result d 0
      else if !(s.getPool s.part n).present.isEmpty ∨ s.cx.woken then u.result d 1 else u.waitOn (.inboxPool n) none) := by
  unfold execIwaitP
  simp only [State.system_control control unbound begins, State.rd_started, State.port_started, State.getPool_started,
    State.poolsPer_started, State.started_part, State.cx_started]

end

/-- Settles O6: by whether a record is published, and for iwait.p by whether its pool exists and holds an element. -/
theorem inboxInstructions : Obligations.InboxInstructions := by
  intro d s control unbound p
  refine ⟨fun begins => ⟨inbox_of_record control unbound begins, inbox_of_empty control unbound begins⟩,
    fun a begins => ?_⟩
  intro u n
  have answer := execIwaitP_started control unbound begins
  have record_iff : p.hasRecord = true ↔ p.head.toNat < p.tail.toNat := decide_eq_true_iff
  refine ⟨fun wide => ?_, fun narrow record => ?_, fun narrow empty element => ?_, fun narrow empty absent still => ?_⟩
  · exact answer.trans (by rw [if_pos wide])
  · exact answer.trans (by rw [if_neg (Nat.not_le.2 narrow), if_pos (record_iff.2 record)])
  · exact answer.trans (by
      rw [if_neg (Nat.not_le.2 narrow), if_neg fun record => Nat.not_lt.2 empty (record_iff.1 record),
        if_pos (by simpa using element)])
  · exact answer.trans (by
      rw [if_neg (Nat.not_le.2 narrow), if_neg fun record => Nat.not_lt.2 empty (record_iff.1 record),
        if_neg (by simp [n, absent, still])])

end Sys2Proof.Machine
end

section
/-! SUPPORT. What a barrier's release combines, and what it does to its participants (R44, R46, R327). -/

namespace Sys2Proof.Machine

theorem State.modCx_congr {s : State} {f g : Ctx → Ctx} (same : f s.cx = g s.cx) : s.modCx f = s.modCx g := by
  show s.setCore s.core { s.me with ctxs := s.me.ctxs.set s.ctx (f s.cx) } =
    s.setCore s.core { s.me with ctxs := s.me.ctxs.set s.ctx (g s.cx) }
  rw [same]

/-! ### What retiring leaves alone -/

/-- Pops change no die. -/
theorem State.dies_foldl_popEp (s : State) (eps : List Nat) : (eps.foldl (fun s e => s.popEp s.core e) s).dies = s.dies :=
  List.foldlRecOn (motive := fun t : State => t.dies = s.dies) eps _ rfl fun _ h _ _ => h

@[simp] theorem State.dies_retire (s : State) : s.retire.dies = s.dies := State.dies_foldl_popEp s _

/-- Pops change no context, and leave the acting context the acting one. -/
theorem State.getCtx_foldl_popEp (s : State) (eps : List Nat) :
    let t := eps.foldl (fun s e => s.popEp s.core e) s
    t.core = s.core ∧ t.ctx = s.ctx ∧ ∀ c k, t.getCtx c k = s.getCtx c k :=
  List.foldlRecOn (motive := fun t : State => t.core = s.core ∧ t.ctx = s.ctx ∧ ∀ c k, t.getCtx c k = s.getCtx c k) eps _
    ⟨rfl, rfl, fun _ _ => rfl⟩ fun _ ⟨hc, hk, same⟩ _ _ =>
      ⟨hc, hk, fun c k => (State.getCtx_modEp _ _ _ _ _ _).trans (same c k)⟩

/-- Retiring changes no context but the acting one. -/
theorem State.getCtx_retire_other (s : State) {c k : Nat} (other : ¬(c = s.core ∧ k = s.ctx)) :
    s.retire.getCtx c k = s.getCtx c k := by
  obtain ⟨core, ctx, same⟩ := State.getCtx_foldl_popEp s s.cx.popped
  unfold State.retire State.modCx State.popAll
  rw [State.getCtx_modCtx, core, ctx, if_neg other, same]

@[simp] theorem State.getBar_retire (s : State) (n : Nat) : s.retire.getBar n = s.getBar n := by
  unfold State.getBar State.getDie
  rw [State.dies_retire]

/-! ### The result of a release (R44, R46) -/

/-- What one arrival adds to a result. -/
def BarResult.with (op : VoteOp) (r : BarResult) (a : Arrival) : BarResult :=
  { r with flags := r.flags ||| a.flags, vote := voteCombine op r.vote a.vote }

theorem Barrier.result_eq (b : Barrier) (n : Nat) :
    b.result n = b.arrivals.foldl (BarResult.with b.op) { bar := n, flags := 0, vote := voteIdentity b.op } := rfl

theorem BarResult.foldl_bar (op : VoteOp) (l : List Arrival) (r : BarResult) : (l.foldl (BarResult.with op) r).bar = r.bar :=
  List.foldlRecOn (motive := fun x : BarResult => x.bar = r.bar) l _ rfl fun _ h _ _ => h

theorem BarResult.foldl_flags (op : VoteOp) (l : List Arrival) (r : BarResult) (i : Nat) :
    (l.foldl (BarResult.with op) r).flags.getLsbD i = (r.flags.getLsbD i || l.any fun a => a.flags.getLsbD i) := by
  induction l generalizing r with
  | nil => simp
  | cons a l ih => simp [ih, BarResult.with, Bool.or_assoc]

theorem BarResult.foldl_or (l : List Arrival) (r : BarResult) (i : Nat) :
    (l.foldl (BarResult.with .or) r).vote.getLsbD i = (r.vote.getLsbD i || l.any fun a => a.vote.getLsbD i) := by
  induction l generalizing r with
  | nil => simp
  | cons a l ih => simp [ih, BarResult.with, voteCombine, Bool.or_assoc]

theorem BarResult.foldl_and (l : List Arrival) (r : BarResult) (i : Nat) :
    (l.foldl (BarResult.with .and) r).vote.getLsbD i = (r.vote.getLsbD i && l.all fun a => a.vote.getLsbD i) := by
  induction l generalizing r with
  | nil => simp
  | cons a l ih => simp [ih, BarResult.with, voteCombine, Bool.and_assoc]

/-- The greatest vote is at least each vote and the start, and is one of them. -/
theorem BarResult.foldl_max (l : List Arrival) (r : BarResult) :
    let x := (l.foldl (BarResult.with .max) r).vote
    r.vote.toNat ≤ x.toNat ∧ (∀ a ∈ l, a.vote.toNat ≤ x.toNat) ∧ (x = r.vote ∨ ∃ a ∈ l, x = a.vote) := by
  induction l generalizing r with
  | nil => exact ⟨Nat.le_refl _, nofun, .inl rfl⟩
  | cons a l ih =>
    obtain ⟨start, each, one⟩ := ih (r.with .max a)
    intro x
    have combined : (r.with .max a).vote = if r.vote.toNat < a.vote.toNat then a.vote else r.vote := rfl
    have above : r.vote.toNat ≤ x.toNat ∧ a.vote.toNat ≤ x.toNat := by
      rw [combined] at start
      change _ ≤ x.toNat at start
      split at start
      · exact ⟨by omega, start⟩
      · exact ⟨start, by omega⟩
    refine ⟨above.1, List.forall_mem_cons.2 ⟨above.2, each⟩, ?_⟩
    rcases one with h | ⟨y, hy, h⟩
    · rw [combined] at h
      split at h
      · exact .inr ⟨a, List.mem_cons_self, h⟩
      · exact .inl h
    · exact .inr ⟨y, List.mem_cons_of_mem _ hy, h⟩

/-- R44: each result of a release by its operation. -/
theorem Barrier.result_combines (b : Barrier) (n : Nat) :
    (∀ i, (b.result n).flags.getLsbD i = b.arrivals.any fun a => a.flags.getLsbD i) ∧
    (b.op = .or → ∀ i, (b.result n).vote.getLsbD i = b.arrivals.any fun a => a.vote.getLsbD i) ∧
    (b.op = .and → ∀ i < 32, (b.result n).vote.getLsbD i = b.arrivals.all fun a => a.vote.getLsbD i) ∧
    (b.op = .max → (∀ a ∈ b.arrivals, a.vote.toNat ≤ (b.result n).vote.toNat) ∧
      (b.arrivals ≠ [] → ∃ a ∈ b.arrivals, (b.result n).vote = a.vote)) := by
  rw [Barrier.result_eq]
  refine ⟨fun i => ?_, fun op i => ?_, fun op i hi => ?_, fun op => ?_⟩
  · simp [BarResult.foldl_flags]
  · rw [op, BarResult.foldl_or]
    simp [voteIdentity]
  · rw [op, BarResult.foldl_and, show (voteIdentity .and).getLsbD i = true from ?_, Bool.true_and]
    rw [show voteIdentity .and = BitVec.allOnes 32 from rfl, BitVec.getLsbD_allOnes, decide_eq_true hi]
  · rw [op]
    obtain ⟨-, each, one⟩ := BarResult.foldl_max b.arrivals { bar := n, flags := 0, vote := voteIdentity .max }
    refine ⟨each, fun some => one.elim (fun zero => ?_) id⟩
    obtain ⟨a, ha⟩ := List.exists_mem_of_ne_nil _ some
    refine ⟨a, ha, zero.trans (BitVec.eq_of_toNat_eq ?_)⟩
    have low := each a ha
    rw [zero] at low
    exact (Nat.le_zero.1 low).symm

/-! ### The participants (R46, R327) -/

/-- The context waits for the barrier's release. -/
def Ctx.awaits (x : Ctx) (n : Nat) : Bool := x.wait.any fun w => w.obj == .barrier n

/-- `y` is the context `x` once it has a release's result: taken when it waited for the barrier, else pending. -/
structure Ctx.Received (r : BarResult) (x y : Ctx) : Prop where
  taken : x.awaits r.bar = true → y.barDone = some r ∧ y.wait = none ∧ (x.mode = .waiting → y.mode = .ready)
  pending : x.awaits r.bar = false → y.barResult = some r ∧ y.wait = x.wait

theorem Ctx.received_released (x : Ctx) (r : BarResult) : Ctx.Received r x (x.released r) := by
  refine ⟨fun h => ?_, fun h => ?_⟩
  · rw [Ctx.released, if_pos (show x.wait.any _ = true from h)]
    exact ⟨rfl, rfl, fun mode => by rw [mode]; rfl⟩
  · rw [Ctx.released, if_neg (by simpa [Ctx.awaits] using h)]
    exact ⟨rfl, rfl⟩

/-- A second release with the same result changes neither. -/
theorem Ctx.Received.again {r : BarResult} {x y : Ctx} (h : Ctx.Received r x y) : Ctx.Received r x (y.released r) := by
  refine ⟨fun waits => ?_, fun none => ?_⟩
  · obtain ⟨done, wait, mode⟩ := h.taken waits
    rw [Ctx.released, wait]
    exact ⟨done, rfl, mode⟩
  · obtain ⟨result, wait⟩ := h.pending none
    rw [Ctx.released, if_neg (by rw [wait]; simpa [Ctx.awaits] using none)]
    exact ⟨rfl, wait⟩

/-- A release over a list of arrivals reaches the contexts that it names, and no other. -/
theorem State.getCtx_foldl_released (s : State) (r : BarResult) (l : List Arrival) (c k : Nat) :
    let y := (l.foldl (fun s x => s.modCtx x.core x.ctx fun c => c.released r) s).getCtx c k
    ((∃ x ∈ l, x.core = c ∧ x.ctx = k) → Ctx.Received r (s.getCtx c k) y) ∧
    ((∀ x ∈ l, ¬(x.core = c ∧ x.ctx = k)) → y = s.getCtx c k) := by
  induction l using List.reverseRecOn with
  | nil => exact ⟨fun ⟨_, h, _⟩ => absurd h List.not_mem_nil, fun _ => rfl⟩
  | append_singleton l x ih =>
    obtain ⟨reached, kept⟩ := ih
    rw [List.foldl_append, List.foldl_cons, List.foldl_nil, State.getCtx_modCtx]
    by_cases last : c = x.core ∧ k = x.ctx
    · obtain ⟨rfl, rfl⟩ := last
      rw [if_pos ⟨rfl, rfl⟩]
      refine ⟨fun _ => ?_, fun none => absurd ⟨rfl, rfl⟩ (none x (by simp))⟩
      by_cases earlier : ∃ y ∈ l, y.core = x.core ∧ y.ctx = x.ctx
      · exact (reached earlier).again
      · rw [kept fun y hy h => earlier ⟨y, hy, h⟩]
        exact Ctx.received_released _ r
    · rw [if_neg last]
      refine ⟨fun ⟨y, hy, at_⟩ => reached ⟨y, ?_, at_⟩, fun none => kept fun y hy => none y (by simp [hy])⟩
      rcases List.mem_append.1 hy with old | new
      · exact old
      · rw [List.mem_singleton.1 new] at at_
        exact absurd ⟨at_.1.symm, at_.2.symm⟩ last

theorem State.dies_foldl_released (s : State) (r : BarResult) (l : List Arrival) :
    let t := l.foldl (fun s x => s.modCtx x.core x.ctx fun c => c.released r) s
    t.dies = s.dies ∧ t.core = s.core ∧ t.ctx = s.ctx :=
  List.foldlRecOn (motive := fun t : State => t.dies = s.dies ∧ t.core = s.core ∧ t.ctx = s.ctx) l _
    ⟨rfl, rfl, rfl⟩ fun _ h _ _ => h

theorem State.barWrite_frame (s : State) (r : BarResult) (d : SReg) (a : Option SReg) :
    (s.barWrite r d a).dies = s.dies ∧ (s.barWrite r d a).core = s.core ∧ (s.barWrite r d a).ctx = s.ctx := by
  cases a <;> exact ⟨rfl, rfl, rfl⟩

/-- The result's registers are the acting context's. -/
theorem State.getCtx_barWrite_other (s : State) (r : BarResult) (d : SReg) (a : Option SReg) {c k : Nat}
    (other : ¬(c = s.core ∧ k = s.ctx)) : (s.barWrite r d a).getCtx c k = s.getCtx c k := by
  cases a with
  | none => exact (State.getCtx_modCtx ..).trans (if_neg other)
  | some a =>
    exact ((State.getCtx_modCtx ..).trans (if_neg other)).trans ((State.getCtx_modCtx ..).trans (if_neg other))

end Sys2Proof.Machine
end

section
/-! CERTIFICATE. Barriers (O49): initialization, arrival and release (R44 to R46, R325 to R327). -/

namespace Sys2Proof.Machine

/-- The module-wide number of a barrier that the partition has. -/
theorem State.barNo_of_lt {s : State} {bar : BitVec 7} (inside : bar.toNat < 32 * s.k) :
    s.barNo bar = some (32 * lowDie s.cut s.part + bar.toNat) := if_neg (Nat.not_le.2 inside)

/-- R325: the checks of bar.init in their order. -/
theorem barrierInit : Claims.BarrierInit := by
  intro bar a op s control begins u n count
  have answer : exec (.barInit bar a op) s = .next
      (match s.barNo bar with
      | none => u.illegal
      | some n =>
        if count = 0 ∨ 512 < count then u.illegal
        else if !(s.getBar n).arrivals.isEmpty then u.fault 0x000B
        else (u.modBar n fun _ => { count := count, op := op, gen := 0, arrivals := [] }).retire) := by
    show execBarInit bar a op s = _
    rw [execBarInit, State.system_started (by simp [State.sysBarred, control]) begins]
    simp only [State.rd_started]
    rfl
  rw [answer]
  refine ⟨fun bad => ?_, fun inside low high pending => ?_, fun inside low high empty => ?_⟩
  · by_cases inside : bar.toNat < 32 * s.k
    · simp only [State.barNo_of_lt inside, if_pos (bad.resolve_left (Nat.not_le.2 inside))]
    · simp only [State.barNo, if_pos (Nat.not_lt.1 inside)]
  · have legal : ¬(count = 0 ∨ 512 < count) := by omega
    simp only [State.barNo_of_lt inside, if_neg legal]
    rw [if_pos (by simpa using pending)]
  · have legal : ¬(count = 0 ∨ 512 < count) := by omega
    simp only [State.barNo_of_lt inside, if_neg legal]
    exact congrArg Host.Outcome.next (if_neg (by rw [show (s.getBar _).arrivals = [] from empty]; exact nofun))

/-- R46: a release combines what arrived, and reaches every participant but the one that completes it. -/
theorem barrierRelease : Claims.BarrierRelease := by
  refine ⟨Barrier.result_combines, fun s n d a => ?_⟩
  intro b t
  let rest := b.arrivals.filter fun x => !(x.core == s.core && x.ctx == s.ctx)
  let emptied := s.modBar n fun b => { b with gen := b.gen + 1, arrivals := [] }
  let told := rest.foldl (fun s x => s.modCtx x.core x.ctx fun c => c.released (b.result n)) emptied
  let woken : State := { told with
    agenda := rest.map (fun (x : Arrival) => Move.resume x.core x.ctx) ++ told.agenda }
  have ends : t = (woken.barWrite (b.result n) d a).retire := rfl
  obtain ⟨dies, core, ctx⟩ := State.dies_foldl_released emptied (b.result n) rest
  obtain ⟨dies', core', ctx'⟩ := woken.barWrite_frame (b.result n) d a
  refine ⟨?_, ?_⟩
  · rw [ends, State.getBar_retire, State.getBar, State.getDie, dies', show woken.dies = emptied.dies from dies]
    exact State.getBar_modBar_same s n _
  · intro x hx other waits
    have elsewhere : ¬(x.core = woken.core ∧ x.ctx = woken.ctx) := by
      rw [show woken.core = s.core from core, show woken.ctx = s.ctx from ctx]
      exact other
    have same : t.getCtx x.core x.ctx = told.getCtx x.core x.ctx := by
      rw [ends, State.getCtx_retire_other _ (by rw [core', ctx']; exact elsewhere),
        State.getCtx_barWrite_other _ _ _ _ elsewhere]
      rfl
    have received : Ctx.Received (b.result n) (s.getCtx x.core x.ctx) (t.getCtx x.core x.ctx) := by
      rw [same]
      refine (State.getCtx_foldl_released emptied (b.result n) rest x.core x.ctx).1 ⟨x, ?_, rfl, rfl⟩
      exact List.mem_filter.2 ⟨hx, by simpa using not_and_or.1 other⟩
    have number : (b.result n).bar = n := BarResult.foldl_bar _ _ _
    obtain ⟨taken, pending⟩ := received
    rw [number] at taken pending
    exact ⟨taken, fun none => (pending none).1⟩

/-- R45, R326, R327: an arrival of the control context at a barrier that its partition has, once it begins. -/
theorem State.barArrive_cases {u : State} {bar : BitVec 7} {n : Nat} (d : SReg) (out : Option SReg) (word : Option Word)
    (number : u.barNo bar = some n) :
    (∀ r, u.cx.barDone = some r →
      u.barArrive bar d out word = ((u.modCx fun x => { x with barDone := none }).barWrite r d out).retire) ∧
    (∀ r, u.cx.barDone = none → u.cx.barResult = some r → r.bar = n →
      u.barArrive bar d out word = ((u.modCx fun x => { x with barResult := none }).barWrite r d out).retire) ∧
    (u.cx.barDone = none → u.cx.barResult = none → (u.getBar n).count = 0 →
      u.barArrive bar d out word = (u.modCx fun x => { x with barResult := none }).fault 0x0016) := by
  unfold State.barArrive
  simp only [number]
  refine ⟨fun r taken => ?_, fun r first pending named => ?_, fun first second unset => ?_⟩
  · simp only [taken]
  · have held : (u.cx.barResult.filter fun r => r.bar == n || r.bar == 128) = some r := by simp [pending, named]
    simp only [first, held]
  · simp only [first, second, Option.filter_none, unset, if_true]
    rw [State.modCx_congr (g := fun x => { x with barResult := none }) (by simp [second])]

/-- The arrival is recorded, and completes the count or waits. -/
theorem State.barArrive_records {u w t : State} {bar : BitVec 7} {n : Nat} (d : SReg) (out : Option SReg)
    (word : Option Word) (number : u.barNo bar = some n) (first : u.cx.barDone = none)
    (foreign : ∀ r, u.cx.barResult = some r → r.bar ≠ n ∧ r.bar ≠ 128) (set : (u.getBar n).count ≠ 0)
    (fresh : ∀ x ∈ (u.getBar n).arrivals, ¬(x.core = u.core ∧ x.ctx = u.ctx))
    (dropped : w = u.modCx fun x => { x with barResult := if x.waking then x.barResult else none })
    (final : w.flagsFinal = true) (fenced : w.fencedNow true true .v = some t) :
    let vote : BitVec 32 := word.elim (voteIdentity (u.getBar n).op) fun w => w.setWidth 32
    let t' := t.modBar n fun x =>
      { x with arrivals := x.arrivals ++ [{ core := t.core, ctx := t.ctx, flags := t.me.fstat, vote := vote }] }
    u.barArrive bar d out word =
      if (t'.getBar n).arrivals.length = (u.getBar n).count then t'.release n d out else t'.waitOn (.barrier n) none := by
  have other : (u.cx.barResult.filter fun r => r.bar == n || r.bar == 128) = none := by
    cases h : u.cx.barResult with
    | none => rfl
    | some r => simp [foreign r h]
  have unrecorded : ((u.getBar n).arrivals.any fun x => x.core == u.core && x.ctx == u.ctx) = false := by
    simpa [List.any_eq_false] using fresh
  unfold State.barArrive
  simp only [number, first, other, if_neg set, ← dropped]
  rw [if_neg (by rw [dropped]; simpa using unrecorded), if_neg (by simp [final]), State.fenced_now _ _ _ _ _ _ fenced]
  cases word <;> rfl

/-- R45, R326, R327: bar.wait and bar.vote are arrivals once they begin. -/
theorem barrierArrival : Claims.BarrierArrival := by
  intro bar d v s dests srcs out i control unbound begins inside n b u
  let word : Option Word := v.map fun p => s.rd p.2
  have answer : exec i s = .next (u.barArrive bar d out word) := by
    cases v with
    | none =>
      exact State.system_started (k := fun s => s.barArrive bar d none none)
        (by simpa [State.sysBarred, control, dests] using unbound) begins
    | some p =>
      refine (State.system_started (k := fun s => s.barArrive bar d (some p.1) (some (s.rd p.2)))
        (by simpa [State.sysBarred, control, dests] using unbound) begins).trans ?_
      rw [State.rd_started]
      rfl
  have number : u.barNo bar = some n := State.barNo_of_lt (s := u) inside
  have cx : u.cx = { s.cx with popped := s.receives srcs } := s.cx_started srcs
  obtain ⟨taken, pending, unset⟩ := State.barArrive_cases d out word number
  rw [cx] at taken pending unset
  rw [answer]
  refine ⟨fun r done => by rw [taken r done], fun r first second named => by rw [pending r first second named],
    fun first second zero => by rw [unset first second zero], ?_⟩
  intro w t first foreign set fresh dropped final fenced vote t'
  rw [State.barArrive_records d out word number (by rw [cx]; exact first) (by rw [cx]; exact foreign) set
    (by intro x hx; rw [show u.ctx = 0 from control]; exact fresh x hx) dropped final fenced]
  cases v <;> rfl

/-- Settles O49: bar.init by its checks, an arrival by what is pending, and a release by what it combines. -/
theorem barriers : Obligations.Barriers := ⟨barrierInit, barrierArrival, barrierRelease⟩

end Sys2Proof.Machine
end

section
/-! CERTIFICATE. What time brings (O59): a late fault does not take an entry of gdone's kind out of the ring unit, so that
the statement, which says so of every state, fails. -/

namespace Sys2Proof.Machine

/-- An instruction of the ring unit that counts as placed by gdone. No program places one there (R315 step 4), but the
queue record of an image is read so when its CTX is 15 (R347, log entry 11). -/
def unissuedRingEntry : QEntry :=
  { instr := .hadvP 0 0 1, seq := 0, ctx := 0, a := 0, b := 0, c := 0, fmode := 0, journal := 0, unit := 0,
    words := (Sys2Proof.encode (.hadvP 0 0 1)).getD [], sys := true }

/-- That entry in the ring unit of core 0, with its number in flight. -/
def unissuedInFlight : State :=
  State.reset.modCore 0 fun c =>
    { c with ru := [unissuedRingEntry], dring := [(0, { DEntry.reset with st := .inFlight, word := 0xC000 })] }

/-- The report takes an instruction out of its queue only when a context has issued it. -/
theorem unissuedRingEntry_stays :
    unissuedRingEntry ∈ (((unissuedInFlight.unqueue 0 0).lateFault 0 0 0x20 0 0).getCore 0).ru := by decide +kernel

theorem execLateFaultReport_unissued :
    exec (.lateFaultReport 0 0 0x20 0 0) unissuedInFlight =
      .next ((unissuedInFlight.unqueue 0 0).lateFault 0 0 0x20 0 0) :=
  congrArg Host.Outcome.next (if_pos (by decide +kernel))

/-- R336: the report of a late fault does not empty the ring unit of the number. -/
theorem not_timedEvents : ¬ Claims.TimedEvents := by
  intro ⟨_, late, _⟩
  obtain ⟨t, reported, _, _, _, emptied, _⟩ :=
    (late 0 0 0x20 0 0 unissuedInFlight).2 (by decide +kernel) (by decide +kernel) (by decide +kernel)
  cases execLateFaultReport_unissued.symm.trans reported
  exact emptied unissuedRingEntry unissuedRingEntry_stays rfl

/-- Refutes O59: the statement has every entry with the number leave the ring unit, and one of gdone's kind, as an image
may bring it, stays there; the parts for the vector and the fabric queue leave such entries out. -/
theorem not_waitsAndTimers : ¬ Obligations.WaitsAndTimers := fun ⟨_, timed⟩ => not_timedEvents timed

end Sys2Proof.Machine
end

section
/-! CERTIFICATE. What a cancel does (O50): with a graph slot listed twice a job cancel completes a phase that it should
mark, so that the statement, which says so of every state, fails. -/

namespace Sys2Proof.Machine

/-- A graph of one node that has not run, in the given phase. -/
def idleGraph (phase : Nat) : Graph := { Graph.reset with n := 1, phaseId := phase }

/-- A running job of two phases, phase 1 of one graph. Slot 0 is listed twice: the graph that is read there is of phase 1,
the one listed behind it of phase 0. -/
def slotListedTwice : State :=
  State.reset.modPart 0 fun p =>
    { p with graphs := [(0, idleGraph 1), (0, idleGraph 0)]
             job := { Job.reset with state := 1, left := 2
                                     phases := [(0, Phase.reset), (1, { Phase.reset with graphs := 1 })] } }

/-- The cancel of phase 0 reaches slot 0 and ends its graph there, which completes phase 1 before the job's cancel comes to
it; a phase that is complete is not marked (R33, R380). -/
theorem cancelJob_leaves_phase_unmarked :
    (((slotListedTwice.cancelAt 0 .job 0).getPart 0).job.phase 1).state = 1 ∧
    (((slotListedTwice.cancelAt 0 .job 0).getPart 0).job.phase 1).cancel = false := by decide +kernel

/-- R381: a job cancel need not mark each phase that was neither complete nor cancelled. -/
theorem not_cancelLevels : ¬ Claims.CancelLevels := by
  intro levels
  obtain ⟨-, -, -, -, job⟩ := levels 0 0 slotListedTwice
  obtain ⟨-, phases, -⟩ := job (by decide +kernel) (by decide +kernel) (by decide +kernel)
  obtain ⟨marked, -⟩ := phases 1 (by decide +kernel) (by decide +kernel) (by decide +kernel)
  exact Bool.false_ne_true (cancelJob_leaves_phase_unmarked.2.symm.trans marked)

/-- Refutes O50: the statement is about every state, one whose partition lists a graph slot twice among them, and there a
job cancel leaves a phase unmarked. -/
theorem not_cancels : ¬ Obligations.Cancels := fun ⟨_, _, levels⟩ => not_cancelLevels levels

end Sys2Proof.Machine
end

section
/-! CERTIFICATE. Rings (O56): a trap that is due comes before the end of a wait, also when the count that the context waits
for is there, so that the statement, which leaves the trap out, fails. -/

namespace Sys2Proof.Machine

/-- hwait.f of one filled slot of handle 0, as the ring unit holds it. -/
def queuedWait : QEntry :=
  { instr := .hwaitF 0 0 1, seq := 0, ctx := 0, a := 0, b := 0, c := 0, fmode := 0, journal := 0, unit := 0,
    words := (Sys2Proof.encode (.hwaitF 0 0 1)).getD [], sys := false }

/-- The control context of core 0 waits for a filled slot of handle 0, whose one slot is filled, with a TIMER pending. -/
def timerBeforeWait : State :=
  State.reset.modCore 0 fun c =>
    { (c.modCtx 0 fun x =>
        { x with mode := .waiting, wait := some { obj := .ringFull 0 1, seq := some 0 }, timerPend := true }) with
      ru := [queuedWait], rings := [(0, { Ring.reset with valid := true, fill := 1 })] }

/-- The TIMER is taken first (R331), so that the ring unit does nothing. -/
theorem ringStep_timerBeforeWait : timerBeforeWait.ringStep 0 0 = timerBeforeWait := by decide +kernel

/-- R331: a wait for a ring whose count is present need not end. -/
theorem not_ringUnit : ¬ Claims.RingUnit := by
  intro unit
  obtain ⟨-, -, waited, -⟩ := (unit 0 0 timerBeforeWait (by decide)).2 queuedWait (by decide +kernel)
  obtain ⟨present, -⟩ := waited (by decide +kernel) (by decide +kernel) (by decide +kernel) (by decide +kernel)
  obtain ⟨t, performed, left, -⟩ :=
    (present 0 0 1 rfl (by decide +kernel) (by decide +kernel)).2 (by decide +kernel)
  have unchanged : exec (.ringUnitPerform 0 0) timerBeforeWait = .next timerBeforeWait :=
    congrArg Host.Outcome.next ringStep_timerBeforeWait
  cases unchanged.symm.trans performed
  exact absurd left (by decide +kernel)

/-- Refutes O56: it has the wait end in the step in which the count is there, and with a TIMER pending the context stays
WAITING and its instruction queued. -/
theorem not_rings : ¬ Obligations.Rings := fun ⟨_, unit⟩ => not_ringUnit unit

end Sys2Proof.Machine
end

section
/-! SUPPORT. What the link die's engines leave alone when they write a record, log an event or move a signal (R378, R430,
R435), and when a unit's end is counted (R30, R31). -/

namespace Sys2Proof.Machine

/-- `t` is `s` after writes of records: of the cores nothing differs, and of each partition its log alone. -/
structure State.Recorded (s t : State) : Prop where
  cores : t.cores = s.cores
  cut : t.cut = s.cut
  part : ∀ p, ∃ log, t.getPart p = { s.getPart p with log := log }

namespace State.Recorded
variable {s t u : State}

theorem refl (s : State) : Recorded s s := ⟨rfl, rfl, fun _ => ⟨_, rfl⟩⟩

theorem trans (h : Recorded s t) (h' : Recorded t u) : Recorded s u := by
  refine ⟨h'.cores.trans h.cores, h'.cut.trans h.cut, fun p => ?_⟩
  obtain ⟨log, e⟩ := h.part p
  obtain ⟨log', e'⟩ := h'.part p
  exact ⟨log', by rw [e', e]⟩

/-- A change of neither a core, a partition nor the cut. -/
theorem frame (h : Recorded s t) (cores : u.cores = t.cores) (cut : u.cut = t.cut) (parts : u.parts = t.parts) :
    Recorded s u :=
  ⟨cores.trans h.cores, cut.trans h.cut, fun p => by rw [State.getPart, parts]; exact h.part p⟩

theorem modMem {d : Nat} {f : MemDie → MemDie} (h : Recorded s t) : Recorded s (t.modMem d f) := h.frame rfl rfl rfl
theorem send {m : Out} (h : Recorded s t) : Recorded s (t.send m) := h.frame rfl rfl rfl
theorem setMem {m : Memory} (h : Recorded s t) : Recorded s { t with mem := m } := h.frame rfl rfl rfl
theorem llcBack {l : Nat} (h : Recorded s t) : Recorded s (t.llcBack l) := h.modMem

theorem llcKeep {l : Nat} (h : Recorded s t) : Recorded s (t.llcKeep l) := by
  unfold State.llcKeep
  dsimp only
  split
  · exact h
  · split
    · exact h.modMem
    · exact h.llcBack.modMem
    · exact h.llcBack

/-- A repetition of what only records. -/
theorem foldl {α : Type} {f : State → α → State} (l : List α) (h : Recorded s t)
    (hf : ∀ {v : State} {a : α}, Recorded s v → Recorded s (f v a)) : Recorded s (l.foldl f t) :=
  List.foldlRecOn l f h fun _ hv _ _ => hf hv

theorem writeLlc {pa : Nat} {bs : List Byte} (h : Recorded s t) : Recorded s (t.writeLlc pa bs) := by
  unfold State.writeLlc
  dsimp only
  split
  · exact h.setMem
  · exact h.setMem.foldl _ fun hv => hv.llcKeep

theorem logPart {part kind code d0 d1 : Nat} (h : Recorded s t) : Recorded s (t.logPart part kind code d0 d1) := by
  refine ⟨h.cores, h.cut, fun p => ?_⟩
  obtain ⟨log, e⟩ := h.part p
  rw [State.logPart, State.getPart_modPart]
  split
  · next same => subst same; exact ⟨_, by rw [e]⟩
  · exact ⟨log, e⟩

theorem engFail {part : Nat} {k : RecKind} {write : Bool} {va : Word} (h : Recorded s t) :
    Recorded s (t.engFail part k write va) := h.logPart

theorem engPatch {part : Nat} {k : RecKind} {va : Word} {n : Nat} {f : Nat → Nat} (h : Recorded s t) :
    Recorded s (t.engPatch part k va n f) := by
  unfold State.engPatch
  split
  · exact h.engFail
  · exact h.foldl _ fun hv => hv.writeLlc

theorem engRead {part : Nat} {k : RecKind} {va : Word} {n : Nat} (h : Recorded s t) :
    Recorded s (t.engRead part k va n).2 := by
  unfold State.engRead
  split
  · exact h.engFail
  · exact h

theorem launchBack {part i : Nat} (h : Recorded s t) : Recorded s (t.launchBack part i) := by
  unfold State.launchBack
  exact h.engPatch

/-- What an engine's read leaves, named by its result. -/
theorem of_engRead {part : Nat} {k : RecKind} {va : Word} {n : Nat} {r : Option (List Byte)} (h : Recorded s t)
    (e : t.engRead part k va n = (r, u)) : Recorded s u := by
  rw [show u = (t.engRead part k va n).2 by rw [e]]
  exact h.engRead

theorem signal {part : Nat} {sig : BitVec 16} {level obj : Nat} {cancelled : Bool} {code : BitVec 16} {root nodes : Nat}
    (h : Recorded s t) : Recorded s (t.signal part sig level obj cancelled code root nodes) := by
  unfold State.signal
  split
  · exact h
  · dsimp only
    split
    · next e => exact h.of_engRead e
    · next e =>
      have after := h.of_engRead e
      split
      · exact after.engFail
      · split
        · exact (after.foldl _ fun hv => hv.writeLlc).send
        · exact after.foldl _ fun hv => hv.writeLlc

theorem getCore (h : Recorded s t) (c : Nat) : t.getCore c = s.getCore c := by rw [State.getCore, h.cores]; rfl
theorem held (h : Recorded s t) (p : Nat) : (t.getPart p).held = (s.getPart p).held := by
  obtain ⟨_, e⟩ := h.part p; rw [e]
theorem launches (h : Recorded s t) (p : Nat) : (t.getPart p).launches = (s.getPart p).launches := by
  obtain ⟨_, e⟩ := h.part p; rw [e]
theorem getLaunch (h : Recorded s t) (p i : Nat) : t.getLaunch p i = s.getLaunch p i := by
  rw [State.getLaunch, h.launches]; rfl
theorem backlog (h : Recorded s t) (p : Nat) : (t.getPart p).backlog = (s.getPart p).backlog := by
  obtain ⟨_, e⟩ := h.part p; rw [e]
theorem overdue (h : Recorded s t) (p : Nat) : (t.getPart p).overdue = (s.getPart p).overdue := by
  obtain ⟨_, e⟩ := h.part p; rw [e]

end State.Recorded
end Sys2Proof.Machine
end

section
/-! CERTIFICATE. What an arming, its deliveries and its end do (R30, R31, R373 to R375): the statement `LaunchEvents`. -/

namespace Sys2Proof.Machine

/-! ### A held arming -/

/-- The channels of an arming are declared at endpoints: no partition differs, nor the cut. -/
theorem State.declareAll_frame (part i : Nat) (ds : List (BitVec 64)) (s : State) :
    (ds.foldl (fun s d => s.declare part i d) s).parts = s.parts ∧
    (ds.foldl (fun s d => s.declare part i d) s).cut = s.cut :=
  List.foldlRecOn ds _ (motive := fun t : State => t.parts = s.parts ∧ t.cut = s.cut) ⟨rfl, rfl⟩ fun _ ht _ _ => ht

/-- Steps 3 and 4 of an arming whose endpoints are free: it is not held, and one delivery per core waits (R374). -/
theorem State.armRelease_ready {s : State} {part i : Nat} (ready : s.armReady part (s.getLaunch part i) = true) :
    ((s.armRelease part i).getLaunch part i).held = false ∧
    ((s.armRelease part i).getPart part).held = (s.getPart part).held ++
      ((List.range s.coresPer).filter fun j => (s.getLaunch part i).mask.getLsbD j).map fun j =>
        { idx := i, core := s.coreAt part j, stage := 0, k := 0, bytes := (s.getLaunch part i).task } := by
  obtain ⟨parts, cut⟩ := s.declareAll_frame part i (s.getLaunch part i).chans
  have getPart : (List.foldl (fun s d => s.declare part i d) s (s.getLaunch part i).chans).getPart part =
      s.getPart part := by rw [State.getPart, parts]; rfl
  unfold State.armRelease
  rw [if_pos ready]
  constructor
  · simp [State.getLaunch, State.modLaunch, Sparse.get_set_same]
  · simp [State.modLaunch, getPart, State.coresPer, State.coreAt, State.k, cut, upTo]

/-! ### Deliveries -/

/-- A delivery that is next to reserve is of an arming none of whose lower cores has still to reserve (R374 step 4). -/
theorem State.le_of_nextReserve {s : State} {core : Nat} {d : Delivery} (next : s.nextReserve core = some d) :
    ∀ x ∈ (s.getPart (s.partOf core)).held, x.idx = d.idx → x.stage = 0 → core ≤ x.core := by
  intro x hx idx stage
  unfold State.nextReserve at next
  dsimp only at next
  split at next
  · simp at next
  · next e _ =>
    split at next
    · simp at next
    · next none =>
      obtain rfl : e = d := by simpa using next
      have := mt (List.any_eq_true.mpr ⟨x, hx, ·⟩) none
      simpa [idx, stage] using this

/-- A core that the present job owns is not cleared. -/
theorem State.ownCore_of_job {s : State} {core : Nat} {port : Bool}
    (job : (s.getCore core).job = (s.getPart (s.partOf core)).jobs) : s.ownCore core port = s := by
  unfold State.ownCore
  exact if_pos job

/-- A piece of an engine outside the cores clears no core. -/
theorem State.reach_engine {s : State} {src dst : Nat} (engine : 512 ≤ src) : s.reach src dst = s := by
  unfold State.reach
  exact if_neg fun h => by omega

/-- A delivery that holds slot `k` writes it once HEAD has risen above `k` − 64 (R98). -/
theorem State.deliver_slot {s : State} {core : Nat} {d : Delivery} (next : s.nextDelivery core = some d)
    (stage : d.stage = 1)
    (free : d.k.toNat < (s.getCore core).port.head.toNat + 64 ∧
      s.admits (frontPiece core (0x48000 + 64 * (d.k.toNat % 64)) d.bytes) = true) :
    s.deliver core = some ((s.perform (frontPiece core (0x48000 + 64 * (d.k.toNat % 64)) d.bytes)).modDelivery core true
      fun d => some { d with stage := 2 }) := by
  unfold State.deliver
  simp only [next, stage, if_true, if_pos free]

theorem State.deliver_slot_full {s : State} {core : Nat} {d : Delivery} (next : s.nextDelivery core = some d)
    (stage : d.stage = 1) (full : (s.getCore core).port.head.toNat + 64 ≤ d.k.toNat) : s.deliver core = none := by
  unfold State.deliver
  simp only [next, stage, if_true, if_neg fun h : _ ∧ _ => absurd h.1 (Nat.not_lt.mpr full)]

/-- A delivery whose slot is written publishes it when TAIL has reached it (R98). -/
theorem State.deliver_tail {s : State} {core : Nat} {d : Delivery} (next : s.nextDelivery core = some d)
    (stage : d.stage = 2) (turn : (s.getCore core).port.tail = d.k)
    (admits : s.admits (frontPiece core 0x49000 (bytesOf 8 (d.k + 1).toNat)) = true) :
    s.deliver core = some ((s.perform (frontPiece core 0x49000 (bytesOf 8 (d.k + 1).toNat))).modDelivery core true
      fun _ => none) := by
  unfold State.deliver
  simp only [next, stage, turn, if_neg (show ¬ (2 : Nat) = 1 by decide), if_neg (Nat.lt_irrefl _)]
  exact if_pos ⟨trivial, admits⟩

theorem State.deliverReserve_none {s : State} {core : Nat} (alone : s.nextReserve core = none) :
    s.deliverReserve core = none := by
  unfold State.deliverReserve
  rw [alone]

/-- A delivery reserves RESV of a core that the present job owns (R98, R391). -/
theorem State.deliverReserve_own {s : State} {core : Nat} {d : Delivery} (next : s.nextReserve core = some d)
    (admits : s.replayAdmits core 1 3 20 0 0x49010 = true)
    (job : (s.getCore core).job = (s.getPart (s.partOf core)).jobs) :
    s.deliverReserve core = some ((s.reserve core).modDelivery core false fun d =>
      some { d with stage := 1, k := (s.getCore core).port.resv }) := by
  unfold State.deliverReserve
  simp only [next, admits, if_true, State.ownCore_of_job job]

/-- `t` is `s` after a unit was counted: its ports and its deliveries. -/
structure State.Counted (s t : State) : Prop where
  held : ∀ p, (t.getPart p).held = (s.getPart p).held
  port : ∀ c, (t.getCore c).port = (s.getCore c).port

namespace State.Counted
variable {s t : State}

theorem refl (s : State) : Counted s s := ⟨fun _ => rfl, fun _ => rfl⟩

/-- A change of a partition that leaves its deliveries. -/
theorem modPart {p : Nat} {f : Part → Part} (h : Counted s t) (held : (f (t.getPart p)).held = (t.getPart p).held) :
    Counted s (t.modPart p f) := by
  refine ⟨fun q => ?_, h.port⟩
  rw [State.getPart_modPart]
  split
  · next same => subst same; rw [held, h.held]
  · exact h.held q

/-- A change of a core that leaves its port. -/
theorem modCore {c : Nat} {f : Core → Core} (h : Counted s t) (port : (f (t.getCore c)).port = (t.getCore c).port) :
    Counted s (t.modCore c f) := by
  refine ⟨h.held, fun k => ?_⟩
  rw [State.getCore_modCore]
  split
  · next same => subst same; rw [port, h.port]
  · exact h.port k

theorem modLaunch {p i : Nat} {f : Launch → Launch} (h : Counted s t) : Counted s (t.modLaunch p i f) := h.modPart rfl

theorem report {p : Nat} {e : GraphEvent} (h : Counted s t) : Counted s (t.report p e) :=
  h.modPart (by split <;> rfl)

theorem freeEps {part i : Nat} (h : Counted s t) : Counted s (t.freeEps part i) := by
  refine List.foldlRecOn _ _ h fun u hu c _ => ?_
  split
  · exact hu.modCore rfl
  · exact hu

theorem launchBack {part i : Nat} (h : Counted s t) : Counted s (t.launchBack part i) := by
  have back : t.Recorded (t.launchBack part i) := (State.Recorded.refl t).launchBack
  exact ⟨fun p => (back.held p).trans (h.held p), fun c => by rw [back.getCore c, h.port c]⟩

theorem unitOver {part i core : Nat} {cancelled : Bool} (h : Counted s t) :
    Counted s (t.unitOver part i core cancelled) := by
  unfold State.unitOver
  extract_lets v l u w x
  have hv : Counted s v := h.modLaunch
  refine launchBack ?_
  dsimp only [x]
  split
  · split
    · exact hv.freeEps
    · split
      · exact hv.freeEps.modLaunch.report
      · exact hv.freeEps.modLaunch
  · exact hv

end State.Counted

/-- A byte written into an inbox slot (R93, R436). -/
theorem State.winPut_inbox {s : State} {core off : Nat} {b : Byte} {front : Bool}
    (h : 0x48000 ≤ off ∧ off < 0x49000) :
    s.winPut core off b front = s.modCore core fun c =>
      { c with port := { c.port with
          inbox := Memory.put c.port.inbox (off - 0x48000) b,
          marks := if front then c.port.marks ||| (1#64 <<< ((off - 0x48000) / 64))
            else c.port.marks &&& ~~~(1#64 <<< ((off - 0x48000) / 64)) } } := by
  unfold State.winPut
  rw [if_neg (by omega), if_neg (by omega), if_neg (by omega), if_neg (by omega), if_pos h]

/-- Bytes written outside the port-control block are written one by one. -/
theorem State.winWrite_of_data {s : State} {core off : Nat} {bs : List Byte} {front : Bool}
    (h : ¬ (0x49000 ≤ off ∧ off < 0x49200)) :
    s.winWrite core off bs front =
      (bs.foldl (fun (acc : State × Nat) b => (acc.1.winPut core acc.2 b front, acc.2 + 1)) (s, off)).1 := by
  unfold State.winWrite
  rw [if_neg h]

/-- A piece of another agent is performed with a trace entry and pops the replay queue (R113, R422). -/
theorem State.perform_far {s : State} {p : Piece} (far : ¬ (p.src = p.dst ∧ p.agent.toNat < 20)) (skip : p.skip = []) :
    s.perform p =
      (((((s.reach p.src p.dst).winWrite p.dst p.off p.bytes (decide (p.agent = 20))).trace p.dst
        (p.kind ((s.reach p.src p.dst).getCore p.dst).port) (logSize p.bytes.length) p.agent.toNat
        ((s.reach p.src p.dst).srcField p.agent.toNat p.src) p.off).replayPop p.dst).bumpSeq p.dst 1) := by
  have notOwn : (decide (p.src = p.dst) && decide (p.agent.toNat < 20)) = false := by simpa using far
  unfold State.perform
  simp only [notOwn, skip, List.isEmpty_nil, if_true, Bool.false_eq_true, if_false]

/-- A mark of a record sets bit 7 of its slot's LEVEL byte, and no partition differs (R32, R375). -/
theorem State.perform_markPiece (s : State) (core j : Nat) (slot : j < 64) :
    (s.perform (s.markPiece core j)).parts = s.parts ∧
    ((s.perform (s.markPiece core j)).getCore core).port.inbox =
      Memory.put (s.getCore core).port.inbox (64 * j + 0x10)
        (Memory.get (s.getCore core).port.inbox (64 * j + 0x10) ||| 0x80) := by
  have inbox : 0x48000 ≤ 0x48000 + 64 * j + 0x10 ∧ 0x48000 + 64 * j + 0x10 < 0x49000 := by omega
  have data : ¬ (0x49000 ≤ 0x48000 + 64 * j + 0x10 ∧ 0x48000 + 64 * j + 0x10 < 0x49200) := by omega
  rw [State.perform_far (by simp [State.markPiece]) rfl, State.reach_engine (by simp [State.markPiece])]
  simp only [State.markPiece, State.winWrite_of_data data, List.foldl_cons, List.foldl_nil, State.winPut_inbox inbox]
  refine ⟨rfl, ?_⟩
  simp [State.trace, State.replayPop, State.bumpSeq, show 0x48000 + 64 * j + 0x10 - 0x48000 = 64 * j + 0x10 by omega]

/-- A byte other than 0 is read back where it was put. -/
theorem Memory.get_put_of_ne_zero {m : Memory} {a : Nat} {b : Byte} (h : b ≠ 0) :
    Memory.get (Memory.put m a b) a = b := by
  rw [Memory.get, Memory.put, if_neg h, Sparse.get_set_same]

/-- Bit 7 of LEVEL, the mark of a cancelled record, is set. -/
theorem getLsbD_mark (b : Byte) : (b ||| 0x80).getLsbD 7 = true := by simp

theorem mark_ne_zero (b : Byte) : b ||| 0x80 ≠ 0 := fun h => by
  have := getLsbD_mark b
  rw [h] at this
  exact absurd this (by decide)

/-- A slot that holds a record is one of the 64. -/
theorem Core.slotOf_lt {c : Core} {tag : Word} {j : Nat} (h : c.slotOf tag = some j) : j < 64 := by
  obtain ⟨k, _, rfl⟩ := List.mem_map.mp (List.mem_of_find?_eq_some h)
  exact Nat.mod_lt _ (by decide)

/-- A mark that the port has held is made in its record's slot. -/
theorem State.markHeld_slot {s : State} {core j : Nat} {d : Delivery}
    (held : (s.getPart (s.partOf core)).held.find? (fun d => d.core == core && d.stage == 3) = some d)
    (slot : (s.getCore core).slotOf (BitVec.ofNat 64 (natOf ((d.bytes.drop 8).take 8))) = some j)
    (admits : s.admits (s.markPiece core j) = true) :
    ∃ t, s.markHeld core = some t ∧
      (Memory.get (t.getCore core).port.inbox (64 * j + 0x10)).getLsbD 7 = true ∧
      (t.getPart (s.partOf core)).held = (s.getPart (s.partOf core)).held.erase d := by
  let gone := s.modPart (s.partOf core) fun p => { p with held := p.held.erase d }
  obtain ⟨parts, inbox⟩ := gone.perform_markPiece core j (Core.slotOf_lt slot)
  have counted : (gone.perform (gone.markPiece core j)).Counted
    ((gone.perform (gone.markPiece core j)).unitOver (s.partOf core) d.idx core true) := (Counted.refl _).unitOver
  refine ⟨(gone.perform (gone.markPiece core j)).unitOver (s.partOf core) d.idx core true, ?_, ?_, ?_⟩
  · unfold State.markHeld
    simp only [held, slot, admits, if_true]
    rfl
  · rw [counted.port, inbox, Memory.get_put_of_ne_zero (mark_ne_zero _), getLsbD_mark]
  · rw [counted.held, State.getPart, parts, ← State.getPart, State.getPart_modPart_same]


/-! ### Confirmation -/

/-- A report waits behind those before it, and takes no room that the backlog does not have (R65, R345). -/
theorem State.report_queues (s : State) (part : Nat) (e : GraphEvent) :
    ((s.report part e).getPart part).backlog ++ ((s.report part e).getPart part).overdue =
      (s.getPart part).backlog ++ (s.getPart part).overdue ++ [e] ∧
    ((s.getPart part).backlog.length ≤ backlogRoom → ((s.report part e).getPart part).backlog.length ≤ backlogRoom) := by
  unfold State.report
  rw [State.getPart_modPart_same]
  split
  · next room =>
    obtain ⟨room, empty⟩ := room
    simp only [List.isEmpty_iff] at empty
    simp only [empty, List.append_nil, List.length_append, List.length_singleton, true_and]
    omega
  · simp

@[simp] theorem State.getLaunch_report (s : State) (part p i : Nat) (e : GraphEvent) :
    (s.report part e).getLaunch p i = s.getLaunch p i := by
  unfold State.report State.getLaunch
  rw [State.getPart_modPart]
  split
  · next same => subst same; split <;> rfl
  · rfl

/-- A confirmation: the launch is not armed any longer, its signal moves, and a bound one that was not stopped is
reported. -/
theorem execLaunchConfirm_drained {s : State} {part idx : Nat} (armed : (s.getLaunch part idx).armed = true)
    (drained : s.drained? part idx (s.getLaunch part idx).gen = true) :
    ∃ t, (s.modLaunch part idx fun l => { l with armed := false }).Recorded t ∧
      execLaunchConfirm part idx s =
        .next (if (s.getLaunch part idx).bound ∧ !(s.getLaunch part idx).stopped then
          t.report part (.confirm (s.getLaunch part idx).tag) else t) := by
  unfold execLaunchConfirm
  rw [if_pos ⟨armed, drained⟩]
  refine ⟨_, ?_, rfl⟩
  split
  · exact State.Recorded.refl _
  · exact (State.Recorded.refl _).signal

/-- What confirming a launch leaves of it and of the queues of reports (R31, R378). -/
theorem State.confirm_queues {s t : State} {part idx : Nat}
    (signalled : (s.modLaunch part idx fun l => { l with armed := false }).Recorded t) :
    (t.getLaunch part idx).armed = false ∧ (t.getPart part).backlog = (s.getPart part).backlog ∧
      (t.getPart part).overdue = (s.getPart part).overdue := by
  rw [signalled.getLaunch, signalled.backlog, signalled.overdue, State.getLaunch_modLaunch_same]
  simp [State.modLaunch]

end Sys2Proof.Machine

namespace Sys2Proof
open Machine

/-- Settles O9: each event by the facts above; a mark's piece and a confirmation's signal leave what the statement names. -/
theorem launchEvents : Obligations.LaunchEvents := by
  unfold Obligations.LaunchEvents
  refine ⟨fun part idx s => ?_, fun core s d unmarked next => ?_, fun core s d unmarked undelivered next => ?_,
    fun core j s d => ?_, fun part idx s => ?_⟩
  · intro l
    refine ⟨fun free => ?_, fun held blocked => ?_, fun held ready => ?_⟩
    · show Host.Outcome.next _ = _
      rw [if_neg (by simpa using free)]
    · show Host.Outcome.next _ = _
      rw [if_pos held, State.armRelease, if_neg (by simpa using blocked)]
    · refine ⟨s.armRelease part idx, ?_, State.armRelease_ready ready⟩
      show Host.Outcome.next _ = _
      rw [if_pos held]
  · intro p slot tail
    have run : exec (.heldInboxDelivery core) s = .next ((s.deliver core).getD ((s.deliverReserve core).getD s)) := by
      show Host.Outcome.next _ = _
      rw [unmarked, Option.getD_none]
    rw [run]
    refine ⟨fun stage room admits => ?_, fun stage full alone => ?_, fun stage turn admits => ?_⟩
    · rw [State.deliver_slot next stage ⟨room, admits⟩, Option.getD_some]
    · rw [State.deliver_slot_full next stage full, State.deliverReserve_none alone]
      rfl
    · rw [State.deliver_tail next stage turn admits, Option.getD_some]
  · intro p
    refine ⟨fun admits job => ?_, State.le_of_nextReserve next⟩
    show Host.Outcome.next _ = _
    rw [unmarked, undelivered, State.deliverReserve_own next admits job]
    rfl
  · intro part held slot admits
    obtain ⟨t, marked, facts⟩ := State.markHeld_slot held slot admits
    refine ⟨t, ?_, facts⟩
    show Host.Outcome.next _ = _
    rw [marked, Option.getD_some]
  · intro l
    refine ⟨fun not => ?_, fun armed drained => ?_⟩
    · show Host.Outcome.next _ = _
      rw [if_neg not]
    · obtain ⟨u, signalled, confirmed⟩ := execLaunchConfirm_drained armed drained
      obtain ⟨disarmed, backlog, overdue⟩ := State.confirm_queues signalled
      rw [show exec (.launchConfirm part idx) s = execLaunchConfirm part idx s from rfl, confirmed]
      refine ⟨_, rfl, ?_, fun bound running => ?_, fun still => ?_⟩
      · split
        · rw [State.getLaunch_report, disarmed]
        · exact disarmed
      · rw [if_pos (by simp [l, bound, running]), ← backlog, ← overdue]
        exact u.report_queues part _
      · rw [if_neg (by rintro ⟨b, st⟩; rcases still with h | h <;> simp_all [l])]
        exact ⟨backlog, overdue⟩

end Sys2Proof
end

section
/-! SUPPORT. What a grant, a reply of a peer module and a message of a peer module do to the endpoints of channels
(R49, R52, R396, R397). -/

namespace Sys2Proof.Machine

/-! ### Grants -/

/-- A grant of an endpoint whose receiver has no slot to give away, or that is not live, does nothing. -/
theorem State.grant_idle {s : State} {core ep : Nat}
    (idle : (s.getEp core ep).declared = false ∨ (s.getEp core ep).live = false) : s.grant core ep = s := by
  unfold State.grant
  exact if_pos (by rcases idle with h | h <;> simp [h])

section
variable {s : State} {core ep : Nat}
variable (declared : (s.getEp core ep).declared = true) (live : (s.getEp core ep).live = true)
include declared live

theorem State.grant_full (recv : (s.getEp core ep).send = false)
    (full : (s.getEp core ep).slots ≤ (s.getEp core ep).grants + (s.getEp core ep).msgs.length) :
    s.grant core ep = s := by
  unfold State.grant
  simp [declared, live, recv, Endpoint.freeSlot, Nat.not_lt.mpr full]

/-- A receiver with a free slot grants it to its sender in the module (R49, R52). -/
theorem State.grant_core {c' e' : Nat} (recv : (s.getEp core ep).send = false)
    (room : (s.getEp core ep).grants + (s.getEp core ep).msgs.length < (s.getEp core ep).slots)
    (peer : (s.getEp core ep).peer = .core c' e') :
    s.grant core ep = (s.modEp core ep fun e => { e with grants := e.grants + 1 }).modEp c' e' fun x =>
      { x with grants := x.grants + 1, haltedBit := (s.getCore core).halted } := by
  unfold State.grant
  simp [declared, live, recv, Endpoint.freeSlot, room, peer]

/-- A receiver with a free slot grants it to a peer module by a port of the channel's route, while one is up (R396,
R397). -/
theorem State.grant_module {part chan pc : Nat} {peer : BitVec 32} {route : BitVec 16}
    (recv : (s.getEp core ep).send = false)
    (room : (s.getEp core ep).grants + (s.getEp core ep).msgs.length < (s.getEp core ep).slots)
    (far : (s.getEp core ep).peer = .module part chan peer pc route) :
    s.grant core ep = (s.portFor route peer).elim s fun port =>
      (s.modEp core ep fun e => { e with grants := e.grants + 1 }).send
        (.grant port peer pc chan true (s.getCore core).halted (s.getEp core ep).words (s.getEp core ep).slots) := by
  unfold State.grant
  simp only [declared, live, recv, Endpoint.freeSlot, room, far, State.portOf, Bool.not_true, Bool.not_false,
    Bool.or_self, Bool.and_self, decide_true, if_false, Bool.false_eq_true]
  cases s.portFor route peer <;> rfl

/-- A sender within the module, or to a peer module, gives no grant. -/
theorem State.grant_sender (send : (s.getEp core ep).send = true)
    (own : (s.getEp core ep).isExchange = false) : s.grant core ep = s := by
  unfold State.grant
  simp [declared, live, send, own]

/-- The exchange engine grants to a sender while it has room for a descriptor (R399). -/
theorem State.grant_exchange (send : (s.getEp core ep).send = true) (far : (s.getEp core ep).isExchange = true) :
    s.grant core ep =
      if (s.getEp core ep).grants + (s.getEp core ep).msgs.length < (s.getEp core ep).slots ∧
        ((s.getCore core).slotFits ep = true ∨ s.strays (s.partOf core) < 128)
      then s.modEp core ep fun e => { e with grants := e.grants + 1 } else s := by
  unfold State.grant
  simp [declared, live, send, far]

end

/-! ### Replies of a peer module -/

/-- A reading of a map whose values are changed, when the value of what is not listed is not. -/
theorem Sparse.get_mapVal {α : Type} (f : α → α) (d : α) (fixed : f d = d) (m : Sparse α) (k : Nat) :
    Sparse.get d (m.map fun x => (x.1, f x.2)) k = f (Sparse.get d m k) := by
  induction m with
  | nil => exact fixed.symm
  | cons x m ih =>
    simp only [List.map_cons, Sparse.get]
    split
    · rfl
    · split
      · exact fixed.symm
      · exact ih

/-- An endpoint after a reply of the peer module for a channel (R396). -/
def Endpoint.replied (e : Endpoint) (part chan : Nat) (peer : BitVec 32) (pc : Nat) (given halted : Bool)
    (words slots : Nat) : Endpoint :=
  if e.isEnd part chan peer pc then e.reply given halted words slots else e

/-- A reply reaches the endpoints of its channel, at whichever core they are. -/
theorem State.getEp_peerReply (s : State) (part chan : Nat) (peer : BitVec 32) (pc : Nat) (given halted : Bool)
    (words slots core ep : Nat) :
    (s.peerReply part chan peer pc given halted words slots).getEp core ep =
      (s.getEp core ep).replied part chan peer pc given halted words slots := by
  have cores := Sparse.get_mapVal (fun c : Core =>
    { c with eps := c.eps.map fun e => (e.1, e.2.replied part chan peer pc given halted words slots) }) Core.reset rfl
    s.cores core
  have eps := Sparse.get_mapVal (fun e : Endpoint => e.replied part chan peer pc given halted words slots)
    Endpoint.reset rfl (s.getCore core).eps ep
  exact (congrArg (fun c : Core => Sparse.get Endpoint.reset c.eps ep) cores).trans eps

/-- A reply's declaration takes the place of the one before it; one of size 0 withdraws it (R396). -/
theorem State.mem_peerEnds_peerReply (s : State) (part chan : Nat) (peer : BitVec 32) (pc : Nat) (given halted : Bool)
    (words slots : Nat) (x : PeerEnd) :
    x ∈ ((s.peerReply part chan peer pc given halted words slots).getPart part).peerEnds ↔
      (¬ (x.chan = chan ∧ x.peer = peer ∧ x.peerChan = pc) ∧ x ∈ (s.getPart part).peerEnds) ∨
      ((x.chan = chan ∧ x.peer = peer ∧ x.peerChan = pc) ∧ words ≠ 0 ∧ x.words = words ∧ x.slots = slots) := by
  have ends : ((s.peerReply part chan peer pc given halted words slots).getPart part).peerEnds =
      if words = 0 then (s.getPart part).peerEnds.filter fun x => !x.isOf chan peer pc
      else ((s.getPart part).peerEnds.filter fun x => !x.isOf chan peer pc) ++
        [{ chan := chan, peer := peer, peerChan := pc, words := words, slots := slots }] :=
    by simp only [State.peerReply, State.getPart, State.modPart, Sparse.get_set_same]
  have isOf : x.isOf chan peer pc = true ↔ x.chan = chan ∧ x.peer = peer ∧ x.peerChan = pc := by
    simp [PeerEnd.isOf, and_assoc]
  have rest : (x ∈ (s.getPart part).peerEnds.filter fun x => !x.isOf chan peer pc) ↔
      ¬ (x.chan = chan ∧ x.peer = peer ∧ x.peerChan = pc) ∧ x ∈ (s.getPart part).peerEnds := by
    rw [List.mem_filter, Bool.not_eq_true', ← Bool.not_eq_true, isOf, and_comm]
  rw [ends]
  split
  · next zero => simp only [rest, zero, ne_eq, not_true_eq_false, false_and, and_false, or_false]
  · next some =>
    rw [List.mem_append, rest, List.mem_singleton]
    obtain ⟨c, p, k, w, n⟩ := x
    simp only [PeerEnd.mk.injEq, ne_eq, some, not_false_eq_true, true_and, and_assoc]

/-- The endpoint is an end of the channel exactly when it declares it. -/
theorem Endpoint.isEnd_iff (e : Endpoint) (part chan : Nat) (peer : BitVec 32) (pc : Nat) :
    e.isEnd part chan peer pc = true ↔
      e.declared = true ∧ e.byXchan = true ∧ ∃ route, e.peer = .module part chan peer pc route := by
  unfold Endpoint.isEnd Endpoint.isChan
  cases e.peer <;> simp [and_assoc]

/-- A reply whose declaration does not agree ends the channel (R396). -/
theorem Endpoint.reply_differs {e : Endpoint} {words slots : Nat} (given halted : Bool)
    (differs : ¬ (e.words = words ∧ e.slots = slots)) :
    e.reply given halted words slots = { e with live := false, haltedBit := halted } := by
  have disagrees : (decide (e.words = words) && decide (e.slots = slots)) = false := by simpa using differs
  unfold Endpoint.reply
  simp [disagrees]

/-- A reply whose declaration agrees makes the channel live, and may bring a grant (R49, R396). -/
theorem Endpoint.reply_agrees {e : Endpoint} {words slots : Nat} (given halted : Bool) (sameWords : e.words = words)
    (sameSlots : e.slots = slots) :
    e.reply given halted words slots =
      { e with live := true, haltedBit := halted,
               grants := if given = true ∧ e.send = true ∧ e.grants < e.slots then e.grants + 1 else e.grants } := by
  subst sameWords sameSlots
  unfold Endpoint.reply
  simp only [decide_true, Bool.and_self, Bool.and_true, Bool.and_eq_true, decide_eq_true_eq, and_assoc]
  split <;> rfl

/-! ### Messages of a peer module -/

/-- A message in turn is placed under a grant (R397). -/
theorem Endpoint.arrive_next {e : Endpoint} {n : BitVec 32} {ws : List Word} (early : e.early = []) (turn : n = e.seqno)
    (whole : ws.length = e.words) (granted : 0 < e.grants) :
    e.arrive n ws = { e with msgs := e.msgs ++ [ws], grants := e.grants - 1, seqno := e.seqno + 1 } := by
  unfold Endpoint.arrive
  rw [if_neg (by simp [turn, whole, early])]
  simp [upTo, List.range_succ, Endpoint.place, early, turn, Nat.ne_of_gt granted]

/-- A message already placed is discarded (R397). -/
theorem Endpoint.arrive_again {e : Endpoint} {n : BitVec 32} {ws : List Word} (past : 2 ^ 31 ≤ (n - e.seqno).toNat) :
    e.arrive n ws = e := by
  unfold Endpoint.arrive
  exact if_pos (.inl past)

/-- A message ahead of its turn is held (R397). -/
theorem Endpoint.arrive_early {e : Endpoint} {n : BitVec 32} {ws : List Word} (early : e.early = []) (ahead : n ≠ e.seqno)
    (near : (n - e.seqno).toNat < 2 ^ 31) (whole : ws.length = e.words) :
    e.arrive n ws = { e with early := [(n, ws)] } := by
  unfold Endpoint.arrive
  rw [if_neg (by simp only [early, List.any_nil, Bool.false_eq_true, or_false, not_or]
                 exact ⟨Nat.not_le.mpr near, not_not.mpr whole⟩)]
  simp [upTo, List.range_succ, Endpoint.place, early, ahead]


/-- A message reaches a live receiver of a peer module's, and no other endpoint. -/
theorem execChannelMessageArrival_receiver {s : State} {core ep part chan pc : Nat} {peer : BitVec 32}
    {route : BitVec 16} (n : BitVec 32) (ws : List Word) (far : (s.getEp core ep).peer = .module part chan peer pc route) :
    execChannelMessageArrival core ep n ws s = .next (
      if (s.getEp core ep).declared && (s.getEp core ep).live && !(s.getEp core ep).send then
        s.modEp core ep fun e => e.arrive n ws
      else s) := by
  unfold execChannelMessageArrival
  simp only [far]

theorem execChannelMessageArrival_closed {s : State} {core ep : Nat} (n : BitVec 32) (ws : List Word)
    (closed : (s.getEp core ep).declared = false ∨ (s.getEp core ep).live = false ∨ (s.getEp core ep).send = true) :
    execChannelMessageArrival core ep n ws s = .next s := by
  have shut : ((s.getEp core ep).declared && (s.getEp core ep).live && !(s.getEp core ep).send) = false := by
    rcases closed with h | h | h <;> simp [h]
  unfold execChannelMessageArrival
  simp only [shut]
  split <;> rfl

/-- The events of channels (R49, R52, R396, R397). -/
theorem channelEvents : Claims.ChannelEvents := by
  unfold Claims.ChannelEvents
  refine ⟨fun core ep s => ?_, fun part chan peer pc words slots given halted s => ?_, fun core ep n ws s => ?_⟩
  · intro e
    have run : exec (.channelGrant (.local core) ep) s = .next (s.grant core ep) := rfl
    rw [run]
    refine ⟨fun idle => ?_, fun declared live recv => ⟨fun full => ?_, fun room => ⟨?_, ?_⟩⟩,
      fun declared live send own => ?_, fun part group rank declared live send far => ⟨fun full => ?_, fun room fits => ?_⟩⟩
    · rw [State.grant_idle idle]
    · rw [State.grant_full declared live recv full]
    · intro c' e' peer apart
      refine ⟨_, rfl, ?_, ?_⟩
      · rw [State.grant_core declared live recv room peer, State.getEp_modEp_other _ _ apart.symm,
          State.getEp_modEp_same]
      · rw [State.grant_core declared live recv room peer, State.getEp_modEp_same, State.getEp_modEp_other _ _ apart]
    · intro part chan peer pc route far
      rw [State.grant_module declared live recv room far]
      refine ⟨fun none => by rw [none]; rfl, fun port up => ⟨_, rfl, ?_, ?_⟩⟩
      · rw [up, Option.elim_some, show ∀ (t : State) m, (t.send m).getEp core ep = t.getEp core ep from fun _ _ => rfl,
          State.getEp_modEp_same]
      · rw [up]
        rfl
    · rw [State.grant_sender declared live send]
      rcases own with ⟨c', e', peer⟩ | ⟨part, chan, peer, pc, route, far⟩
      · rw [Endpoint.isExchange, peer]
      · rw [Endpoint.isExchange, far]
    · rw [State.grant_exchange declared live send (by rw [Endpoint.isExchange, far]),
        if_neg fun h => absurd h.1 (Nat.not_lt.mpr full)]
    · rw [State.grant_exchange declared live send (by rw [Endpoint.isExchange, far]), if_pos ⟨room, .inl fits⟩]
      exact ⟨_, rfl, State.getEp_modEp_same _ _ _ _⟩
  · refine ⟨s.peerReply part chan peer pc given halted words slots, rfl,
      s.mem_peerEnds_peerReply part chan peer pc given halted words slots, fun core ep => ?_⟩
    intro e mine
    have isEnd : e.isEnd part chan peer pc = true ↔ mine := e.isEnd_iff part chan peer pc
    rw [State.getEp_peerReply]
    refine ⟨fun not => if_neg (mt isEnd.mp not), fun h differs => ?_, fun h sameWords sameSlots => ?_⟩
    · exact (if_pos (isEnd.mpr h)).trans (Endpoint.reply_differs given halted differs)
    · exact (if_pos (isEnd.mpr h)).trans (Endpoint.reply_agrees given halted sameWords sameSlots)
  · intro e
    refine ⟨fun closed => ?_, fun part chan peer pc route far declared live recv => ?_⟩
    · exact execChannelMessageArrival_closed n ws closed
    · have run : exec (.channelMessageArrival core ep n ws) s = .next (s.modEp core ep fun e => e.arrive n ws) :=
        (execChannelMessageArrival_receiver n ws far).trans (by
          rw [if_pos (by simp only [e] at declared live recv; simp [declared, live, recv])])
      refine ⟨_, run, fun early turn whole granted => ?_, fun past => ?_, fun early ahead near whole => ?_⟩
      · rw [State.getEp_modEp_same, Endpoint.arrive_next early turn whole granted]
      · rw [State.getEp_modEp_same, Endpoint.arrive_again past]
      · rw [State.getEp_modEp_same, Endpoint.arrive_early early ahead near whole]

end Sys2Proof.Machine
end

section
/-! SUPPORT. What a write of a core's own window, a write piece of another agent and a core's coming to another job do to
the port and the scratchpad (R93, R96, R97, R112, R113, R391). -/

namespace Sys2Proof.Machine

/-! ### Own writes -/

/-- Two changes of a core that agree on it. -/
theorem State.modCore_congr {s : State} {c : Nat} {f g : Core → Core} (h : f (s.getCore c) = g (s.getCore c)) :
    s.modCore c f = s.modCore c g := by
  rw [State.modCore, h, ← State.modCore]

/-- An access of up to 64 bytes is one piece (R112). -/
theorem pieces64_single (fuel off : Nat) {bs : List Byte} (some : bs ≠ []) (short : bs.length ≤ 64) :
    pieces64 (fuel + 1) off bs = [(off, bs)] := by
  have rest : pieces64 fuel (off + 64) (bs.drop 64) = [] := by
    rw [List.drop_eq_nil_of_le short]
    cases fuel <;> rfl
  rw [pieces64, rest, List.take_of_length_le short, if_neg (by simpa using some)]

/-- A core's own piece is performed without a trace entry (R113). -/
theorem State.perform_own {s : State} {p : Piece} (own : p.src = p.dst) (agent : p.agent.toNat < 20)
    (skip : p.skip = []) :
    s.perform p = (s.winWrite p.dst p.off p.bytes false).bumpSeq p.dst 1 := by
  have reach : s.reach p.src p.dst = s := by
    unfold State.reach
    exact if_neg fun h => h.1 own
  have mine : (decide (p.src = p.dst) && decide (p.agent.toNat < 20)) = true := by simp [own, agent]
  have notFront : decide (p.agent = 20) = false := by
    simp only [decide_eq_false_iff_not]
    intro h
    rw [h] at agent
    exact absurd agent (by decide)
  unfold State.perform
  simp only [reach, mine, skip, List.isEmpty_nil, if_true, notFront]

/-- A core's own write of up to 64 bytes is performed whole and takes one arrival number (R112, R113). -/
theorem State.ownWrite_eq (s : State) {core off : Nat} {bs : List Byte} (inside : off < 0x100000) (some : bs ≠ [])
    (short : bs.length ≤ 64) : s.ownWrite core 0 off bs = (s.winWrite core off bs false).bumpSeq core 1 := by
  have winCore : winCore (winBase + 0x100000 * core + off) = core := by unfold winCore; omega
  have winOff : winOff (winBase + 0x100000 * core + off) = off := by unfold winOff; omega
  rw [State.ownWrite, piecesOf, pieces64_single _ _ some short, winCore, winOff]
  exact State.perform_own rfl (show (BitVec.ofNat 5 0).toNat < 20 by decide) rfl

/-- A write of the port-control block (R96). -/
theorem State.winWrite_control {s : State} {core off : Nat} {bs : List Byte} {front : Bool}
    (h : 0x49000 ≤ off ∧ off < 0x49200) :
    s.winWrite core off bs front = s.modCore core fun c =>
      { c with port := c.port.writeReg (off - 0x49000) (BitVec.ofNat 64 (natOf bs)) } := by
  unfold State.winWrite
  rw [if_pos h]

theorem length_bytesOf (n v : Nat) : (bytesOf n v).length = n := by
  induction n generalizing v with
  | zero => rfl
  | succ n ih => simp [bytesOf, ih]

/-- The number that the low bytes of a number hold (R3). -/
theorem natOf_bytesOf (n v : Nat) : natOf (bytesOf n v) = v % 256 ^ n := by
  induction n generalizing v with
  | zero => simp [bytesOf, natOf, Nat.mod_one]
  | succ n ih => rw [bytesOf, natOf, ih, BitVec.toNat_ofNat, Nat.pow_succ' (m := 256), Nat.mod_mul]

theorem ofNat_natOf_bytesOf (w : Word) : BitVec.ofNat 64 (natOf (bytesOf 8 w.toNat)) = w := by
  rw [natOf_bytesOf, Nat.mod_eq_of_lt (by have := w.isLt; omega), BitVec.ofNat_toNat, BitVec.setWidth_eq]

/-- A core's own write to a port-control register (R96, R113). -/
theorem State.ownWrite_control (s : State) {core off : Nat} (w : Word) (h : 0x49000 ≤ off ∧ off < 0x49200) :
    s.ownWrite core 0 off (bytesOf 8 w.toNat) = s.modCore core fun c =>
      { c with port := { c.port.writeReg (off - 0x49000) w with
          seq := (c.port.writeReg (off - 0x49000) w).seq + BitVec.ofNat 20 1 } } := by
  have length := length_bytesOf 8 w.toNat
  rw [State.ownWrite_eq s (by omega) (List.ne_nil_of_length_pos (by omega)) (by omega), State.winWrite_control h,
    ofNat_natOf_bytesOf, State.bumpSeq, State.modCore_modCore]

/-! ### What a write of a window leaves of a port -/

/-- `t` is `s` after writes of windows: the pieces on their way, and every port's arrival number and count of entries. -/
structure State.Written (s t : State) : Prop where
  pieces : t.pieces = s.pieces
  seq : ∀ c, (t.getCore c).port.seq = (s.getCore c).port.seq
  count : ∀ c, (t.getCore c).port.traceCount = (s.getCore c).port.traceCount

namespace State.Written
variable {s t : State}

theorem refl (s : State) : Written s s := ⟨rfl, fun _ => rfl, fun _ => rfl⟩

theorem modCore {c : Nat} {f : Core → Core} (h : Written s t) (seq : ∀ x, (f x).port.seq = x.port.seq)
    (count : ∀ x, (f x).port.traceCount = x.port.traceCount) : Written s (t.modCore c f) := by
  refine ⟨h.pieces, fun k => ?_, fun k => ?_⟩ <;> rw [State.getCore_modCore] <;> split
  · next same => subst same; rw [seq, h.seq]
  · exact h.seq k
  · next same => subst same; rw [count, h.count]
  · exact h.count k

theorem modCtx {c k : Nat} {f : Ctx → Ctx} (h : Written s t) : Written s (t.modCtx c k f) :=
  h.modCore (fun _ => rfl) fun _ => rfl

theorem modGrove {g : Nat} {f : Grove → Grove} (h : Written s t) : Written s (t.modGrove g f) :=
  ⟨h.pieces, h.seq, h.count⟩

theorem setV {c i : Nat} {x : Core → Lanes} (h : Written s t) : Written s (t.modCore c fun c => c.setV i (x c)) :=
  h.modCore (fun _ => rfl) fun _ => rfl

theorem setK {c i : Nat} {x : Core → BitVec 128} (h : Written s t) : Written s (t.modCore c fun c => c.setK i (x c)) := by
  have mask (y : Core) : (y.setK i (x y)).port = y.port := by unfold Core.setK; split <;> rfl
  exact h.modCore (fun y => congrArg Port.seq (mask y)) fun y => congrArg Port.traceCount (mask y)

theorem winPut {core off : Nat} {b : Byte} {front : Bool} (h : Written s t) : Written s (t.winPut core off b front) := by
  unfold State.winPut
  split
  · exact h.modCore (fun _ => rfl) fun _ => rfl
  split
  · exact h.setV
  split
  · exact h.setK
  split
  · exact h.modCtx
  split
  · exact h.modCore (fun _ => rfl) fun _ => rfl
  split
  · exact h.modGrove
  · exact h

theorem winWriteSkip {core off : Nat} {bs : List Byte} {skip : List Nat} (h : Written s t) :
    Written s (t.winWriteSkip core off bs skip) :=
  List.foldlRecOn _ _ h fun _ hu _ _ => hu.winPut

theorem writeReg (p : Port) (off : Nat) (w : Word) :
    (p.writeReg off w).seq = p.seq ∧ (p.writeReg off w).traceCount = p.traceCount := by
  unfold Port.writeReg
  split
  · unfold Port.writeTail
    split
    · exact ⟨rfl, rfl⟩
    · split <;> exact ⟨rfl, rfl⟩
  all_goals exact ⟨rfl, rfl⟩

theorem winWrite {core off : Nat} {bs : List Byte} {front : Bool} (h : Written s t) :
    Written s (t.winWrite core off bs front) := by
  unfold State.winWrite
  split
  · exact h.modCore (fun _ => (writeReg _ _ _).1) fun _ => (writeReg _ _ _).2
  · exact List.foldlRecOn bs _ (motive := fun acc : State × Nat => Written s acc.1) h fun _ hu _ _ => hu.winPut

end State.Written

/-! ### A core that comes to another job -/

/-- `t` is `s` after lines left L1s: the pieces on their way, and of every core all but its L1. -/
structure State.Flushed (s t : State) : Prop where
  pieces : t.pieces = s.pieces
  core : ∀ c, ∃ l1, t.getCore c = { s.getCore c with l1 := l1 }

namespace State.Flushed
variable {s t u : State}

theorem refl (s : State) : Flushed s s := ⟨rfl, fun _ => ⟨_, rfl⟩⟩

/-- A change of neither a core nor the pieces. -/
theorem frame (h : Flushed s t) (pieces : u.pieces = t.pieces) (cores : u.cores = t.cores) : Flushed s u :=
  ⟨pieces.trans h.pieces, fun c => by rw [State.getCore, cores]; exact h.core c⟩

theorem modMem {d : Nat} {f : MemDie → MemDie} (h : Flushed s t) : Flushed s (t.modMem d f) := h.frame rfl rfl
theorem modDie {d : Nat} {f : Die → Die} (h : Flushed s t) : Flushed s (t.modDie d f) := h.frame rfl rfl
theorem modGrove {g : Nat} {f : Grove → Grove} (h : Flushed s t) : Flushed s (t.modGrove g f) := h.frame rfl rfl

theorem llcKeep {l : Nat} (h : Flushed s t) : Flushed s (t.llcKeep l) := by
  have back {l : Nat} : Flushed s (t.llcBack l) := h.modMem
  unfold State.llcKeep
  dsimp only
  split
  · exact h
  · split
    · exact h.modMem
    · exact back.modMem
    · exact back

theorem putBits {line : Nat} {l : Line} (is : List Nat) (h : Flushed s t) :
    Flushed s (is.foldl (fun s i =>
      if l.dirty.getLsbD i then { s with mem := Memory.put s.mem (line * 32 + i) (l.bytes[i % 32]'(Nat.mod_lt _ (by decide))) }
      else s) t) := by
  refine List.foldlRecOn is _ h fun v hv i _ => ?_
  split
  · exact hv.frame rfl rfl
  · exact hv

theorem cleanLine {die line : Nat} (h : Flushed s t) : Flushed s (t.cleanLine die line) := by
  unfold State.cleanLine
  split
  · exact h
  · refine modDie ?_
    split
    · exact h.putBits _
    · exact (h.putBits _).llcKeep

theorem dropLine {die line : Nat} (h : Flushed s t) : Flushed s (t.dropLine die line) := by
  refine ⟨h.pieces, fun c => ?_⟩
  obtain ⟨l1, e⟩ := h.core c
  obtain ⟨l1', e'⟩ := t.getCore_dropLine die line c
  exact ⟨l1', by rw [e', e]⟩

theorem flushLines {die : Nat} (ls : List Nat) (h : Flushed s t) :
    Flushed s (ls.foldl (fun s l => s.flushLine die l) t) :=
  List.foldlRecOn ls _ h fun _ hv _ _ => hv.cleanLine.dropLine

end State.Flushed

/-- A core that holds another job's state than its partition's is cleared (R391). -/
theorem State.ownCore_other {s : State} {core : Nat}
    (other : (s.getCore core).job ≠ (s.getPart (s.partOf core)).jobs) :
    ∃ t, s.Flushed t ∧ s.ownCore core true =
      t.modCore core fun c => { c.clear with job := (s.getPart (s.partOf core)).jobs } := by
  unfold State.ownCore
  rw [if_neg other]
  refine ⟨_, ?_, rfl⟩
  split
  · exact (Flushed.refl s).flushLines _
  · exact ((Flushed.refl s).flushLines _).modGrove

/-- The access of a core of the present job clears the core that it reaches (R391). -/
def State.Clears (s : State) (src dst : Nat) : Prop :=
  (src ≠ dst ∧ src < 512 ∧ s.partOf src = s.partOf dst ∧ (s.getCore src).job = (s.getPart (s.partOf dst)).jobs) ∧
    (s.getCore dst).job ≠ (s.getPart (s.partOf dst)).jobs

theorem State.reach_of_not_clears {s : State} {src dst : Nat} (h : ¬ s.Clears src dst) : s.reach src dst = s := by
  unfold State.reach
  split
  · next present => exact State.ownCore_of_job (not_not.mp fun other => h ⟨present, other⟩)
  · rfl

/-- The pieces on their way stay, and the reached core's port and scratchpad are cleared but for the arrival number. -/
theorem State.reach_of_clears {s : State} {src dst : Nat} (h : s.Clears src dst) :
    (s.reach src dst).pieces = s.pieces ∧ ((s.reach src dst).getCore dst).scratch = [] ∧
    ((s.reach src dst).getCore dst).port = { Port.reset with seq := (s.getCore dst).port.seq } := by
  obtain ⟨present, other⟩ := h
  obtain ⟨t, flushed, e⟩ := State.ownCore_other other
  obtain ⟨l1, core⟩ := flushed.core dst
  rw [State.reach, if_pos present, e, State.getCore_modCore_same, core]
  exact ⟨flushed.pieces, rfl, rfl⟩

/-- What a reach leaves of the pieces and of the reached core's arrival number. -/
theorem State.reach_keeps (s : State) (src dst : Nat) :
    (s.reach src dst).pieces = s.pieces ∧ ((s.reach src dst).getCore dst).port.seq = (s.getCore dst).port.seq := by
  by_cases h : s.Clears src dst
  · obtain ⟨pieces, -, port⟩ := State.reach_of_clears h
    exact ⟨pieces, by rw [port]⟩
  · rw [State.reach_of_not_clears h]
    exact ⟨rfl, rfl⟩

/-- A reach goes by what the cores and the partitions hold, not by the pieces on their way. -/
theorem State.reach_withPieces (s : State) (ps : List Piece) (src dst : Nat) :
    (({ s with pieces := ps }.reach src dst).getCore dst).scratch = ((s.reach src dst).getCore dst).scratch ∧
    (({ s with pieces := ps }.reach src dst).getCore dst).port = ((s.reach src dst).getCore dst).port := by
  by_cases h : s.Clears src dst
  · obtain ⟨-, scratch, port⟩ := State.reach_of_clears h
    obtain ⟨-, scratch', port'⟩ := State.reach_of_clears (s := { s with pieces := ps }) h
    exact ⟨scratch'.trans scratch.symm, port'.trans port.symm⟩
  · rw [State.reach_of_not_clears h, State.reach_of_not_clears (s := { s with pieces := ps }) h]
    exact ⟨rfl, rfl⟩

/-! ### A piece is performed -/

/-- The bytes of a piece are written, but for those of inactive lanes (R112, R246). -/
def State.putPiece (s : State) (p : Piece) : State :=
  if p.skip.isEmpty then s.winWrite p.dst p.off p.bytes (decide (p.agent = 20))
  else s.winWriteSkip p.dst p.off p.bytes p.skip

/-- A piece is put after its reach; another agent's leaves a trace entry (R113). -/
theorem State.perform_eq (s : State) (p : Piece) :
    s.perform p =
      (if (decide (p.src = p.dst) && decide (p.agent.toNat < 20)) = true then (s.reach p.src p.dst).putPiece p
      else (((s.reach p.src p.dst).putPiece p).trace p.dst (p.kind ((s.reach p.src p.dst).getCore p.dst).port)
        (logSize p.bytes.length) p.agent.toNat ((s.reach p.src p.dst).srcField p.agent.toNat p.src) p.off).replayPop
          p.dst).bumpSeq p.dst 1 := rfl

theorem State.Written.putPiece {s t : State} {p : Piece} (h : s.Written t) : s.Written (t.putPiece p) := by
  unfold State.putPiece
  split
  · exact h.winWrite
  · exact h.winWriteSkip

theorem State.port_bumpSeq (s : State) (core n : Nat) :
    ((s.bumpSeq core n).getCore core).port =
      { (s.getCore core).port with seq := (s.getCore core).port.seq + BitVec.ofNat 20 n } := by
  rw [State.bumpSeq, State.getCore_modCore_same]

/-- What a performed piece does to the pieces on their way, the port's numbers and the scratchpad (R112, R113). -/
theorem State.perform_facts (s : State) (p : Piece) :
    (s.perform p).pieces = s.pieces ∧
    ((s.perform p).getCore p.dst).port.seq = (s.getCore p.dst).port.seq + 1 ∧
    ((s.perform p).getCore p.dst).port.traceCount = ((s.reach p.src p.dst).getCore p.dst).port.traceCount +
      (if p.src = p.dst ∧ p.agent.toNat < 20 then 0 else 1) ∧
    ((s.perform p).getCore p.dst).scratch = (((s.reach p.src p.dst).putPiece p).getCore p.dst).scratch := by
  obtain ⟨pieces, seq⟩ := s.reach_keeps p.src p.dst
  have written := (State.Written.refl (s.reach p.src p.dst)).putPiece (p := p)
  have put := (written.seq p.dst).trans seq
  rw [State.perform_eq]
  split
  · next own =>
    rw [if_pos (by simpa using own), State.port_bumpSeq]
    refine ⟨written.pieces.trans pieces, ?_, ?_, ?_⟩
    · rw [put]; rfl
    · simp [written.count]
    · simp [State.bumpSeq]
  · next far =>
    rw [if_neg (by simpa using far), State.port_bumpSeq]
    refine ⟨written.pieces.trans pieces, ?_, ?_, ?_⟩
    · simp [State.replayPop, State.trace, put]
    · simp [State.replayPop, State.trace, written.count]
    · simp [State.replayPop, State.trace, State.bumpSeq]

/-! ### Bytes of the scratchpad -/

/-- A byte of the scratchpad is written (R93). -/
theorem State.winPut_scratch {s : State} {core off : Nat} {b : Byte} {front : Bool} (h : off < 0x40000) :
    s.winPut core off b front = s.modCore core fun c => { c with scratch := Memory.put c.scratch off b } := by
  unfold State.winPut
  rw [if_pos h]

theorem State.winByte_scratch {s : State} {core off : Nat} (h : off < 0x40000) :
    s.winByte core off = Memory.get (s.getCore core).scratch off := by
  unfold State.winByte
  rw [if_pos h]

/-- Bytes of the scratchpad written one by one. -/
theorem State.scratch_winWrite {s : State} {core off : Nat} {bs : List Byte} {front : Bool}
    (inside : off + bs.length ≤ 0x40000) :
    ((s.winWrite core off bs front).getCore core).scratch = Memory.putAll (s.getCore core).scratch off bs := by
  rw [State.winWrite_of_data (by omega)]
  induction bs generalizing s off with
  | nil => rfl
  | cons b bs ih =>
    rw [List.length_cons] at inside
    rw [List.foldl_cons, ih (by omega), State.winPut_scratch (by omega), State.getCore_modCore_same, Memory.putAll]

/-- Bytes with their places in a piece, put one by one. -/
def Memory.putEach (m : Memory) (off : Nat) (bs : List (Byte × Nat)) : Memory :=
  bs.foldl (fun m x => Memory.put m (off + x.2) x.1) m

theorem State.scratch_winWriteSkip {s : State} {core off : Nat} {bs : List Byte} {skip : List Nat}
    (inside : off + bs.length ≤ 0x40000) :
    ((s.winWriteSkip core off bs skip).getCore core).scratch =
      Memory.putEach (s.getCore core).scratch off (bs.zipIdx.filter fun x => !skip.contains x.2) := by
  have places : ∀ x ∈ bs.zipIdx.filter fun x => !skip.contains x.2, off + x.2 < 0x40000 := fun x hx => by
    have := (List.mem_zipIdx (List.mem_filter.mp hx).1).2.1
    omega
  unfold State.winWriteSkip Memory.putEach
  generalize bs.zipIdx.filter (fun x => !skip.contains x.2) = l at places
  induction l generalizing s with
  | nil => rfl
  | cons x l ih =>
    rw [List.foldl_cons, List.foldl_cons, ih fun y hy => places y (List.mem_cons_of_mem x hy),
      State.winPut_scratch (places x List.mem_cons_self), State.getCore_modCore_same]

/-- What is read after bytes but those of inactive lanes are put. -/
theorem Memory.get_putEach (skip : List Nat) (off : Nat) (bs : List Byte) (n j : Nat) (m : Memory)
    (wf : Memory.wf m = true) :
    Memory.get (Memory.putEach m off ((bs.zipIdx n).filter fun x => !skip.contains x.2)) (off + j) =
      if n ≤ j ∧ j < n + bs.length ∧ j ∉ skip then bs.getD (j - n) 0 else Memory.get m (off + j) := by
  induction bs generalizing n m with
  | nil =>
    rw [if_neg (by simp only [List.length_nil]; omega)]
    rfl
  | cons b bs ih =>
    rw [List.zipIdx_cons, List.length_cons]
    by_cases here : j = n
    · subst here
      by_cases skipped : j ∈ skip
      · rw [List.filter_cons_of_neg (by simpa using skipped), ih _ _ wf, if_neg (by omega),
          if_neg fun h => h.2.2 skipped]
      · rw [List.filter_cons_of_pos (by simpa using skipped), Memory.putEach, List.foldl_cons, ← Memory.putEach,
          ih _ _ (Memory.wf_put _ _ _ wf), if_neg (by omega), Memory.get_put _ _ _ _ wf, if_pos rfl,
          if_pos ⟨by omega, by omega, skipped⟩, Nat.sub_self, List.getD_cons_zero]
    · have rest (m' : Memory) (wf' : Memory.wf m' = true) (same : Memory.get m' (off + j) = Memory.get m (off + j)) :
          Memory.get (Memory.putEach m' off ((bs.zipIdx (n + 1)).filter fun x => !skip.contains x.2)) (off + j) =
            if n ≤ j ∧ j < n + (bs.length + 1) ∧ j ∉ skip then (b :: bs).getD (j - n) 0
            else Memory.get m (off + j) := by
        rw [ih _ _ wf', same]
        by_cases later : n + 1 ≤ j
        · rw [show j - n = j - (n + 1) + 1 by omega, List.getD_cons_succ]
          exact if_congr (and_congr (by omega) (and_congr (by omega) Iff.rfl)) rfl rfl
        · rw [if_neg (by omega), if_neg (by omega)]
      by_cases skipped : n ∈ skip
      · rw [List.filter_cons_of_neg (by simpa using skipped), rest m wf rfl]
      · rw [List.filter_cons_of_pos (by simpa using skipped), Memory.putEach, List.foldl_cons, ← Memory.putEach]
        exact rest _ (Memory.wf_put _ _ _ wf) (by rw [Memory.get_put _ _ _ _ wf, if_neg (by omega)])

/-- The bytes of a piece in the scratchpad, but for those of inactive lanes (R93, R112, R246). -/
theorem State.winByte_putPiece {s : State} {p : Piece} {i : Nat} (inside : p.off + p.bytes.length ≤ 0x40000)
    (wf : Memory.wf (s.getCore p.dst).scratch = true) (h : i < p.bytes.length) :
    Memory.get ((s.putPiece p).getCore p.dst).scratch (p.off + i) =
      if i ∈ p.skip then Memory.get (s.getCore p.dst).scratch (p.off + i) else p.bytes.getD i 0 := by
  unfold State.putPiece
  split
  · next none =>
    rw [List.isEmpty_iff.mp none, State.scratch_winWrite inside, Memory.get_putAll_in _ _ _ _ wf h,
      if_neg List.not_mem_nil, List.getD_eq_getElem _ _ h]
  · rw [State.scratch_winWriteSkip inside, Memory.get_putEach _ _ _ _ _ _ wf]
    by_cases skipped : i ∈ p.skip
    · rw [if_neg fun h => h.2.2 skipped, if_pos skipped]
    · rw [if_pos ⟨by omega, by omega, skipped⟩, if_neg skipped, Nat.sub_zero]

/-! ### Registers of a context -/

/-- Bytes written into s(i) of a context, from byte `k` on (R93). -/
def Ctx.putBytes (x : Ctx) (i : Nat) : Nat → List Byte → Ctx
  | _, [] => x
  | k, b :: bs => (x.putByte i k b).putBytes i (k + 1) bs

/-- A byte of a context's register file is written (R93). -/
theorem State.winPut_regs {s : State} {core ctx i k : Nat} {b : Byte} {front : Bool} (hctx : ctx < 11) (hi : i < 32)
    (hk : k < 8) :
    s.winPut core (0x45000 + 256 * ctx + 8 * i + k) b front = s.modCtx core ctx fun x => x.putByte i k b := by
  unfold State.winPut
  rw [if_neg (by omega), if_neg (by omega), if_neg (by omega), if_pos (by omega),
    show (0x45000 + 256 * ctx + 8 * i + k - 0x45000) / 256 = ctx by omega,
    show (0x45000 + 256 * ctx + 8 * i + k) % 256 / 8 = i by omega,
    show (0x45000 + 256 * ctx + 8 * i + k) % 8 = k by omega]

/-- A write of bytes of one register of a context (R93). -/
theorem State.winWrite_regs {s : State} {core ctx i k : Nat} {bs : List Byte} {front : Bool} (hctx : ctx < 11)
    (hi : i < 32) (short : k + bs.length ≤ 8) (some : bs ≠ []) :
    s.winWrite core (0x45000 + 256 * ctx + 8 * i + k) bs front = s.modCtx core ctx fun x => x.putBytes i k bs := by
  rw [State.winWrite_of_data (by have := List.length_pos_iff.mpr some; omega)]
  induction bs generalizing s k with
  | nil => exact absurd rfl some
  | cons b bs ih =>
    rw [List.length_cons] at short
    rw [List.foldl_cons, State.winPut_regs hctx hi (by omega)]
    cases bs with
    | nil => rfl
    | cons c bs => exact (ih (k := k + 1) (by omega) (List.cons_ne_nil c bs)).trans (State.modCtx_modCtx _ _ _ _ _)

theorem Ctx.putByte_discard {x : Ctx} {i k : Nat} {b : Byte} (h : i = 0 ∨ x.bound i = true) : x.putByte i k b = x := by
  unfold Ctx.putByte
  exact if_pos h

/-- s0 and a bound register discard a write (R93). -/
theorem Ctx.putBytes_discard {x : Ctx} {i k : Nat} {bs : List Byte} (h : i = 0 ∨ x.bound i = true) :
    x.putBytes i k bs = x := by
  induction bs generalizing k with
  | nil => rfl
  | cons b bs ih => rw [Ctx.putBytes, Ctx.putByte_discard h, ih]

/-- Another register is as before. -/
theorem Ctx.stored_putBytes_other {x : Ctx} {i j k : Nat} {bs : List Byte} (h : j ≠ i) :
    (x.putBytes i k bs).stored j = x.stored j := by
  induction bs generalizing x k with
  | nil => rfl
  | cons b bs ih =>
    rw [Ctx.putBytes, ih]
    unfold Ctx.putByte
    split
    · rfl
    · unfold Ctx.stored
      rw [Sparse.get_set_other _ _ _ _ _ h]

/-- A digit of weight `P` replaced. -/
theorem replace_digit (q d r c P : Nat) : P * (256 * q + d) + r - d * P + c * P = r + c * P + P * 256 * q := by
  rw [show P * (256 * q + d) + r = P * 256 * q + r + d * P by ring, Nat.add_sub_cancel]
  ring

/-- A byte replaced, by the bytes above and below it. -/
theorem setByte_mod (n k : Nat) (b : Byte) : setByte n k b % 256 ^ (k + 1) = n % 256 ^ k + b.toNat * 256 ^ k := by
  have hP : 0 < 256 ^ k := Nat.pow_pos (by decide)
  have hn := Nat.div_add_mod n (256 ^ k)
  have hd := Nat.div_add_mod (n / 256 ^ k) 256
  have hr := Nat.mod_lt n hP
  have hb : b.toNat * 256 ^ k ≤ 255 * 256 ^ k := Nat.mul_le_mul_right _ (by omega)
  have split := replace_digit (n / 256 ^ k / 256) (n / 256 ^ k % 256) (n % 256 ^ k) b.toNat (256 ^ k)
  rw [hd, hn] at split
  rw [setByte, split, Nat.pow_succ, Nat.add_mul_mod_self_left, Nat.mod_eq_of_lt (by omega)]

/-- A whole register written is read back. -/
theorem Ctx.stored_putBytes {x : Ctx} {i k : Nat} (n v : Nat) (fits : k + n ≤ 8) (free : i ≠ 0 ∧ x.bound i = false)
    (below : (x.stored i).toNat % 256 ^ k = v % 256 ^ k) :
    ((x.putBytes i k (bytesOf n (v / 256 ^ k))).stored i).toNat % 256 ^ (k + n) = v % 256 ^ (k + n) := by
  induction n generalizing x k with
  | zero => exact below
  | succ n ih =>
    obtain ⟨notZero, unbound⟩ := free
    have put : (x.putByte i k (BitVec.ofNat 8 (v / 256 ^ k))).stored i =
        BitVec.ofNat 64 (setByte (x.stored i).toNat k (BitVec.ofNat 8 (v / 256 ^ k))) := by
      unfold Ctx.putByte Ctx.stored
      rw [if_neg notZero, if_neg (by simp [notZero, unbound]), if_neg notZero, Sparse.get_set_same]
    rw [bytesOf, Ctx.putBytes, Nat.div_div_eq_div_mul, ← Nat.pow_succ, show k + (n + 1) = k + 1 + n by omega]
    refine ih (by omega) ⟨notZero, ?_⟩ ?_
    · unfold Ctx.putByte
      split
      · exact unbound
      · exact unbound
    · rw [put, BitVec.toNat_ofNat, Nat.mod_mod_of_dvd _ (Nat.pow_dvd_pow 256 (show k + 1 ≤ 8 by omega)), setByte_mod,
        below, BitVec.toNat_ofNat, Nat.mod_pow_succ (x := v), Nat.mul_comm]

theorem Ctx.stored_putBytes_word {x : Ctx} {i : Nat} {v : Word} (free : i ≠ 0 ∧ x.bound i = false) :
    (x.putBytes i 0 (bytesOf 8 v.toNat)).stored i = v := by
  have whole := Ctx.stored_putBytes (k := 0) 8 v.toNat (by decide) free (by simp [Nat.mod_one])
  rw [Nat.pow_zero, Nat.div_one, Nat.mod_eq_of_lt (by have := BitVec.isLt ((x.putBytes i 0 (bytesOf 8 v.toNat)).stored i); omega),
    Nat.mod_eq_of_lt (by have := v.isLt; omega)] at whole
  exact BitVec.eq_of_toNat_eq whole

/-- A context after its core's own write of one of its registers. -/
theorem State.getCtx_ownWrite_regs (s : State) {core ctx i : Nat} (hctx : ctx < 11) (hi : i < 32) (v : Word) :
    (s.ownWrite core 0 (0x45000 + 256 * ctx + 8 * i) (bytesOf 8 v.toNat)).getCtx core ctx =
      (s.getCtx core ctx).putBytes i 0 (bytesOf 8 v.toNat) := by
  have length := length_bytesOf 8 v.toNat
  have some : bytesOf 8 v.toNat ≠ [] := List.ne_nil_of_length_pos (by omega)
  have write := State.winWrite_regs (s := s) (core := core) (k := 0) (bs := bytesOf 8 v.toNat) (front := false) hctx hi
    (by omega) some
  rw [State.ownWrite_eq s (by omega) some (by omega), ← Nat.add_zero (0x45000 + 256 * ctx + 8 * i), write,
    show ∀ t : State, (t.bumpSeq core 1).getCtx core ctx = t.getCtx core ctx from fun t => by
      rw [State.getCtx, State.bumpSeq, State.getCore_modCore_same]; rfl,
    State.getCtx_modCtx_same]

/-! ### Pieces on their way -/

/-- The oldest piece from a source is on its way to that port. -/
theorem State.nextPiece_dst {s : State} {dst src : Nat} {p : Piece} (h : s.nextPiece dst src = some p) : p.dst = dst := by
  have := List.find?_some h
  simp only [Bool.and_eq_true, beq_iff_eq] at this
  exact this.1

/-- Taking the oldest piece out leaves one less. -/
theorem length_removeFirst {ps : List Piece} {dst src : Nat} {p : Piece}
    (h : ps.find? (fun p => p.dst == dst && p.src == src) = some p) : (removeFirst ps dst src).length + 1 = ps.length := by
  induction ps with
  | nil => simp at h
  | cons q ps ih =>
    unfold removeFirst
    split
    · rfl
    · next other =>
      rw [List.find?_cons_of_neg (by simpa using other)] at h
      rw [List.length_cons, ih h, List.length_cons]

/-- What a piece that arrives does (R112, R387). -/
theorem State.arrive_eq {s : State} {dst src : Nat} {p : Piece} (h : s.nextPiece dst src = some p) :
    s.arrive dst src =
      if s.foreign p then { s with pieces := removeFirst s.pieces dst src }
      else if s.admits p then ({ s with pieces := removeFirst s.pieces dst src } : State).perform p else s := by
  unfold State.arrive
  rw [h]

end Sys2Proof.Machine
end
section
/-! CERTIFICATE. Ports and channels: the statement `PortsAndChannels`. -/

namespace Sys2Proof.Machine

/-- Own writes of the port, arriving pieces and writes of registers (R93, R96 to R98, R112, R113, R387). -/
theorem portEvents : Claims.PortEvents := by
  unfold Claims.PortEvents
  refine ⟨fun core w s => ?_, fun dst src s => ?_, fun core ctx r v s hctx => ?_⟩
  · intro p port
    have tail : exec (.tail core w) s = .next (s.modCore core fun c =>
        { c with port := { c.port.writeTail w with seq := (c.port.writeTail w).seq + 1 } }) :=
      congrArg Host.Outcome.next (s.ownWrite_control (off := 0x49000) w (by decide))
    have portstat : exec (.portstat core w) s = .next (s.modCore core fun c =>
        { c with port := { c.port.writeStat w with seq := c.port.seq + 1 } }) :=
      congrArg Host.Outcome.next (s.ownWrite_control (off := 0x49018) w (by decide))
    have resv : exec (.resv core w) s = .next (s.modCore core fun c =>
        { c with port := { c.port with resv := c.port.resv + w, seq := c.port.seq + 1 } }) :=
      congrArg Host.Outcome.next (State.modCore_modCore _ _ _ _)
    refine ⟨fun far => ?_, fun near stale => ?_, fun near ahead => ?_, ?_, ?_⟩
    · refine ⟨_, tail, State.modCore_congr ?_⟩
      rw [Port.writeTail, if_pos far]
    · refine ⟨_, tail, State.modCore_congr ?_⟩
      rw [Port.writeTail, if_neg (Nat.not_lt.mpr near), if_pos stale]
    · refine ⟨_, tail, State.modCore_congr ?_⟩
      rw [Port.writeTail, if_neg (Nat.not_lt.mpr near), if_neg (Nat.not_le.mpr ahead)]
    · exact ⟨_, resv, State.modCore_congr rfl⟩
    · exact ⟨_, portstat, State.modCore_congr rfl⟩
  · refine ⟨fun none => ?_, fun p next => ?_⟩
    · show Host.Outcome.next (s.arrive dst src) = _
      unfold State.arrive State.nextPiece
      rw [none]
    · obtain rfl := State.nextPiece_dst next
      intro foreign u
      have isForeign : s.foreign p = true ↔ foreign := by simp [State.foreign, foreign]
      have run : exec (.windowPieceArrival p.dst src) s = .next (s.arrive p.dst src) := rfl
      rw [run, State.arrive_eq next]
      refine ⟨fun outside => ?_, fun inside waits => ?_, fun inside admitted => ?_⟩
      · rw [if_pos (isForeign.mpr outside)]
        exact ⟨_, rfl, length_removeFirst next, rfl, rfl, rfl⟩
      · rw [if_neg (mt isForeign.mp inside), if_neg (by simp [waits])]
      · rw [if_neg (mt isForeign.mp inside), if_pos admitted]
        let t : State := { s with pieces := removeFirst s.pieces p.dst src }
        obtain ⟨pieces, seq, count, scratch⟩ := t.perform_facts p
        obtain ⟨reached, port⟩ := s.reach_withPieces (removeFirst s.pieces p.dst src) p.src p.dst
        refine ⟨t.perform p, rfl, ?_, seq, fun far => ?_, fun own agent => ?_, fun low wf i hi => ?_⟩
        · rw [pieces]
          exact length_removeFirst next
        · rw [count, if_neg fun h => far h.1, port]
        · rw [count, if_pos ⟨own, agent⟩, State.reach_of_not_clears (s := t) fun h => h.1.1 own]
          exact BitVec.add_zero _
        · rw [State.winByte_scratch (by omega), State.winByte_scratch (by omega), scratch,
            State.winByte_putPiece low (by rw [reached]; exact wf) hi, reached]
  · have index : r.toNat < 32 := r.isLt
    have run : exec (.windowRegisterWrite core ctx (0x45000 + 256 * ctx + 8 * r.toNat) (bytesOf 8 v.toNat)) s =
        .next (s.ownWrite core 0 (0x45000 + 256 * ctx + 8 * r.toNat) (bytesOf 8 v.toNat)) :=
      congrArg Host.Outcome.next (if_pos ⟨hctx, by omega, by rw [length_bytesOf]; omega⟩)
    have written := s.getCtx_ownWrite_regs (core := core) hctx index v
    refine ⟨_, run, fun discarded => ?_, fun named unbound => ?_, fun r' other => ?_⟩
    · rw [written, Ctx.putBytes_discard (discarded.imp_left fun h => by rw [h]; rfl)]
    · rw [written, Ctx.stored_putBytes_word ⟨fun h => named (BitVec.eq_of_toNat_eq h), unbound⟩]
    · rw [written, Ctx.stored_putBytes_other fun h => other (BitVec.eq_of_toNat_eq h)]

end Sys2Proof.Machine

namespace Sys2Proof
open Machine

/-- Settles O41, from what a port does with pieces and what grants, replies and messages do to channels. -/
theorem portsAndChannels : Obligations.PortsAndChannels := by
  unfold Obligations.PortsAndChannels
  exact ⟨portEvents, channelEvents⟩

end Sys2Proof
end

section
/-! SUPPORT. A command that the front end passes on is answered, or held, as its engine says (R367, R369). -/

namespace Sys2Proof.Machine

section
variable {s t : State} {i : Instr} {h : Hdr} {c : Cmd} {k : State → Answer}

/-- What the front end has found of a command that it passes on. -/
theorem Claims.passes_iff (cmd : Claims.cmd i = some (h, c)) :
    Claims.passes s i ↔ h.conn < 1024 ∧ h.seq = (s.getConn h.conn).next ∧ s.frontCheck h c = none := by
  rw [Claims.passes, cmd]

/-- A command in turn goes to its engine. -/
theorem State.ncp_passed (cmd : Claims.cmd i = some (h, c)) (passes : Claims.passes s i) :
    s.ncp i h c k = .next ((k s).1.elim ((k s).2.holdCmd h i) fun a =>
      (((k s).2.modConn h.conn fun x =>
        { x with next := x.next + 1, early := x.early.filter fun e => e.1 != h.seq, acked := none, checks := false }).answer
          h c.op a.1 a.2).nextHeld h.conn) := by
  obtain ⟨conn, turn, front⟩ := (Claims.passes_iff cmd).mp passes
  have carried : connOk h.conn = true := by simpa [connOk] using conn
  have ahead : (h.seq - (s.getConn h.conn).next).toNat = 0 := by rw [turn, BitVec.sub_self]; rfl
  unfold State.ncp
  simp only [carried, ahead, front, Bool.not_true, Bool.false_eq_true, if_false, ne_eq, not_true_eq_false,
    show ¬ 256 < 0 by decide]
  rcases k s with ⟨_ | ⟨st, pl⟩, t⟩ <;> rfl

/-- A connection's minor version stays as its number moves on. -/
theorem State.minorOf_modConn (t : State) (conn : Nat) (f : Conn → Conn) (minor : ∀ x, (f x).minor = x.minor) :
    (t.modConn conn f).minorOf conn = BitVec.ofNat 8 ((t.getConn conn).minor.getD 0) := by
  rw [State.minorOf, State.modConn, Sparse.get_set_same, minor]

/-- The engine's answer ends a command. -/
theorem Claims.ends_of_passes {st : Nat} {pl : List Byte} (passes : Claims.passes s i)
    (cmd : Claims.cmd i = some (h, c)) (run : exec i s = s.ncp i h c k) (e : k s = (some (st, pl), t)) :
    Claims.ends s i st pl t := by
  rw [Claims.ends, cmd]
  dsimp only
  rw [run, State.ncp_passed cmd passes, e, ← State.minorOf_modConn t h.conn (fun x =>
    { x with next := x.next + 1, early := x.early.filter fun e => e.1 != h.seq, acked := none, checks := false })
    fun _ => rfl]
  rfl

/-- An engine that waits has its command held. -/
theorem Claims.held_of_passes (passes : Claims.passes s i) (cmd : Claims.cmd i = some (h, c))
    (run : exec i s = s.ncp i h c k) (e : k s = (none, t)) : Claims.held s i t := by
  rw [Claims.held, cmd]
  dsimp only
  rw [run, State.ncp_passed cmd passes, e]
  rfl

end

end Sys2Proof.Machine
end

section
/-! SUPPORT. What HALT and RESUME do to a core's contexts, and what a job's descriptor gives (R372, R380). -/

namespace Sys2Proof.Machine

/-! ### Lists of bytes -/

theorem getD_map_upTo {α : Type} (f : Nat → α) (d : α) {n j : Nat} (h : j < n) : ((upTo n).map f).getD j d = f j := by
  rw [upTo, List.getD_eq_getElem _ _ (by simpa using h), List.getElem_map, List.getElem_range]

theorem Memory.length_getAll (m : Memory) (a n : Nat) : (Memory.getAll m a n).length = n := by
  induction n generalizing a with
  | zero => rfl
  | succ n ih => rw [Memory.getAll, List.length_cons, ih]

theorem Memory.getD_getAll (m : Memory) (a : Nat) {n j : Nat} (h : j < n) :
    (Memory.getAll m a n).getD j 0 = Memory.get m (a + j) := by
  induction n generalizing a j with
  | zero => omega
  | succ n ih =>
    rw [Memory.getAll]
    cases j with
    | zero => rfl
    | succ j => rw [List.getD_cons_succ, ih _ (by omega), show a + 1 + j = a + (j + 1) by omega]

/-- The number of the bytes from the `k`-th on. -/
theorem natOf_div (bs : List Byte) (k : Nat) : natOf bs / 256 ^ k = natOf (bs.drop k) := by
  induction k generalizing bs with
  | zero => simp
  | succ k ih =>
    cases bs with
    | nil => simp [natOf]
    | cons b bs =>
      rw [Nat.pow_succ', ← Nat.div_div_eq_div_mul, List.drop_succ_cons, ← ih, natOf, Nat.add_mul_div_left _ _ (by decide),
        Nat.div_eq_of_lt b.isLt, Nat.zero_add]

/-- The number of the first `k` bytes. -/
theorem natOf_mod (bs : List Byte) (k : Nat) : natOf bs % 256 ^ k = natOf (bs.take k) := by
  induction k generalizing bs with
  | zero => simp [natOf, Nat.mod_one]
  | succ k ih =>
    cases bs with
    | nil => simp [natOf]
    | cons b bs =>
      have low : (b.toNat + 256 * natOf bs) % 256 = b.toNat := by have := b.isLt; omega
      have high : (b.toNat + 256 * natOf bs) / 256 = natOf bs := by have := b.isLt; omega
      rw [List.take_succ_cons, natOf, natOf, ← ih, Nat.pow_succ', Nat.mod_mul, low, high]

/-- The bytes [lo, lo + n) of a number that bytes hold. -/
theorem natOf_field (bs : List Byte) (lo n : Nat) : natOf bs / 256 ^ lo % 256 ^ n = natOf ((bs.drop lo).take n) := by
  rw [natOf_div, natOf_mod]

/-! ### Contexts halted and resumed -/

/-- A change of every context of a core, one after the other. -/
theorem Core.getCtx_foldl {step : Core → Nat → Core} {g : Ctx → Ctx}
    (changes : ∀ c k j, (step c k).getCtx j = if j = k then g (c.getCtx k) else c.getCtx j) (c : Core) (n j : Nat) :
    ((upTo n).foldl step c).getCtx j = if j < n then g (c.getCtx j) else c.getCtx j := by
  induction n generalizing j with
  | zero => simp [upTo]
  | succ n ih =>
    rw [upTo] at ih ⊢
    rw [List.range_succ, List.foldl_append, List.foldl_cons, List.foldl_nil, changes, ih, ih]
    by_cases here : j = n
    · subst here
      rw [if_pos rfl, if_neg (Nat.lt_irrefl _), if_pos (Nat.lt_succ_self _)]
    · rw [if_neg here]
      exact if_congr (by omega) rfl rfl

/-- A context as HALT leaves it (R372). -/
def Ctx.halt (x : Ctx) : Ctx := if x.mode = .free then x else { x with heldMode := x.mode, mode := .halted }

/-- A context as RESUME leaves it (R372). -/
def Ctx.resume (x : Ctx) : Ctx := if x.mode = .halted then { x with mode := x.heldMode } else x

theorem Core.getCtx_halt (c : Core) {k : Nat} (h : k < 11) : c.halt.getCtx k = (c.getCtx k).halt := by
  have each := Core.getCtx_foldl (g := Ctx.halt)
    (step := fun c k => if (c.getCtx k).mode = .free then c
      else c.modCtx k fun x => { x with heldMode := x.mode, mode := .halted }) (fun c k j => ?_) c 11 k
  · have frame (d : Core) : Core.getCtx { d with halted := true } k = d.getCtx k := rfl
    rw [Core.halt, frame, each, if_pos h]
  unfold Ctx.halt
  split
  · split
    · next same => rw [same]
    · rfl
  · rw [Core.getCtx_modCtx]

theorem Core.getCtx_resume (c : Core) {k : Nat} (h : k < 11) : c.resume.getCtx k = (c.getCtx k).resume := by
  have each := Core.getCtx_foldl (g := Ctx.resume)
    (step := fun c k => if (c.getCtx k).mode = .halted then c.modCtx k fun x => { x with mode := x.heldMode } else c)
    (fun c k j => ?_) c 11 k
  · have frame (d : Core) : Core.getCtx { d with halted := false, cancelPend := false } k = d.getCtx k := rfl
    rw [Core.resume, frame, each, if_pos h]
  unfold Ctx.resume
  split
  · rw [Core.getCtx_modCtx]
  · split
    · next same => rw [same]
    · rfl

/-- A core that tells its peers sends messages, and does nothing else (R52). -/
theorem State.tellHalted_sends (s : State) (core : Nat) : ∃ out, s.tellHalted core = { s with outbox := out } := by
  unfold State.tellHalted
  refine List.foldlRecOn _ _ (motive := fun t : State => ∃ out, t = { s with outbox := out }) ⟨_, rfl⟩ ?_
  rintro _ ⟨out, rfl⟩ e _
  split
  · unfold State.tellEnd
    split
    · exact ⟨_, rfl⟩
    · exact ⟨_, rfl⟩
  · exact ⟨_, rfl⟩

/-! ### Jobs -/

theorem length_readPhases {bs : List Byte} {n i : Nat} {ps : Sparse Phase} (h : readPhases bs n i = some ps) :
    ps.length = n := by
  induction n generalizing i ps with
  | zero =>
    obtain rfl : [] = ps := Option.some.inj h
    rfl
  | succ n ih =>
    unfold readPhases at h
    split at h
    · next e =>
      obtain rfl := Option.some.inj h
      rw [List.length_cons, ih e]
    · exact absurd h (by simp)

/-- What a descriptor that keeps the rules gives: its phases, their number and its signal (R380). -/
theorem readJob_some {bs : List Byte} {j : Job} (h : readJob bs = some j) :
    j.state = 1 ∧ j.left = (bs.getD 1 0).toNat ∧ 1 ≤ j.left ∧ j.left ≤ 252 ∧ j.phases.length = j.left ∧
      j.signal = BitVec.ofNat 16 (natOf ((bs.drop 6).take 2)) := by
  have count : bits (natOf (bs.take 64)) 15 8 = (bs.getD 1 0).toNat := by
    have field := natOf_field (bs.take 64) 1 1
    rw [List.drop_take, List.take_take] at field
    refine field.trans ?_
    rcases bs with _ | ⟨a, _ | ⟨b, bs⟩⟩ <;> simp [natOf]
  have signal : bits (natOf (bs.take 64)) 63 48 = natOf ((bs.drop 6).take 2) := by
    have field := natOf_field (bs.take 64) 6 2
    rwa [List.drop_take, List.take_take] at field
  unfold readJob at h
  dsimp only at h
  split at h
  · exact absurd h (by simp)
  · next rules =>
    simp only [not_or] at rules
    obtain ⟨-, -, -, -, some, small⟩ := rules
    split at h
    · exact absurd h (by simp)
    · next phases =>
      obtain rfl := Option.some.inj h
      refine ⟨rfl, count, Nat.pos_of_ne_zero some, Nat.not_lt.mp small, length_readPhases phases, ?_⟩
      rw [signal]

end Sys2Proof.Machine
end

section
/-! SUPPORT. What the module does next, its agenda, has no part in what a store, a maintenance operation or a piece does,
nor in whether a wait's condition holds (R41, R103). -/

namespace Sys2Proof.Machine

/-- The same module with another agenda. -/
def State.scheduled (s : State) (a : List Move) : State := { s with agenda := a }

section
variable (s : State) (a : List Move)

theorem State.ite_scheduled {a : List Move} {c : Prop} [Decidable c] {x y x' y' : State} (hx : x' = x.scheduled a)
    (hy : y' = y.scheduled a) : (if c then x' else y') = (if c then x else y).scheduled a := by
  split
  · exact hx
  · exact hy

theorem State.foldl_scheduled {α : Type} {f : State → α → State} (step : ∀ s x, f (s.scheduled a) x = (f s x).scheduled a)
    (l : List α) : l.foldl f (s.scheduled a) = (l.foldl f s).scheduled a := by
  induction l generalizing s with
  | nil => rfl
  | cons x l ih => rw [List.foldl_cons, step, ih, List.foldl_cons]

theorem State.modCore_scheduled {a : List Move} {t t' : State} (h : t' = t.scheduled a) (c : Nat) (f : Core → Core) :
    t'.modCore c f = (t.modCore c f).scheduled a := by
  subst h
  rfl

/-! ### Lines -/

theorem State.llcKeep_scheduled (l : Nat) : (s.scheduled a).llcKeep l = (s.llcKeep l).scheduled a := by
  have ways : (s.scheduled a).waysOf l = s.waysOf l := rfl
  have mem (d : Nat) : (s.scheduled a).getMem d = s.getMem d := rfl
  unfold State.llcKeep
  refine State.ite_scheduled (x := s) rfl ?_
  simp only [ways, mem]
  split <;> rfl

theorem State.fill_scheduled (die line : Nat) : (s.scheduled a).fill die line = (s.fill die line).scheduled a := by
  unfold State.fill
  exact State.ite_scheduled (x := s) rfl
    (State.llcKeep_scheduled (s.modDie die fun d => { d with l1 := d.l1.set line (s.llcLine line) }) a _)

theorem State.cleanLine_scheduled (die line : Nat) :
    (s.scheduled a).cleanLine die line = (s.cleanLine die line).scheduled a := by
  have copy : (s.scheduled a).copyOf die line = s.copyOf die line := rfl
  unfold State.cleanLine
  rw [copy]
  cases s.copyOf die line with
  | none => rfl
  | some l =>
    dsimp only
    rw [State.foldl_scheduled s a fun t i => State.ite_scheduled (x := { t with
      mem := Memory.put t.mem (line * 32 + i) (l.bytes[i % 32]'(Nat.mod_lt _ (by decide))) }) rfl rfl]
    split
    · rfl
    · rw [State.llcKeep_scheduled]
      rfl

theorem State.flushLine_scheduled (die line : Nat) :
    (s.scheduled a).flushLine die line = (s.flushLine die line).scheduled a := by
  rw [State.flushLine, State.cleanLine_scheduled]
  rfl

theorem State.evict_scheduled (core line : Nat) : (s.scheduled a).evict core line = (s.evict core line).scheduled a := by
  unfold State.evict
  refine State.ite_scheduled ?_ (State.flushLine_scheduled s a _ _)
  rw [State.cleanLine_scheduled]
  rfl

theorem State.hold_scheduled (core line : Nat) : (s.scheduled a).hold core line = (s.hold core line).scheduled a := by
  unfold State.hold
  refine State.ite_scheduled (State.fill_scheduled s a _ _) (State.modCore_scheduled ?_ _ _)
  refine (congrArg (fun t => State.fill t (dieOf core) line) (State.ite_scheduled (x := s) rfl ?_)).trans
    (State.fill_scheduled _ a _ _)
  rw [show ((s.scheduled a).getCore core).l1 = (s.getCore core).l1 from rfl]
  cases (List.filter (fun l => l % 2048 == line % 2048) (s.getCore core).l1).head? with
  | none => rfl
  | some l => exact State.evict_scheduled s a core l

theorem State.onLines_scheduled {f : State → Nat → State} (step : ∀ s l, f (s.scheduled a) l = (f s l).scheduled a)
    (runs : Runs) : (s.scheduled a).onLines runs f = (s.onLines runs f).scheduled a := by
  unfold State.onLines
  refine State.foldl_scheduled s a (fun t r => ?_) runs
  exact State.ite_scheduled (x := t) rfl (State.foldl_scheduled t a step _)

/-! ### Stores and maintenance -/

theorem State.storeBytes_scheduled (die pa : Nat) (bs : List Byte) :
    (s.scheduled a).storeBytes die pa bs = (s.storeBytes die pa bs).scheduled a := by
  induction bs generalizing s pa with
  | nil => rfl
  | cons b bs ih =>
    have byte : (s.scheduled a).storeByte die pa b = (s.storeByte die pa b).scheduled a := by
      rw [State.storeByte, State.fill_scheduled]
      rfl
    rw [State.storeBytes, byte, ih, State.storeBytes]

theorem State.drainOne_scheduled (core : Nat) : (s.scheduled a).drainOne core = (s.drainOne core).scheduled a := by
  have sb : ((s.scheduled a).getCore core).sb = (s.getCore core).sb := rfl
  unfold State.drainOne
  rw [sb]
  cases (s.getCore core).sb with
  | nil => rfl
  | cons e rest =>
    dsimp only
    rw [show (s.scheduled a).modCore core _ = (s.modCore core _).scheduled a from rfl, State.coreStore, State.holdRuns,
      State.onLines_scheduled _ _ fun t l => State.hold_scheduled t a core l, State.storeBytes_scheduled]
    rfl

theorem State.drainN_scheduled (core n : Nat) : (s.scheduled a).drainN core n = (s.drainN core n).scheduled a := by
  induction n generalizing s with
  | zero => rfl
  | succ n ih => rw [State.drainN, State.drainOne_scheduled, ih, State.drainN]

theorem State.cmoLine_scheduled (die : Nat) (k : CmoKind) (lv : CmoLevel) (line : Nat) :
    (s.scheduled a).cmoLine die k lv line = (s.cmoLine die k lv line).scheduled a := by
  cases k <;> cases lv <;>
    simp only [State.cmoLine, State.cleanLine_scheduled, State.flushLine_scheduled] <;> rfl

theorem State.cmoDone_scheduled (core : Nat) (j : CmoJob) :
    (s.scheduled a).cmoDone core j = (s.cmoDone core j).scheduled a := by
  rw [State.cmoDone, State.drainN_scheduled,
    State.onLines_scheduled _ _ fun t l => State.cmoLine_scheduled t a (dieOf core) j.kind j.level l]
  rfl

theorem State.cmoCtx_scheduled : (s.scheduled a).cmoCtx = s.cmoCtx.scheduled a := by
  unfold State.cmoCtx
  dsimp only
  rw [State.foldl_scheduled s a fun t j => State.cmoDone_scheduled t a _ j]
  rfl

/-! ### Pieces -/

theorem State.winPut_scheduled (core off : Nat) (b : Byte) (front : Bool) :
    (s.scheduled a).winPut core off b front = (s.winPut core off b front).scheduled a := by
  unfold State.winPut
  split
  · rfl
  split
  · rfl
  split
  · rfl
  split
  · rfl
  split
  · rfl
  split <;> rfl

theorem State.putPiece_scheduled (p : Piece) : (s.scheduled a).putPiece p = (s.putPiece p).scheduled a := by
  have write (t : State) (off : Nat) (bs : List Byte) (front : Bool) :
      (bs.foldl (fun (acc : State × Nat) b => (acc.1.winPut p.dst acc.2 b front, acc.2 + 1)) (t.scheduled a, off)).1 =
        (bs.foldl (fun (acc : State × Nat) b => (acc.1.winPut p.dst acc.2 b front, acc.2 + 1)) (t, off)).1.scheduled a := by
    induction bs generalizing t off with
    | nil => rfl
    | cons b bs ih => rw [List.foldl_cons, State.winPut_scheduled, ih, List.foldl_cons]
  unfold State.putPiece
  refine State.ite_scheduled ?_ ?_
  · unfold State.winWrite
    exact State.ite_scheduled rfl (write s _ _ _)
  · exact State.foldl_scheduled s a (fun t x => State.winPut_scheduled t a _ _ _ _) _

theorem State.ownCore_scheduled (core : Nat) (port : Bool) :
    (s.scheduled a).ownCore core port = (s.ownCore core port).scheduled a := by
  unfold State.ownCore
  have lines := State.foldl_scheduled s a (f := fun s l => s.flushLine (dieOf core) l)
    (fun t l => State.flushLine_scheduled t a (dieOf core) l) (s.getCore core).l1
  refine State.ite_scheduled (x := s) rfl ?_
  dsimp only
  rw [show (s.scheduled a).getCore core = s.getCore core from rfl, lines]
  refine State.modCore_scheduled ?_ _ _
  exact State.ite_scheduled rfl rfl

theorem State.reach_scheduled (src dst : Nat) : (s.scheduled a).reach src dst = (s.reach src dst).scheduled a := by
  unfold State.reach
  exact State.ite_scheduled (State.ownCore_scheduled s a _ _) rfl

theorem State.perform_scheduled (p : Piece) : (s.scheduled a).perform p = (s.perform p).scheduled a := by
  rw [State.perform_eq, State.perform_eq, State.reach_scheduled, State.putPiece_scheduled]
  split <;> rfl

theorem State.arrive_scheduled (dst src : Nat) : (s.scheduled a).arrive dst src = (s.arrive dst src).scheduled a := by
  have next : (s.scheduled a).nextPiece dst src = s.nextPiece dst src := rfl
  unfold State.arrive
  rw [next]
  cases s.nextPiece dst src with
  | none => rfl
  | some p =>
    refine State.ite_scheduled rfl (State.ite_scheduled ?_ rfl)
    exact State.perform_scheduled { s with pieces := removeFirst s.pieces dst src } a p

/-! ### Fences -/

theorem Option.ite_map_scheduled {a : List Move} {c : Prop} [Decidable c] {x y x' y' : Option State}
    (hx : x' = x.map fun t => t.scheduled a) (hy : y' = y.map fun t => t.scheduled a) :
    (if c then x' else y') = (if c then x else y).map fun t => t.scheduled a := by
  split
  · exact hx
  · exact hy

/-- The context's pieces within a scope, as far as the ports take them (R112). -/
def State.arriveScope (s : State) (scope : Scope) : State :=
  (s.pieces.filter fun p => p.src == s.core && s.inScope scope p.dst).foldl (fun s p => s.arrive p.dst p.src) s

/-- The writes of the context that have not left are past the scope, or there are none (R103). -/
def State.arrivedAll (s : State) (scope : Scope) : Option State :=
  if !(s.noPieces s.core fun p => p.ctx == s.ctx && s.inScope scope p.dst) then none
  else if scope.wide && s.putPending then none
  else some s

theorem State.writesDone_eq (scope : Scope) :
    s.writesDone scope =
      if s.me.storeBlocked s.ctx || !s.drainable s.core s.ctx then none
      else (((s.drainCtx s.core s.ctx).cmoCtx).arriveScope scope).arrivedAll scope := rfl

theorem State.arriveScope_scheduled (scope : Scope) :
    (s.scheduled a).arriveScope scope = (s.arriveScope scope).scheduled a :=
  State.foldl_scheduled s a (f := fun (s : State) (p : Piece) => s.arrive p.dst p.src)
    (fun t p => State.arrive_scheduled t a p.dst p.src) (s.pieces.filter fun p => p.src == s.core && s.inScope scope p.dst)

theorem State.arrivedAll_scheduled (scope : Scope) :
    (s.scheduled a).arrivedAll scope = (s.arrivedAll scope).map fun t => t.scheduled a := by
  unfold State.arrivedAll
  exact Option.ite_map_scheduled rfl (Option.ite_map_scheduled rfl rfl)

theorem State.drainCtx_scheduled (core ctx : Nat) :
    (s.scheduled a).drainCtx core ctx = (s.drainCtx core ctx).scheduled a :=
  State.drainN_scheduled s a core (lastOwn (s.getCore core).sb ctx)

/-- Whether a context's earlier writes are complete does not depend on the agenda (R103). -/
theorem State.writesDone_scheduled (scope : Scope) :
    (s.scheduled a).writesDone scope = (s.writesDone scope).map fun t => t.scheduled a := by
  rw [State.writesDone_eq, State.writesDone_eq, State.drainCtx_scheduled, State.cmoCtx_scheduled,
    State.arriveScope_scheduled, State.arrivedAll_scheduled]
  exact Option.ite_map_scheduled rfl rfl

theorem State.fenceDone_scheduled (r w : Bool) (scope : Scope) :
    (s.scheduled a).fenceDone r w scope = s.fenceDone r w scope := by
  unfold State.fenceDone
  rw [State.writesDone_scheduled]
  cases s.writesDone scope <;> rfl

/-- Whether a wait's condition holds does not depend on the agenda (R41). -/
theorem State.wakeDue_scheduled (core ctx : Nat) (o : WaitObj) :
    (s.scheduled a).wakeDue core ctx o = s.wakeDue core ctx o := by
  cases o with
  | fence r w scope => exact State.fenceDone_scheduled (s.on core ctx) a r w scope
  | _ => rfl

end

end Sys2Proof.Machine
end

section
/-! CERTIFICATE. RDMEM, HALT, RESUME, REPLAYTRACE, JOBSTART and JOBSTAT (R366, R372, R380, R381, R422): the statement
`CoreCommands`. -/

namespace Sys2Proof.Machine

/-! ### The wakes that were kept -/

/-- A wait whose condition holds is due to end (R41). -/
theorem State.wakeDue_of_ready {s : State} {core ctx : Nat} {w : WaitObj} (ready : Claims.ready s core ctx w) :
    s.wakeDue core ctx w = true := by
  cases w with
  | receive ep => exact Option.isSome_iff_ne_none.mpr ready
  | send ep =>
    obtain ⟨granted, up⟩ := ready
    simp [State.wakeDue, granted, up]
  | barrier n =>
    obtain ⟨r, result, names⟩ := ready
    have result : ((s.getCore core).getCtx ctx).barResult = some r := result
    simp [State.wakeDue, result, names]
  | arrival n => exact ready
  | inbox => exact decide_eq_true ready
  | inboxPool n =>
    have ready : (s.getCore core).port.head.toNat < (s.getCore core).port.tail.toNat ∨
      (s.getPool (s.partOf core) n).present ≠ [] := ready
    simpa [State.wakeDue, Port.hasRecord] using ready
  | helpers m =>
    refine List.all_eq_true.mpr fun i hi => ?_
    have free : m.getLsbD i = true → ((s.getCore core).getCtx (i + 1)).mode = .free := ready i (List.mem_range.mp hi)
    cases h : m.getLsbD i
    · rfl
    · simp [free h]
  | pool n =>
    obtain ⟨there, first⟩ := ready
    simp only [State.wakeDue, Bool.and_eq_true, Bool.not_eq_true', List.any_eq_false]
    refine ⟨by simpa using there, fun r hr => ?_⟩
    have := first r hr
    simp only [beq_iff_eq]
    tauto
  | lines rs => exact (Bool.not_eq_true' _).mpr ready
  | fence r w scope => exact ready
  | _ => exact False.elim ready

/-- A wait whose condition holds, or for which a wake was kept, ends (R41, R43). -/
theorem State.wakeUp_due {s : State} {core k : Nat} {w : WaitObj} (waiting : (s.getCtx core k).mode = .waiting)
    (wait : (s.getCtx core k).wait = some { obj := w, seq := none }) (noTrap : s.trapDue core k = false)
    (due : s.wakeDue core k w = true ∨ (s.getCtx core k).woken = true) : s.wakeUp core k = s.awake core k := by
  have wakes : (s.wakeDue core k w || (s.getCtx core k).woken) = true := by simpa using due
  unfold State.wakeUp
  simp only [wait, waiting, noTrap, wakes, ne_eq, not_true_eq_false, if_false, Bool.false_eq_true, if_true]

/-- What `wakeKept` does for one context (R43). -/
def State.wakeKeptStep (core : Nat) (s : State) (k : Nat) : State :=
  if (s.getCtx core k).mode = .ready ∧ (s.getCtx core k).waking then s.scheduled (s.agenda ++ [.resume core k])
  else if (s.getCtx core k).mode = .waiting then s.wakeUp core k
  else s

theorem State.wakeKept_eq (s : State) (core : Nat) : s.wakeKept core = (upTo 11).foldl (State.wakeKeptStep core) s := rfl

/-- A context that does not wait moves the agenda at most. -/
theorem State.wakeKeptStep_not_waiting {s : State} {core k : Nat} (busy : (s.getCtx core k).mode ≠ .waiting) :
    ∃ a, State.wakeKeptStep core s k = s.scheduled a := by
  unfold State.wakeKeptStep
  rw [if_neg busy]
  split
  · exact ⟨_, rfl⟩
  · exact ⟨s.agenda, rfl⟩

theorem State.foldl_wakeKept_not_waiting {s : State} {core : Nat} (ks : List Nat)
    (busy : ∀ k ∈ ks, (s.getCtx core k).mode ≠ .waiting) :
    ∃ a, ks.foldl (State.wakeKeptStep core) s = s.scheduled a := by
  induction ks generalizing s with
  | nil => exact ⟨s.agenda, rfl⟩
  | cons k ks ih =>
    obtain ⟨a, e⟩ := State.wakeKeptStep_not_waiting (busy k List.mem_cons_self)
    obtain ⟨a', e'⟩ := ih (s := s.scheduled a) fun j hj => busy j (List.mem_cons_of_mem k hj)
    exact ⟨a', by rw [List.foldl_cons, e, e']; rfl⟩

/-- The only context that waits, with its condition there, is woken (R43, R372). -/
theorem State.getCtx_wakeKept {s : State} {core k : Nat} {w : WaitObj} (hk : k < 11)
    (waiting : (s.getCtx core k).mode = .waiting) (wait : (s.getCtx core k).wait = some { obj := w, seq := none })
    (alone : ∀ j < 11, j ≠ k → (s.getCtx core j).mode ≠ .waiting) (noTrap : s.trapDue core k = false)
    (due : Claims.ready s core k w ∨ (s.getCtx core k).woken = true) :
    (s.wakeKept core).getCtx core k =
      { s.getCtx core k with mode := .ready, wait := none, waited := 0, waking := true } := by
  obtain ⟨before, after, all⟩ := List.append_of_mem (List.mem_range.mpr hk)
  have nodup := all ▸ List.nodup_range (n := 11)
  have apart : ∀ j ∈ before ++ after, j < 11 ∧ j ≠ k := fun j hj => by
    have member : j ∈ List.range 11 := by
      rw [all]
      rcases List.mem_append.mp hj with h | h
      · exact List.mem_append_left _ h
      · exact List.mem_append_right _ (List.mem_cons_of_mem _ h)
    refine ⟨List.mem_range.mp member, fun same => ?_⟩
    exact (List.nodup_cons.mp (List.nodup_middle.mp nodup)).1 (same ▸ hj)
  obtain ⟨a, first⟩ := State.foldl_wakeKept_not_waiting before fun j hj =>
    (fun h => alone j h.1 h.2) (apart j (List.mem_append_left _ hj))
  have woken : State.wakeKeptStep core (s.scheduled a) k = (s.scheduled a).awake core k := by
    have same : (s.scheduled a).getCtx core k = s.getCtx core k := rfl
    unfold State.wakeKeptStep
    rw [if_neg (by simp [same, waiting]), if_pos (by rw [same, waiting])]
    refine State.wakeUp_due waiting wait noTrap (due.imp_left fun ready => ?_)
    rw [State.wakeDue_scheduled]
    exact State.wakeDue_of_ready ready
  obtain ⟨a', last⟩ := State.foldl_wakeKept_not_waiting (s := (s.scheduled a).awake core k) (core := core) after fun j hj => by
    obtain ⟨small, other⟩ := apart j (List.mem_append_right _ hj)
    have same : ((s.scheduled a).awake core k).getCtx core j = s.getCtx core j := by
      refine (State.getCtx_modCtx (s.scheduled a) core k core j _).trans ?_
      rw [if_neg fun h => other h.2]
      rfl
    rw [same]
    exact alone j small other
  rw [State.wakeKept_eq, upTo, all, List.foldl_append, first, List.foldl_cons, woken, last]
  exact State.getCtx_modCtx_same _ _ _ _

/-! ### The commands -/

/-- A core changed, and its peers told: no other core differs, nor the memory. -/
theorem State.modCore_tellHalted (s : State) (core : Nat) (f : Core → Core) :
    ((s.modCore core f).tellHalted core).getCore core = f (s.getCore core) ∧
    (∀ c, c ≠ core → ((s.modCore core f).tellHalted core).getCore c = s.getCore c) ∧
    ((s.modCore core f).tellHalted core).mem = s.mem := by
  obtain ⟨out, told⟩ := (s.modCore core f).tellHalted_sends core
  rw [told]
  refine ⟨State.getCore_modCore_same s core f, fun c other => ?_, rfl⟩
  exact (State.getCore_modCore s core c f).trans (if_neg other)

section
variable {s : State} {h : Hdr}

/-- RDMEM (R366, R372, R387, R418). -/
theorem rdmem_answers {addr host : Word} {len : Nat} (passes : Claims.passes s (.rdmem h addr len host)) :
    (2 ^ 32 < len → Claims.ends s (.rdmem h addr len host) 0x102 [] s) ∧
    (len ≤ 2 ^ 32 → s.haltedWindow h.part.toNat addr.toNat len false = true →
      let u := s.arriveN hostSrc s.pieces.length
      let rest := u.winReady (winCore addr.toNat) (winOff addr.toNat) len = true ∧
        u.noPieces hostSrc (fun p => p.dst == winCore addr.toNat) = true
      (¬ rest → Claims.held s (.rdmem h addr len host) u) ∧
      (rest → Claims.ends s (.rdmem h addr len host) 0 [] ((u.readPieces 513 (winCore addr.toNat) len).send
        (.hostWrite host ((upTo len).map fun i => u.winSeen (addr.toNat + i)))))) ∧
    (len ≤ 2 ^ 32 → s.haltedWindow h.part.toNat addr.toNat len false = false →
      s.reachable h.part.toNat addr.toNat len = false →
      Claims.ends s (.rdmem h addr len host) 0x102 [] (s.logPart h.part.toNat 2 0 addr.toNat 1)) ∧
    (len ≤ 2 ^ 32 → s.haltedWindow h.part.toNat addr.toNat len false = false →
      s.reachable h.part.toNat addr.toNat len = true →
      (s.imageOpen addr.toNat len = true → Claims.held s (.rdmem h addr len host) s) ∧
      (s.imageOpen addr.toNat len = false → Claims.ends s (.rdmem h addr len host) 0 []
        (s.send (.hostWrite host (Memory.getAll s.mem addr.toNat len))))) := by
  refine ⟨fun long => ?_, fun short halted => ⟨fun busy => ?_, fun rest => ?_⟩, fun short window far => ?_,
    fun short window near => ⟨fun covered => ?_, fun clear => ?_⟩⟩
  · exact Claims.ends_of_passes passes rfl (show execRdmem h addr len host s = _ from rfl) (if_pos long)
  · refine Claims.held_of_passes passes rfl (show execRdmem h addr len host s = _ from rfl) ?_
    rw [if_neg (Nat.not_lt.mpr short), if_pos halted]
    exact if_pos (by simpa [not_and_or, or_iff_not_imp_left] using busy)
  · refine Claims.ends_of_passes passes rfl (show execRdmem h addr len host s = _ from rfl) ?_
    rw [if_neg (Nat.not_lt.mpr short), if_pos halted]
    exact if_neg (by simpa using rest)
  · refine Claims.ends_of_passes passes rfl (show execRdmem h addr len host s = _ from rfl) ?_
    rw [if_neg (Nat.not_lt.mpr short), if_neg (by simp [window]), if_pos (by simp [far])]
    rfl
  · refine Claims.held_of_passes passes rfl (show execRdmem h addr len host s = _ from rfl) ?_
    rw [if_neg (Nat.not_lt.mpr short), if_neg (by simp [window]), if_neg (by simp [near]), if_pos covered]
    rfl
  · refine Claims.ends_of_passes passes rfl (show execRdmem h addr len host s = _ from rfl) ?_
    rw [if_neg (Nat.not_lt.mpr short), if_neg (by simp [window]), if_neg (by simp [near]), if_neg (by simp [clear])]
    rfl

/-- HALT (R372). -/
theorem halt_answers {idx : Nat} (passes : Claims.passes s (.halt h idx)) :
    (s.coresPer ≤ idx → Claims.ends s (.halt h idx) 0x102 [] s) ∧
    (idx < s.coresPer → Claims.ends s (.halt h idx) 0 []
      (if (s.getCore (s.coreAt h.part.toNat idx)).halted then s
      else (s.modCore (s.coreAt h.part.toNat idx) Core.halt).tellHalted (s.coreAt h.part.toNat idx))) :=
  ⟨fun out => Claims.ends_of_passes passes rfl (show execHalt h idx s = _ from rfl) (if_pos out),
    fun inside => Claims.ends_of_passes passes rfl (show execHalt h idx s = _ from rfl) (if_neg (Nat.not_le.mpr inside))⟩

/-- RESUME (R372). -/
theorem resume_answers {idx : Nat} (passes : Claims.passes s (.resume h idx)) :
    (s.coresPer ≤ idx → Claims.ends s (.resume h idx) 0x102 [] s) ∧
    (idx < s.coresPer → (s.getCore (s.coreAt h.part.toNat idx)).halted = false → Claims.ends s (.resume h idx) 0 [] s) ∧
    (idx < s.coresPer → (s.getCore (s.coreAt h.part.toNat idx)).halted = true →
      let core := s.coreAt h.part.toNat idx
      let t := (s.modCore core Core.resume).tellHalted core
      Claims.ends s (.resume h idx) 0 [] (if (s.getCore core).cancelPend then t.stopUnit core else t.wakeKept core)) := by
  refine ⟨fun out => ?_, fun inside runs => ?_, fun inside halted => ?_⟩
  · exact Claims.ends_of_passes passes rfl (show execResume h idx s = _ from rfl) (if_pos out)
  · refine Claims.ends_of_passes passes rfl (show execResume h idx s = _ from rfl) ?_
    rw [if_neg (Nat.not_le.mpr inside), if_pos (by rw [runs]; rfl)]
    rfl
  · refine Claims.ends_of_passes passes rfl (show execResume h idx s = _ from rfl) ?_
    rw [if_neg (Nat.not_le.mpr inside), if_neg (by rw [halted]; decide)]
    rfl

/-- REPLAYTRACE (R422). -/
theorem replaytrace_answers {idx n : Nat} {addr : Word} (passes : Claims.passes s (.replaytrace h idx n addr)) :
    let core := s.coreAt h.part.toNat idx
    let bad := s.coresPer ≤ idx ∨ n = 0 ∨ 4096 < n ∨ s.reachable h.part.toNat addr.toNat (16 * n) = false
    (bad → Claims.ends s (.replaytrace h idx n addr) 0x102 [] s) ∧
    (¬ bad → (s.getCore core).unit ≠ none → Claims.ends s (.replaytrace h idx n addr) 0x104 [] s) ∧
    (¬ bad → (s.getCore core).unit = none → Claims.ends s (.replaytrace h idx n addr) 0 [] (s.modCore core fun c =>
      { c with port := { c.port with
          replay := c.port.replay ++ (upTo n).map fun i =>
            BitVec.ofNat 128 (natOf (Memory.getAll s.mem (addr.toNat + 16 * i) 16))
          replayWait := if c.port.replay.isEmpty then 0 else c.port.replayWait } })) := by
  intro core bad
  have refused : bad ↔ s.coresPer ≤ idx ∨ n = 0 ∨ 4096 < n ∨ (!s.reachable h.part.toNat addr.toNat (16 * n)) = true := by
    simp only [bad, Bool.not_eq_true']
  refine ⟨fun b => ?_, fun good busy => ?_, fun good idle => ?_⟩
  · exact Claims.ends_of_passes passes rfl (show execReplaytrace h idx n addr s = _ from rfl) (if_pos (refused.mp b))
  · refine Claims.ends_of_passes passes rfl (show execReplaytrace h idx n addr s = _ from rfl) ?_
    rw [if_neg (mt refused.mpr good), if_pos (Option.isSome_iff_ne_none.mpr busy)]
    rfl
  · refine Claims.ends_of_passes passes rfl (show execReplaytrace h idx n addr s = _ from rfl) ?_
    rw [if_neg (mt refused.mpr good), if_neg (by simp only [core] at idle; simp [idle])]
    rfl

/-- JOBSTART (R380, R381). -/
theorem jobstart_answers (passes : Claims.passes s (.jobstart h)) :
    let part := h.part.toNat
    let busy := s.runsUnit part = true ∨ (s.getPart part).job.state = 1
    (busy → Claims.ends s (.jobstart h) 0x104 [] s) ∧
    (¬ busy → ∀ u, (s.engRead part .phase (s.getPart part).desc.phase 4096 = (none, u) →
        Claims.ends s (.jobstart h) 0x102 [] u) ∧
      ∀ bs, s.engRead part .phase (s.getPart part).desc.phase 4096 = (some bs, u) →
        (readJob bs = none → Claims.ends s (.jobstart h) 0x102 [] u) ∧
        ∀ j, readJob bs = some j → Claims.ends s (.jobstart h) 0 [] (u.startJob part j)) := by
  intro part busy
  refine ⟨fun b => ?_, fun idle u => ⟨fun failed => ?_, fun bs read => ⟨fun bad => ?_, fun j good => ?_⟩⟩⟩
  · exact Claims.ends_of_passes passes rfl (show execJobstart h s = _ from rfl) (if_pos b)
  · refine Claims.ends_of_passes passes rfl (show execJobstart h s = _ from rfl) ?_
    rw [if_neg idle, failed]
    rfl
  · refine Claims.ends_of_passes passes rfl (show execJobstart h s = _ from rfl) ?_
    rw [if_neg idle, read]
    dsimp only
    rw [bad]
    rfl
  · refine Claims.ends_of_passes passes rfl (show execJobstart h s = _ from rfl) ?_
    rw [if_neg idle, read]
    dsimp only
    rw [good]
    rfl

end

end Sys2Proof.Machine

namespace Sys2Proof
open Machine

/-- Settles O17, command by command; a context after HALT and RESUME is `Ctx.halt` and `Ctx.resume` of it. -/
theorem coreCommands : Obligations.CoreCommands := by
  unfold Obligations.CoreCommands
  refine ⟨fun h addr len host s passes => ?_, fun h idx s passes => ?_, fun h idx s passes => ?_,
    fun h idx n addr s passes => ?_, fun h s passes => ?_, fun h s passes => ?_⟩
  · intro part pa i
    obtain ⟨long, window, far, near⟩ := rdmem_answers passes
    refine ⟨long, fun short halted => ?_, far, fun short outside reachable => ?_⟩
    · intro u rest
      obtain ⟨busy, done⟩ := window short halted
      exact ⟨busy, fun r => ⟨_, by simp [upTo], fun j hj => getD_map_upTo _ _ hj, done r⟩⟩
    · obtain ⟨covered, clear⟩ := near short outside reachable
      exact ⟨covered, fun open_ => ⟨_, Memory.length_getAll _ _ _, fun j hj => Memory.getD_getAll _ _ hj, clear open_⟩⟩
  · intro core
    obtain ⟨out, inside⟩ := halt_answers passes
    refine ⟨out, fun h1 halted => ?_, fun h1 runs => ?_⟩
    · have ends := inside h1
      rwa [if_pos halted] at ends
    · have ends := inside h1
      rw [if_neg (by simp only [core] at runs; simp [runs])] at ends
      obtain ⟨mine, others, mem⟩ := s.modCore_tellHalted core Core.halt
      refine ⟨_, ends, by rw [mine]; rfl, others, mem, fun k hk => ?_⟩
      rw [State.getCtx, mine, Core.getCtx_halt _ hk]
      rfl
  · intro core
    obtain ⟨out, running, halted⟩ := resume_answers passes
    refine ⟨out, running, fun inside stopped => ⟨(s.modCore core Core.resume).tellHalted core, halted inside stopped, ?_⟩⟩
    obtain ⟨mine, others, -⟩ := s.modCore_tellHalted core Core.resume
    refine ⟨by rw [mine]; rfl, others, fun k hk w waiting wait alone noTrap due => ?_, fun k hk => ?_⟩
    · exact State.getCtx_wakeKept hk waiting wait alone noTrap due
    · rw [State.getCtx, mine, Core.getCtx_resume _ hk]
      rfl
  · intro part core i bad
    obtain ⟨refused, busy, idle⟩ := replaytrace_answers passes
    refine ⟨refused, busy, fun good free => ⟨_, by simp [upTo], fun j hj => getD_map_upTo _ _ hj, ?_⟩⟩
    have ends := idle good free
    simpa only [List.isEmpty_iff] using ends
  · intro part busy
    obtain ⟨running, idle⟩ := jobstart_answers passes
    refine ⟨running, fun free u => ⟨(idle free u).1, fun bs read => ?_⟩⟩
    obtain ⟨bad, good⟩ := (idle free u).2 bs read
    exact ⟨bad, fun j job => ⟨good j job, readJob_some job⟩⟩
  · exact Claims.ends_of_passes passes rfl (show execJobstat h s = _ from rfl) rfl

end Sys2Proof
end

section
/-! SUPPORT. The order of pool elements, the best of a list, and what shards and pools read after a change (R74 to R82). -/

namespace Sys2Proof

/-- A key that was set is listed. -/
theorem Sparse.has_set_same {α : Type} (m : Sparse α) (k : Nat) (v : α) : Sparse.has (Sparse.set m k v) k = true := by
  induction m with
  | nil => simp [Sparse.set, Sparse.has]
  | cons x m ih =>
    obtain ⟨k', v'⟩ := x
    simp only [Sparse.set]
    split
    · simp [Sparse.has]
    · split
      · simp [Sparse.has]
      · next below other => simpa only [Sparse.has, if_neg below, if_neg other] using ih

/-- What a map reads is listed, or is the default. -/
theorem Sparse.mem_of_get {α : Type} {d v : α} {m : Sparse α} {k : Nat} (read : Sparse.get d m k = v) (other : v ≠ d) :
    (k, v) ∈ m := by
  induction m with
  | nil => exact absurd read.symm other
  | cons x m ih =>
    obtain ⟨k', v'⟩ := x
    simp only [Sparse.get] at read
    split at read
    · next same => subst same read; exact List.mem_cons_self
    · split at read
      · exact absurd read.symm other
      · exact List.mem_cons_of_mem _ (ih read)

namespace Machine

/-! ### Ranks (R74) -/

/-- What an element ranks by: its key, then its place in insertion order. -/
def Elem.rank (x : Elem) : Nat ×ₗ Nat ×ₗ Nat ×ₗ Nat :=
  toLex (x.key.toNat, toLex (x.time, toLex (x.shard, x.ord)))

theorem Elem.lt_iff (x y : Elem) : x.lt y = true ↔ x.rank < y.rank := by
  simp [Elem.lt, Elem.earlier, Elem.rank, Prod.Lex.toLex_lt_toLex, BitVec.toNat_inj]

theorem Elem.lt_eq_false_iff (x y : Elem) : x.lt y = false ↔ y.rank ≤ x.rank := by
  rw [← not_lt, ← Elem.lt_iff, Bool.not_eq_true]

/-- A fold that keeps the lesser of two by a rank ends with a least one of the list. -/
theorem foldl_least {α β : Type} [LinearOrder β] (rank : α → β) (xs : List α) (b : α) :
    let least := xs.foldl (fun a x => if rank x < rank a then x else a) b
    least ∈ b :: xs ∧ ∀ x ∈ b :: xs, rank least ≤ rank x := by
  induction xs generalizing b with
  | nil => simp
  | cons y xs ih =>
    simp only [List.foldl_cons]
    split
    · next less =>
      obtain ⟨mem, least⟩ := ih y
      exact ⟨List.mem_cons_of_mem _ mem, List.forall_mem_cons.2 ⟨(least y List.mem_cons_self).trans less.le, least⟩⟩
    · next notLess =>
      obtain ⟨mem, least⟩ := ih b
      obtain ⟨first, rest⟩ := List.forall_mem_cons.1 least
      refine ⟨?_, List.forall_mem_cons.2 ⟨first, List.forall_mem_cons.2 ⟨first.trans (not_lt.1 notLess), rest⟩⟩⟩
      rcases List.mem_cons.1 mem with same | mem
      · rw [same]
        exact List.mem_cons_self
      · exact List.mem_cons_of_mem _ (List.mem_cons_of_mem _ mem)

/-- The better-ranked of two elements, the first of which need not be there: a step of `bestElem`. -/
def betterElem (acc : Option Elem) (e : Elem) : Option Elem :=
  match acc with
  | none => some e
  | some b => if e.lt b then some e else some b

theorem betterElem_some (b e : Elem) : betterElem (some b) e = some (if e.rank < b.rank then e else b) := by
  simp only [betterElem, Elem.lt_iff, apply_ite some]

theorem foldl_betterElem (xs : List Elem) (b : Elem) :
    xs.foldl betterElem (some b) = some (xs.foldl (fun a x => if x.rank < a.rank then x else a) b) := by
  induction xs generalizing b with
  | nil => rfl
  | cons y xs ih => rw [List.foldl_cons, betterElem_some, ih, List.foldl_cons]

/-- The best-ranked element of a list is in it, and none ranks before it. -/
theorem bestElem_spec {l : List Elem} {e : Elem} (best : bestElem l = some e) :
    e ∈ l ∧ ∀ x ∈ l, x.lt e = false := by
  cases l with
  | nil => cases best
  | cons x xs =>
    obtain rfl : _ = e := Option.some.inj ((foldl_betterElem xs x).symm.trans best)
    simp only [Elem.lt_eq_false_iff]
    exact foldl_least Elem.rank xs x

/-- A fold of the lesser keeps a bound of every element and of where it began. -/
theorem foldl_min_le (f : Elem → Nat) (l : List Elem) (b : Nat) :
    l.foldl (fun m e => Nat.min m (f e)) b ≤ b ∧ ∀ x ∈ l, l.foldl (fun m e => Nat.min m (f e)) b ≤ f x := by
  induction l generalizing b with
  | nil => simp
  | cons y l ih =>
    obtain ⟨start, rest⟩ := ih (Nat.min b (f y))
    simp only [List.foldl_cons]
    exact ⟨start.trans (Nat.min_le_left _ _), List.forall_mem_cons.2 ⟨start.trans (Nat.min_le_right _ _), rest⟩⟩

/-! ### What an arbiter may return (R81, R82) -/

/-- With no element aged, every present one is eligible. -/
theorem Pool.eligible_of_young {p : Pool} (young : ∀ x ∈ p.present, p.aged x = false) : p.eligible = p.present := by
  have none : p.present.filter p.aged = [] := by simpa using young
  simp [Pool.eligible, none]

/-- With an element aged, the eligible ones are the aged ones of the oldest stamp. -/
theorem Pool.mem_eligible_of_aged {p : Pool} {e : Elem} (old : ∃ x ∈ p.present, p.aged x = true)
    (eligible : e ∈ p.eligible) :
    e ∈ p.present ∧ p.aged e = true ∧ ∀ x ∈ p.present, p.aged x = true → e.stamp ≤ x.stamp := by
  have some : ¬ (p.present.filter p.aged).isEmpty = true := by simpa [List.isEmpty_iff] using old
  unfold Pool.eligible at eligible
  dsimp only at eligible
  rw [if_neg some] at eligible
  obtain ⟨mem, stamp⟩ := List.mem_filter.1 eligible
  obtain ⟨present, aged⟩ := List.mem_filter.1 mem
  refine ⟨present, aged, fun x hx ax => ?_⟩
  rw [eq_of_beq stamp]
  exact (foldl_min_le Elem.stamp _ _).2 x (List.mem_filter.2 ⟨hx, ax⟩)

/-! ### Shards and pools after a change -/

@[simp] theorem Pool.shard_modShard_same (p : Pool) (i : Nat) (f : Shard → Shard) :
    (p.modShard i f).shard i = f (p.shard i) := Sparse.get_set_same _ _ _ _

theorem Pool.shard_modShard_other (p : Pool) {i j : Nat} (f : Shard → Shard) (h : j ≠ i) :
    (p.modShard i f).shard j = p.shard j := Sparse.get_set_other _ _ _ _ _ h

/-- An element that enters a shard stands behind the others there (R80). -/
theorem Pool.shard_insert (p : Pool) (time i : Nat) (key payload : Word) :
    (p.insert time i key payload).shard i =
      { p.shard i with elems := (p.shard i).elems ++ [p.elem time i key payload], puts := (p.shard i).puts + 1 } :=
  p.shard_modShard_same i fun x => { x with elems := x.elems ++ [p.elem time i key payload], puts := x.puts + 1 }

/-- The oldest summary on its way to another shard is acknowledged (R78). -/
theorem Pool.ack_spec {p : Pool} {i j : Nat} {m : Nat × Summary} (apart : i ≠ j)
    (oldest : (p.shard i).inFlight.find? (fun m => m.1 == j) = some m) :
    ((p.ack i j).shard i).inFlight = (p.shard i).inFlight.erase m ∧
    ((p.ack i j).shard j).seen = (p.shard j).seen.set i m.2 := by
  unfold Pool.ack
  simp only [oldest]
  rw [Pool.shard_modShard_other _ _ apart, Pool.shard_modShard_same, Pool.shard_modShard_same,
    Pool.shard_modShard_other _ _ apart.symm]
  exact ⟨rfl, rfl⟩

/-- The oldest put that waits becomes present once its summary is acknowledged and a place is free (R80). -/
theorem Pool.linearize_due {p : Pool} {cap time i : Nat} {q : PendPut} {rest : List PendPut}
    (oldest : (p.shard i).pend = q :: rest) (acked : (p.shard i).acked q.serial = true) (room : p.present.length < cap) :
    ∃ e, e.key = q.key ∧ e.payload = q.payload ∧ (p.linearize cap time i).shard i =
      { p.shard i with pend := rest, elems := (p.shard i).elems ++ [e], puts := (p.shard i).puts + 1 } := by
  unfold Pool.linearize
  simp only [oldest, acked, room, decide_true, Bool.and_self, if_true]
  rw [Pool.shard_insert, Pool.shard_modShard_same]
  exact ⟨_, rfl, rfl, rfl⟩

theorem Pool.linearize_waits {p : Pool} {cap time i : Nat} {q : PendPut} {rest : List PendPut}
    (oldest : (p.shard i).pend = q :: rest) (waits : (p.shard i).acked q.serial = false ∨ cap ≤ p.present.length) :
    p.linearize cap time i = p := by
  unfold Pool.linearize
  simp only [oldest]
  rw [if_neg]
  simpa [imp_iff_not_or] using waits

end Machine
end Sys2Proof
end

section
/-! CERTIFICATE. Pools (O52): the instructions, what a take may return, and the events of a pool. -/

namespace Sys2Proof.Machine

/-! ### What a take may return (R79, R81, R82) -/

/-- What a shard admits (R79). -/
theorem Pool.admitted_spec {p : Pool} {n i : Nat} {e : Elem} (admits : p.admitted n i = some e) :
    p.bound ≠ 1 ∧ bestElem (p.shard i).present = some e ∧ (∀ x ∈ p.present, p.aged x = false) ∧
    ∀ j < n, j ≠ i → ∃ m : Summary, (j, m) ∈ (p.shard i).seen ∧ beforeBar e m.bar = true := by
  unfold Pool.admitted at admits
  split at admits
  · cases admits
  · next best =>
    split at admits
    · next checks =>
      cases admits
      obtain ⟨loose, young, bars⟩ := checks
      refine ⟨loose, best, by simpa using young, fun j hj other => ?_⟩
      have bar := List.all_eq_true.1 bars j (by simpa [upTo] using ⟨hj, other⟩)
      obtain ⟨-, bar⟩ := (Bool.and_eq_true _ _).mp bar
      split at bar
      · next m seen =>
        obtain ⟨x, listed, named⟩ := List.mem_map.1 (Sparse.mem_of_get seen nofun)
        obtain ⟨rfl, same⟩ := Prod.mk.inj named
        cases same
        exact ⟨x.2, listed, bar⟩
      · cases bar
    · cases admits

/-- R74, R79, R81, R82: what a shard and what the arbiter may return. -/
theorem poolTakesBest : Claims.PoolTakesBest := by
  refine ⟨fun p n i e admits => ?_, fun p e served => ?_⟩
  · obtain ⟨loose, best, young, bars⟩ := Pool.admitted_spec admits
    obtain ⟨mem, least⟩ := bestElem_spec best
    refine ⟨loose, mem, least, young, fun j hj other => ?_⟩
    obtain ⟨m, seen, before⟩ := bars j hj other
    exact ⟨m, seen, fun b bar => by simpa [beforeBar, bar] using before⟩
  · obtain ⟨mem, least⟩ := bestElem_spec (show bestElem p.eligible = some e from served)
    by_cases old : ∃ x ∈ p.present, p.aged x = true
    · obtain ⟨present, aged, oldest⟩ := Pool.mem_eligible_of_aged old mem
      obtain ⟨x, hx, ax⟩ := old
      exact ⟨present, fun young => absurd (young x hx) (by simp [ax]), fun _ => ⟨aged, oldest⟩⟩
    · have young : ∀ x ∈ p.present, p.aged x = false := by simpa using old
      rw [Pool.eligible_of_young young] at mem least
      exact ⟨mem, fun _ => least, fun some => absurd some old⟩

/-! ### The instructions (R321 to R323) -/

@[simp] theorem State.poolBusy_started (s : State) (srcs : List SReg) (n : Nat) :
    (s.started srcs).poolBusy n = s.poolBusy n := rfl

@[simp] theorem State.myShard_started (s : State) (srcs : List SReg) : (s.started srcs).myShard = s.myShard := rfl
@[simp] theorem State.k_started (s : State) (srcs : List SReg) : (s.started srcs).k = s.k := rfl
@[simp] theorem State.time_started (s : State) (srcs : List SReg) : (s.started srcs).time = s.time := rfl

section
variable {d a : SReg} {imm : Word} {s : State}

/-- pput once it begins (R321). -/
theorem execPput_started (begins : s.canBegin [d, a] [] = true) :
    let n := imm.toNat
    let u := s.started [d, a]
    execPput d a imm s = .next (
      if s.poolsPer ≤ n then u.illegal
      else if n = 0 then u.fault 0x000E
      else if s.rd d = BitVec.allOnes 64 then u.fault 0x0010
      else if s.poolBusy n then u
      else if s.mine.desc.poolCap.toNat ≤ (s.getPool s.part n).places then u.fault 0x0011
      else (u.modPool s.part n fun p =>
        p.put s.k s.time.toNat s.myShard (s.rd d) (s.rd a) s.core s.ctx).retire) := by
  unfold execPput
  rw [State.system_started rfl begins]
  simp only [State.rd_started, State.poolsPer_started, State.poolBusy_started, State.started_mine, State.started_part,
    State.getPool_started, State.k_started, State.time_started, State.myShard_started, State.started_core,
    State.started_ctx, ones64]

/-- The takes once they begin (R322). -/
theorem execPtake_started (unbound : [d, a].any s.isBound = false) (begins : s.canBegin [] [d, a] = true) :
    let n := imm.toNat
    let u := s.started []
    execPtake d a imm s =
      .next (if s.poolsPer ≤ n then u.illegal else if s.poolBusy n then u else u.take d a n false) ∧
    execPtakeW d a imm s =
      .next (if s.poolsPer ≤ n then u.illegal else if s.poolBusy n then u else u.take d a n true) := by
  have allowed : s.sysBarred false [d, a] = false := by simpa [State.sysBarred] using unbound
  unfold execPtake execPtakeW
  rw [State.system_started allowed begins, State.system_started allowed begins]
  exact ⟨rfl, rfl⟩

/-- pcancel once it begins (R323). -/
theorem execPcancel_started (unbound : s.isBound d = false) (begins : s.canBegin [a] [d] = true) :
    let n := imm.toNat
    let u := s.started [a]
    let hits := (s.getPool s.part n).present.filter fun e => e.payload == s.rd a
    execPcancel d a imm s = .next (
      if s.poolsPer ≤ n then u.illegal
      else if n = 0 then u.fault 0x000E
      else if s.poolBusy n then u
      else (u.modPool s.part n fun _ => hits.foldl Pool.remove (s.getPool s.part n)).result d
        (BitVec.ofNat 64 hits.length)) := by
  unfold execPcancel
  rw [State.system_started (by simp [State.sysBarred, unbound]) begins]
  simp only [State.rd_started, State.poolsPer_started, State.poolBusy_started, State.started_part,
    State.getPool_started, Pool.cancelTag]

end

/-- A take that the own shard admits returns the element at once (R79). -/
theorem State.take_admitted {s : State} {d a : SReg} {n : Nat} {w : Bool} {e : Elem}
    (admits : (s.getPool s.part n).admitted s.k s.myShard = some e) :
    s.take d a n w = ((s.modPool s.part n fun p => p.taken e).takeWrite
      { core := s.core, ctx := s.ctx, d := d, a := a, waits := w, live := true } e.key e.payload).retire := by
  unfold State.take
  simp only [admits]

/-- The acting context's take joins the arbiter's queue. -/
def State.askArbiter (s : State) (d a : SReg) (n : Nat) (w : Bool) : State :=
  s.modPool s.part n fun p =>
    { p with arb := p.arb ++ [{ core := s.core, ctx := s.ctx, d := d, a := a, waits := w, live := true }] }

/-- A take that the own shard does not admit asks the arbiter; ptake.w waits, of an empty pool without asking (R81). -/
theorem State.take_refused {s : State} {d a : SReg} {n : Nat}
    (refuses : (s.getPool s.part n).admitted s.k s.myShard = none) :
    s.take d a n false = (s.askArbiter d a n false).retire ∧
    ((s.getPool s.part n).present ≠ [] → s.take d a n true = (s.askArbiter d a n true).waitOn (.pool n) none) ∧
    ((s.getPool s.part n).present = [] → s.take d a n true = s.waitOn (.pool n) none) := by
  unfold State.take
  simp only [refuses]
  refine ⟨rfl, fun some => ?_, fun none => ?_⟩
  · exact (if_neg (by simpa using some)).trans (if_pos trivial)
  · rw [if_pos (by simp [none])]

/-- R321 to R323: each instruction once it begins, by its checks. -/
theorem poolInstructions : Claims.PoolInstructions := by
  intro d a imm s n p
  refine ⟨fun begins => ?_, fun absent => ⟨fun unbound begins => ?_, fun unbound begins => ?_⟩,
    fun unbound begins has zero => ?_, fun unbound begins has free => ?_, fun unbound begins has some free => ?_⟩
  · intro u
    rw [show exec (.pput d a imm) s = execPput d a imm s from rfl, execPput_started begins]
    refine ⟨fun absent => ?_, fun has zero => ?_, fun has some ones => ?_, fun has some key free full => ?_,
      fun has some key free room => ?_⟩
    · rw [if_pos absent]
    · rw [if_neg has.not_ge, if_pos zero]
    · rw [if_neg has.not_ge, if_neg some, if_pos ones]
    · rw [if_neg has.not_ge, if_neg some, if_neg key, if_neg (by simp [n, free]), if_pos full]
    · rw [if_neg has.not_ge, if_neg some, if_neg key, if_neg (by simp [n, free]), if_neg room.not_ge]
  · obtain ⟨take, takeW⟩ := execPtake_started (imm := imm) unbound begins
    rw [if_pos absent] at take takeW
    exact ⟨take, takeW⟩
  · exact (execPcancel_started unbound begins).trans (by rw [if_pos absent])
  · exact (execPcancel_started unbound begins).trans (by rw [if_neg has.not_ge, if_pos zero])
  · intro u ask
    obtain ⟨take, takeW⟩ := execPtake_started (imm := imm) unbound begins
    rw [if_neg has.not_ge, if_neg (by simp [n, free])] at take takeW
    refine ⟨fun e admits => ?_, fun refuses => ?_⟩
    · rw [State.take_admitted (s := s.started []) admits] at take takeW
      exact ⟨take, takeW⟩
    · obtain ⟨asks, waits, empty⟩ := State.take_refused (s := s.started []) (d := d) (a := a) refuses
      exact ⟨take.trans (congrArg _ asks), fun h => takeW.trans (congrArg _ (waits h)),
        fun h => takeW.trans (congrArg _ (empty h))⟩
  · refine (execPcancel_started unbound begins).trans ?_
    rw [if_neg has.not_ge, if_neg some, if_neg (by simp [n, free])]

/-! ### The events (R78 to R81) -/

/-- The write of a take's result leaves the acting context the acting one. -/
theorem State.takeWrite_acting (s : State) (r : ArbReq) (key payload : Word) :
    (s.takeWrite r key payload).core = s.core ∧ (s.takeWrite r key payload).ctx = s.ctx := by
  unfold State.takeWrite
  split <;> exact ⟨rfl, rfl⟩

section
variable {part pool : Nat} {s : State} {r : ArbReq}

/-- The arbiter serves its oldest request with the element that it returns (R81). -/
theorem execPoolArbiterTake_served {e : Elem} (still : (s.getPool part pool).sweep = none)
    (oldest : (s.getPool part pool).arb.find? (fun r => !s.heldTake r) = some r)
    (served : (s.getPool part pool).arbitrate = some e) :
    let t := (s.modPool part pool fun p => { p.taken e with arb := p.arb.erase r }).takeWrite r e.key e.payload
    execPoolArbiterTake part pool s =
      .next (if r.waits && r.live then ((t.on r.core r.ctx).retire).on s.core s.ctx else t) := by
  unfold execPoolArbiterTake
  obtain ⟨core, ctx⟩ := State.takeWrite_acting
    (s.modPool part pool fun p => { p.taken e with arb := p.arb.erase r }) r e.key e.payload
  simp only [still, oldest, served, core, ctx, Option.isSome_none, Bool.false_eq_true, if_false]
  rfl

/-- The arbiter finds the pool empty: a waiting take goes on waiting, any other begins a sweep (R81). -/
theorem execPoolArbiterTake_empty (still : (s.getPool part pool).sweep = none)
    (oldest : (s.getPool part pool).arb.find? (fun r => !s.heldTake r) = some r)
    (empty : (s.getPool part pool).arbitrate = none) :
    execPoolArbiterTake part pool s =
      .next (if r.waits then s.modPool part pool fun p => { p with arb := p.arb.erase r }
        else s.modPool part pool fun p =>
          { p with arb := r :: p.arb.erase r, sweep := some ((upTo s.k).map fun i => (i, (p.shard i).puts)) }) := by
  unfold execPoolArbiterTake
  simp only [still, oldest, empty, Option.isSome_none, Bool.false_eq_true, if_false]

/-- The second phase of a sweep (R81). -/
theorem execPoolEmptinessSweep_swept {rest : List ArbReq} {puts : List (Nat × Nat)}
    (swept : (s.getPool part pool).sweep = some puts) (first : (s.getPool part pool).arb = r :: rest) :
    let u := s.modPool part pool fun p => { p with sweep := none }
    execPoolEmptinessSweep part pool s =
      .next (if (s.getPool part pool).present = [] ∧ ∀ x ∈ puts, ((s.getPool part pool).shard x.1).puts = x.2 then
        (u.modPool part pool fun p => { p with arb := rest }).takeWrite r (BitVec.allOnes 64) 0 else u) := by
  unfold execPoolEmptinessSweep
  simp only [swept, first, ones64]
  exact congrArg _ (if_congr (by simp) rfl rfl)

end

/-- R78 to R81: each event of a pool by what its shards and its arbiter hold. -/
theorem poolEvents : Claims.PoolEvents := by
  intro part pool s p
  refine ⟨fun i => ?_, fun i j => ?_, fun i q rest oldest => ?_, fun i j hi hj apart => ?_,
    fun r e still oldest served waits => ?_, fun r e still oldest served waits live => ?_,
    fun r still oldest empty waits => ?_, fun r still oldest empty waits => ?_, fun r rest puts swept first => ?_⟩
  · show Host.Outcome.next _ = _
    simp only [State.hasShard, decide_eq_true_eq]
  · refine ⟨_, rfl, fun m other oldest => ?_⟩
    obtain ⟨left, seen⟩ := Pool.ack_spec other oldest
    rw [State.getPool_modPool_same, left, seen]
    exact ⟨rfl, Sparse.has_set_same _ _ _, fun x => Sparse.get_set_same _ _ _ _⟩
  · refine ⟨_, rfl, fun acked room => ?_, fun waits => ?_⟩
    · obtain ⟨e, key, payload, shard⟩ := Pool.linearize_due (time := s.time.toNat) oldest acked room
      rw [State.getPool_modPool_same, shard]
      exact ⟨rfl, rfl, e, rfl, key, payload⟩
    · rw [State.getPool_modPool_same, Pool.linearize_waits oldest waits]
  · show Host.Outcome.next _ = _
    rw [if_pos (by simp [State.hasShard, hi, hj, apart])]
  · exact (execPoolArbiterTake_served still oldest served).trans (by simp [waits])
  · exact (execPoolArbiterTake_served still oldest served).trans (by simp [waits, live])
  · exact (execPoolArbiterTake_empty still oldest empty).trans (by rw [if_pos waits])
  · exact (execPoolArbiterTake_empty still oldest empty).trans (by simp [waits, upTo])
  · intro u quiet
    have ends := execPoolEmptinessSweep_swept swept first
    exact ⟨fun h => ends.trans (by rw [if_pos h]), fun h => ends.trans (by rw [if_neg h])⟩

/-- Settles O52: the instructions by their checks, a take by the order of the ranks, the events by what they change. -/
theorem pools : Obligations.Pools := ⟨poolInstructions, poolTakesBest, poolEvents⟩

end Sys2Proof.Machine
end

section
/-! SUPPORT. What the graph engine's operations leave alone: records alone when it writes back, nothing but graphs, pools
and the log when it changes nodes, and no graph when a launch is stopped (R32, R65 to R71, R435). -/

namespace Sys2Proof.Machine

/-! ### Records (R376, R377, R435) -/

namespace State.Recorded
variable {s t : State} {part slot i : Nat}

theorem engWrite {k : RecKind} {va : Word} {bs : List Byte} (h : Recorded s t) : Recorded s (t.engWrite part k va bs) := by
  unfold State.engWrite
  split
  · exact h.engFail
  · exact h.foldl _ fun hv => hv.writeLlc

theorem writeNode (h : Recorded s t) : Recorded s (t.writeNode part slot i) := by
  unfold State.writeNode
  exact h.engPatch

theorem writeGraph (h : Recorded s t) : Recorded s (t.writeGraph part slot) := by
  unfold State.writeGraph
  exact h.engPatch.engWrite

end State.Recorded

/-! ### What stays when graphs, pools and the log change -/

/-- `t` is `s` after work of the graph engine on its graphs and pools: of the cores nothing differs, and of each
partition its graphs, its pools and its log alone. -/
structure State.GraphWork (s t : State) : Prop where
  cores : t.cores = s.cores
  cut : t.cut = s.cut
  part : ∀ p, ∃ graphs pools log, t.getPart p = { s.getPart p with graphs := graphs, pools := pools, log := log }

namespace State.GraphWork
variable {s t u : State} {part slot i p : Nat}

theorem refl (s : State) : GraphWork s s := ⟨rfl, rfl, fun _ => ⟨_, _, _, rfl⟩⟩

theorem recorded (h : GraphWork s t) (r : t.Recorded u) : GraphWork s u := by
  refine ⟨r.cores.trans h.cores, r.cut.trans h.cut, fun p => ?_⟩
  obtain ⟨graphs, pools, log, e⟩ := h.part p
  obtain ⟨log', e'⟩ := r.part p
  exact ⟨graphs, pools, log', by rw [e', e]⟩

/-- A change of a partition's graphs and pools. -/
theorem modPart {f : Part → Part} (h : GraphWork s t)
    (only : ∃ graphs pools, f (t.getPart p) = { t.getPart p with graphs := graphs, pools := pools }) :
    GraphWork s (t.modPart p f) := by
  refine ⟨h.cores, h.cut, fun q => ?_⟩
  obtain ⟨graphs, pools, log, e⟩ := h.part q
  rw [State.getPart_modPart]
  split
  · next same =>
    subst same
    obtain ⟨graphs', pools', e'⟩ := only
    exact ⟨graphs', pools', log, by rw [e', e]⟩
  · exact ⟨graphs, pools, log, e⟩

theorem foldl {α : Type} {f : State → α → State} (l : List α) (h : GraphWork s t)
    (hf : ∀ {v : State} {a : α}, GraphWork s v → GraphWork s (f v a)) : GraphWork s (l.foldl f t) :=
  List.foldlRecOn l f h fun _ hv _ _ => hf hv

theorem modGraph {f : Graph → Graph} (h : GraphWork s t) : GraphWork s (t.modGraph p i f) := h.modPart ⟨_, _, rfl⟩
theorem modPool {f : Pool → Pool} (h : GraphWork s t) : GraphWork s (t.modPool p i f) := h.modPart ⟨_, _, rfl⟩
theorem writeGraph (h : GraphWork s t) : GraphWork s (t.writeGraph part slot) :=
  h.recorded (State.Recorded.refl t).writeGraph
theorem modNode {f : Node → Node} (h : GraphWork s t) : GraphWork s (t.modNode part slot i f) :=
  h.modGraph.recorded (State.Recorded.refl _).writeNode
theorem putNode {key tag : Word} (h : GraphWork s t) : GraphWork s (t.putNode part key tag) := by
  unfold State.putNode
  exact h.modPool

theorem token (h : GraphWork s t) : GraphWork s (t.token part slot i) := by
  unfold State.token
  dsimp only
  split
  · split
    · exact h.modNode.putNode
    · exact h.modNode
  · exact h

theorem backlog (h : GraphWork s t) (p : Nat) : (t.getPart p).backlog = (s.getPart p).backlog := by
  obtain ⟨_, _, _, e⟩ := h.part p; rw [e]
theorem held (h : GraphWork s t) (p : Nat) : (t.getPart p).held = (s.getPart p).held := by
  obtain ⟨_, _, _, e⟩ := h.part p; rw [e]
theorem stats (h : GraphWork s t) (p : Nat) : (t.getPart p).stats = (s.getPart p).stats := by
  obtain ⟨_, _, _, e⟩ := h.part p; rw [e]

/-- Which event of a graph comes next is not changed (R72). -/
theorem faultNext (h : GraphWork s t) (p slot : Nat) : t.faultNext p slot = s.faultNext p slot := by
  unfold State.faultNext
  rw [h.backlog]

end State.GraphWork

/-! ### What changes no graph -/

/-- No graph of `t` differs from the one of `s`. -/
def State.SameGraphs (s t : State) : Prop := ∀ p, (t.getPart p).graphs = (s.getPart p).graphs

namespace State.SameGraphs
variable {s t u : State} {part core p i : Nat}

theorem refl (s : State) : SameGraphs s s := fun _ => rfl

theorem getGraph (h : SameGraphs s t) (p i : Nat) : t.getGraph p i = s.getGraph p i := by
  rw [State.getGraph, h p]
  rfl

theorem ite {c : Prop} [Decidable c] (h : SameGraphs s t) (h' : SameGraphs s u) : SameGraphs s (if c then t else u) := by
  split
  · exact h
  · exact h'

/-- A change that leaves the partitions as they are. -/
theorem frame (h : SameGraphs s t) (parts : u.parts = t.parts) : SameGraphs s u := fun p => by
  rw [State.getPart, parts]
  exact h p

theorem recorded (h : SameGraphs s t) (r : t.Recorded u) : SameGraphs s u := fun p => by
  obtain ⟨_, e⟩ := r.part p
  rw [e]
  exact h p

theorem modPart {f : Part → Part} (h : SameGraphs s t) (keeps : (f (t.getPart p)).graphs = (t.getPart p).graphs) :
    SameGraphs s (t.modPart p f) := fun q => by
  rw [State.getPart_modPart]
  split
  · next same => subst same; exact keeps.trans (h q)
  · exact h q

theorem foldl {α : Type} {f : State → α → State} (l : List α) (h : SameGraphs s t)
    (hf : ∀ {v : State} {a : α}, SameGraphs s v → SameGraphs s (f v a)) : SameGraphs s (l.foldl f t) :=
  List.foldlRecOn l f h fun _ hv _ _ => hf hv

theorem modCore {f : Core → Core} (h : SameGraphs s t) : SameGraphs s (t.modCore core f) := h.frame rfl
theorem modCtx {k : Nat} {f : Ctx → Ctx} (h : SameGraphs s t) : SameGraphs s (t.modCtx core k f) := h.frame rfl
theorem modDie {d : Nat} {f : Die → Die} (h : SameGraphs s t) : SameGraphs s (t.modDie d f) := h.frame rfl
theorem modGrove {g : Nat} {f : Grove → Grove} (h : SameGraphs s t) : SameGraphs s (t.modGrove g f) := h.frame rfl
theorem modPool {f : Pool → Pool} (h : SameGraphs s t) : SameGraphs s (t.modPool p i f) := h.modPart rfl
theorem modLaunch {f : Launch → Launch} (h : SameGraphs s t) : SameGraphs s (t.modLaunch p i f) := h.modPart rfl
theorem modJob {f : Job → Job} (h : SameGraphs s t) : SameGraphs s (t.modJob p f) := h.modPart rfl
theorem logPart {kind code d0 d1 : Nat} (h : SameGraphs s t) : SameGraphs s (t.logPart p kind code d0 d1) := h.modPart rfl
theorem count {f : Stats → Stats} (h : SameGraphs s t) : SameGraphs s (t.count p f) :=
  (h.modPart (f := fun x => { x with stats := f x.stats }) rfl).frame rfl
theorem putNode {key tag : Word} (h : SameGraphs s t) : SameGraphs s (t.putNode p key tag) := h.modPool
theorem cancelNode {tag : Word} (h : SameGraphs s t) : SameGraphs s (t.cancelNode p tag) := h.modPool

/-! A launch that is stopped (R30 to R32) -/

theorem launchBack (h : SameGraphs s t) : SameGraphs s (t.launchBack part i) :=
  h.recorded (State.Recorded.refl t).launchBack
theorem report {e : GraphEvent} (h : SameGraphs s t) : SameGraphs s (t.report p e) := h.modPart (by split <;> rfl)
theorem freeEps (h : SameGraphs s t) : SameGraphs s (t.freeEps part i) := h.foldl _ fun hv => .ite hv.modCore hv

theorem unitOver {cancelled : Bool} (h : SameGraphs s t) : SameGraphs s (t.unitOver part i core cancelled) := by
  unfold State.unitOver
  exact (State.SameGraphs.ite
    (.ite h.modLaunch.freeEps (.ite h.modLaunch.freeEps.modLaunch.report h.modLaunch.freeEps.modLaunch))
    h.modLaunch).launchBack

theorem countFault {code : BitVec 16} (h : SameGraphs s t) : SameGraphs s (t.countFault part i code) :=
  h.modLaunch.launchBack.count

theorem logLate {seq code : BitVec 16} (h : SameGraphs s t) : SameGraphs s (t.logLate core seq code) := h.logPart

theorem flushEntry {q : QEntry} (h : SameGraphs s t) : SameGraphs s (t.flushEntry core q) := .ite h (h.frame rfl)

theorem dropEntries {f : QEntry → Bool} (h : SameGraphs s t) : SameGraphs s (t.dropEntries core f) := by
  unfold State.dropEntries
  exact (h.foldl _ fun hv => .ite hv.flushEntry hv).modCore

theorem leaveWait {ctx : Nat} (h : SameGraphs s t) : SameGraphs s (t.leaveWait core ctx) := by
  unfold State.leaveWait
  refine modCtx ?_
  split
  · exact h.dropEntries.modCore
  · exact h.modPool
  · exact h

theorem stopContexts (h : SameGraphs s t) : SameGraphs s (t.stopContexts core) :=
  ((h.foldl _ fun hv => hv.leaveWait).foldl _ fun hv => hv.modCtx).modCtx

theorem stopMatrix {unit : Nat} (h : SameGraphs s t) : SameGraphs s (t.stopMatrix core unit) := by
  unfold State.stopMatrix
  split
  · exact h
  · exact (h.foldl _ fun hv => .ite hv.flushEntry hv).modGrove

theorem stopCopies {unit : Nat} (h : SameGraphs s t) : SameGraphs s (t.stopCopies core unit) :=
  h.modCore.foldl _ fun hv => hv.frame rfl

theorem endClaim (h : SameGraphs s t) : SameGraphs s (t.endClaim core) := by
  unfold State.endClaim
  refine modCore (modDie ?_)
  exact .ite (h.frame rfl) h

theorem unbindAll (h : SameGraphs s t) : SameGraphs s (t.unbindAll core) := h.foldl _ fun hv => hv.modCtx
theorem withdrawArrivals (h : SameGraphs s t) : SameGraphs s (t.withdrawArrivals core) := h.foldl _ fun hv => hv.modDie

theorem stopUnit (h : SameGraphs s t) : SameGraphs s (t.stopUnit core) := by
  unfold State.stopUnit
  extract_lets c
  split
  · exact h
  · next part s₁ s₂ s₃ s₄ owed s₅ s₆ s₇ s₈ _ _ _ =>
    have h₄ : SameGraphs s s₄ := h.stopContexts.dropEntries.stopMatrix.stopCopies.modCore
    have h₅ : SameGraphs s s₅ := .ite h₄ h₄.modGrove
    have h₆ : SameGraphs s s₆ := .ite h₅ h₅.endClaim
    have h₈ : SameGraphs s s₈ := h₆.unbindAll.withdrawArrivals.modPart rfl
    split
    · exact h₈.foldl _ fun hv => hv.logLate
    · exact (h₈.foldl _ fun hv => hv.countFault).unitOver

theorem cancelUnit (h : SameGraphs s t) : SameGraphs s (t.cancelUnit core) := .ite h.modCore h.stopUnit

theorem cancelRecord (h : SameGraphs s t) : SameGraphs s (t.cancelRecord part i core) := by
  unfold State.cancelRecord
  dsimp only
  split
  · next slot =>
    exact .ite (h.frame (t.perform_markPiece core _ (Core.slotOf_lt slot)).1).unitOver (h.modPart rfl)
  · exact (h.modPart rfl).unitOver

/-- A cancel of a launch changes no graph. -/
theorem stopLaunch (h : SameGraphs s t) : SameGraphs s (t.stopLaunch part i) := by
  unfold State.stopLaunch
  refine .ite h (.ite h.modLaunch.modLaunch.launchBack (h.modLaunch.foldl _ fun hv => ?_))
  dsimp only
  split
  · exact .ite hv.cancelUnit hv.cancelRecord
  · exact hv.cancelRecord

/-! The end of a phase (R380, R381) -/

theorem signal {sig code : BitVec 16} {level obj root nodes : Nat} {cancelled : Bool} (h : SameGraphs s t) :
    SameGraphs s (t.signal part sig level obj cancelled code root nodes) := h.recorded (State.Recorded.refl t).signal
theorem engPatch {k : RecKind} {va : Word} {n : Nat} {f : Nat → Nat} (h : SameGraphs s t) :
    SameGraphs s (t.engPatch part k va n f) := h.recorded (State.Recorded.refl t).engPatch

theorem jobEnd (h : SameGraphs s t) : SameGraphs s (t.jobEnd part) := .ite h.modJob.signal h

theorem phaseEnd (h : SameGraphs s t) : SameGraphs s (t.phaseEnd part p) := by
  unfold State.phaseEnd
  exact .ite h.modJob.engPatch.signal.modJob.engPatch.jobEnd h

theorem phaseLeft {n : Nat} (h : SameGraphs s t) : SameGraphs s (t.phaseLeft part p n) := by
  unfold State.phaseLeft
  exact h.modJob.engPatch

theorem phaseDrain (h : SameGraphs s t) : SameGraphs s (t.phaseDrain part p) := .ite h.phaseLeft.phaseEnd h

end State.SameGraphs
end Sys2Proof.Machine
end

section
/-! SUPPORT. What each operation of the graph engine makes of the graph it works on: a node set, a launch noted, a walk
begun, a graph cancelled (R65 to R72). -/

namespace Sys2Proof.Machine

/-! ### Nodes of a graph -/

/-- The graph with another node at an index. -/
def Graph.setNode (g : Graph) (i : Nat) (n : Node) : Graph := { g with nodes := g.nodes.set i n }

@[simp] theorem Graph.setNode_frame (g : Graph) (i : Nat) (n : Node) :
    (g.setNode i n).n = g.n ∧ (g.setNode i n).phase = g.phase ∧ (g.setNode i n).root = g.root ∧
    (g.setNode i n).next = g.next ∧ (g.setNode i n).merge = g.merge ∧ (g.setNode i n).retries = g.retries ∧
    (g.setNode i n).cancel = g.cancel ∧ (g.setNode i n).cancelled = g.cancelled := by and_intros <;> rfl

@[simp] theorem Graph.node_setNode_same (g : Graph) (i : Nat) (n : Node) : (g.setNode i n).node i = n :=
  Sparse.get_set_same _ _ _ _

theorem Graph.node_setNode_other (g : Graph) {i j : Nat} (n : Node) (h : j ≠ i) : (g.setNode i n).node j = g.node j :=
  Sparse.get_set_other _ _ _ _ _ h

/-! ### One operation -/

section
variable (s : State) (part slot i p j : Nat)

@[simp] theorem State.getGraph_writeNode : (s.writeNode part slot i).getGraph p j = s.getGraph p j :=
  ((State.SameGraphs.refl s).recorded (State.Recorded.refl s).writeNode).getGraph p j
@[simp] theorem State.getGraph_writeGraph : (s.writeGraph part slot).getGraph p j = s.getGraph p j :=
  ((State.SameGraphs.refl s).recorded (State.Recorded.refl s).writeGraph).getGraph p j
@[simp] theorem State.getGraph_putNode (key tag : Word) : (s.putNode part key tag).getGraph p j = s.getGraph p j :=
  (State.SameGraphs.refl s).putNode.getGraph p j
@[simp] theorem State.getGraph_count (f : Stats → Stats) : (s.count part f).getGraph p j = s.getGraph p j :=
  (State.SameGraphs.refl s).count.getGraph p j

@[simp] theorem State.getGraph_modNode (f : Node → Node) :
    (s.modNode part slot i f).getGraph part slot =
      (s.getGraph part slot).setNode i (f ((s.getGraph part slot).node i)) := by
  rw [State.modNode, State.getGraph_writeNode, State.getGraph_modGraph_same]
  rfl

/-- The node that a walk marks (R67). -/
theorem State.getGraph_mark :
    let g := s.getGraph part slot
    let n := g.node i
    ∃ l, (s.mark part slot i).getGraph part slot =
      { g with stopped := l }.setNode i { n with state := .cancelling, gen := n.gen + 1 } := by
  intro g n
  unfold State.mark
  extract_lets _ s₁ s₂ waits s₃
  have same₁ : s.SameGraphs s₁ := .ite (State.SameGraphs.refl s).cancelNode (.refl s)
  have same : s.SameGraphs s₂ := .ite same₁.stopLaunch same₁
  refine ⟨if waits then g.stopped ++ [(n.launch, n.gen)] else g.stopped, ?_⟩
  rw [State.getGraph_modNode, State.getGraph_modGraph_same, same.getGraph]
  rfl

/-- The predecessors of a node that are not done (R68). -/
def Graph.undone (g : Graph) (i : Nat) : Nat :=
  ((g.node i).preds.filter fun j => !((g.node j).state == .doneProvisional || (g.node j).state == .confirmed)).length

/-- The node that a recount leaves (R68). -/
theorem State.getGraph_recount :
    let g := s.getGraph part slot
    let n := g.node i
    (s.recount part slot i).getGraph part slot = g.setNode i
      { n with pending := g.undone i, ready := false, state := if g.undone i = 0 then .ready else .armed } := by
  intro g n
  unfold State.recount
  extract_lets p s₁ n₁
  have node : s₁.getGraph part slot = g.setNode i
      { n with pending := p, ready := false, state := if p = 0 then .ready else .armed } := State.getGraph_modNode _ _ _ _ _
  split
  · exact (State.getGraph_putNode _ _ _ _ _ _).trans node
  · exact node

theorem State.GraphWork.recount {s t : State} (h : s.GraphWork t) : s.GraphWork (t.recount part slot i) := by
  unfold State.recount
  dsimp only
  split
  · exact h.modNode.putNode
  · exact h.modNode

/-- A walk that starts (R67, R70). -/
theorem State.getGraph_startWalk (root : Nat) :
    let g := s.getGraph part slot
    let n := g.node root
    (s.startWalk part slot root).getGraph part slot =
      { g.setNode root { n with gen := n.gen + 1 } with
        walks := (g.walks + 1) % 2 ^ 32, phase := if root + 1 < g.n then .marking else .recount, root := root,
        next := if root + 1 < g.n then root + 1 else root, stopped := [(n.launch, n.gen)] } := by
  intro g n
  unfold State.startWalk
  rw [State.getGraph_modGraph_same, State.getGraph_count, State.getGraph_modNode]
  rfl

end

/-! ### The end of a walk (R72) -/

/-- The queued faults whose roots have not been re-fired since. -/
def Graph.liveFaults (g : Graph) : List (Nat × BitVec 20 × BitVec 16) :=
  g.merge.filter fun m => (g.node m.1).gen == m.2.1 && (g.node m.1).state == .faulted

section
variable {s : State} {part slot : Nat}

/-- With no live fault the engine is at rest. -/
theorem State.endWalk_rest (rest : (s.getGraph part slot).liveFaults = []) :
    s.endWalk part slot = s.modGraph part slot fun g => { g with phase := .idle, merge := [], stopped := [] } := by
  unfold State.endWalk
  dsimp only
  split
  · rfl
  · next m ms live => exact absurd (live.symm.trans rest) nofun

/-- The live fault with the lowest root starts the next walk. -/
theorem State.endWalk_starts (live : (s.getGraph part slot).liveFaults ≠ []) :
    ∃ lo ∈ (s.getGraph part slot).liveFaults, (∀ m ∈ (s.getGraph part slot).liveFaults, lo.1 ≤ m.1) ∧
      s.endWalk part slot = (s.modGraph part slot fun g =>
        { g with phase := .idle, merge := (s.getGraph part slot).liveFaults.erase lo }).startWalk part slot lo.1 := by
  unfold State.endWalk
  dsimp only
  split
  · next rest => exact absurd rest live
  · next m ms found =>
    obtain ⟨mem, least⟩ := foldl_least Prod.fst ms m
    have all : (s.getGraph part slot).liveFaults = m :: ms := found
    exact ⟨_, by rw [all]; exact mem, by rw [all]; exact least, rfl⟩

/-- The end of a walk counts no retry of the graph. -/
theorem State.retries_endWalk : ((s.endWalk part slot).getGraph part slot).retries = (s.getGraph part slot).retries := by
  by_cases live : (s.getGraph part slot).liveFaults = []
  · rw [State.endWalk_rest live, State.getGraph_modGraph_same]
  · obtain ⟨lo, -, -, starts⟩ := State.endWalk_starts live
    rw [starts, State.getGraph_startWalk, State.getGraph_modGraph_same]
    rfl

end

/-! ### A graph cancel (R71) -/

section
variable {s : State} {part slot i : Nat}

theorem State.cancelVisit_final (final : ((s.getGraph part slot).node i).final = true) :
    s.cancelVisit part slot i = s := by
  unfold State.cancelVisit
  exact if_pos final

/-- A node that is not final is cancelled and counted. -/
theorem State.cancelVisit_open (open_ : ((s.getGraph part slot).node i).final = false) :
    let g := s.getGraph part slot
    let n := g.node i
    ∃ l, (s.cancelVisit part slot i).getGraph part slot =
      { g with cancelled := g.cancelled + 1, draining := l }.setNode i { n with state := .cancelled } := by
  intro g n
  unfold State.cancelVisit
  extract_lets _ s₁ mine s₂ s₃
  have same₁ : s.SameGraphs s₁ := .ite (State.SameGraphs.refl s).cancelNode (.refl s)
  have same : s.SameGraphs s₂ := .ite same₁.stopLaunch same₁
  refine ⟨if n.state = .running ∨ n.state = .faulted then g.draining ++ [(n.launch, n.gen)] else g.draining, ?_⟩
  rw [if_neg (ne_true_of_eq_false open_), State.getGraph_modNode, State.getGraph_modGraph_same, same.getGraph]
  rfl

/-- The nodes below `k` that are not final, in ascending order. -/
def Graph.openBelow (g : Graph) (k : Nat) : List Nat := (List.range k).filter fun i => !(g.node i).final

theorem Graph.openBelow_succ (g : Graph) (k : Nat) :
    g.openBelow (k + 1) = g.openBelow k ++ if (g.node k).final then [] else [k] := by
  rw [Graph.openBelow, List.range_succ, List.filter_append]
  cases final : (g.node k).final <;> simp [Graph.openBelow, final]

/-- The visits of the nodes below `k` cancel those that are not final, and count them. -/
theorem State.getGraph_cancelVisits (s : State) (part slot k : Nat) :
    let g := s.getGraph part slot
    let t := ((List.range k).foldl (fun s i => s.cancelVisit part slot i) s).getGraph part slot
    t.cancel = g.cancel ∧ t.cancelled = g.cancelled + (g.openBelow k).length ∧
    ∀ i, (t.node i).state = if i < k ∧ (g.node i).final = false then .cancelled else (g.node i).state := by
  induction k with
  | zero => simp [Graph.openBelow]
  | succ k ih =>
    intro g t
    let u := (List.range k).foldl (fun s i => s.cancelVisit part slot i) s
    have last : t = (u.cancelVisit part slot k).getGraph part slot := by
      simp only [t, u, List.range_succ, List.foldl_append, List.foldl_cons, List.foldl_nil]
    obtain ⟨cancel, count, states⟩ := ih
    have final : ((u.getGraph part slot).node k).final = (g.node k).final := by
      rw [Node.final, (states k).trans (if_neg (by simp))]
      rfl
    rw [last, Graph.openBelow_succ]
    cases open_ : (g.node k).final with
    | true =>
      rw [State.cancelVisit_final (final.trans open_)]
      refine ⟨cancel, by simpa using count, fun i => (states i).trans (if_congr ?_ rfl rfl)⟩
      refine and_congr_left fun other => ⟨fun h => by omega, fun h => lt_of_le_of_ne (by omega) ?_⟩
      rintro rfl
      exact Bool.false_ne_true (other.symm.trans open_)
    | false =>
      obtain ⟨l, e⟩ := State.cancelVisit_open (final.trans open_)
      rw [e]
      refine ⟨cancel, ?_, fun i => ?_⟩
      · simp only [Graph.setNode_frame, Bool.false_eq_true, if_false, List.length_append, List.length_singleton]
        exact (congrArg (· + 1) count).trans (Nat.add_assoc _ _ _)
      · by_cases same : i = k
        · subst same
          simp [open_]
        · rw [Graph.node_setNode_other _ _ same]
          exact (states i).trans (if_congr (and_congr_left fun _ => by omega) rfl rfl)

end
end Sys2Proof.Machine
end

section
/-! CERTIFICATE. The steps of a cone walk and a graph cancel (O10). -/

namespace Sys2Proof.Machine

section
variable {s : State} {part slot : Nat}

/-! ### The end of a graph (R71, R380) -/

theorem State.getGraph_phaseCount {g : Graph} (before : s.getGraph part slot = g) :
    ∃ counted, (s.phaseCount part slot).getGraph part slot = { g with counted := counted } := by
  subst before
  unfold State.phaseCount
  dsimp only
  rw [(State.SameGraphs.refl _).phaseDrain.getGraph]
  split
  · split
    · rw [(State.SameGraphs.refl _).phaseLeft.phaseEnd.getGraph, State.getGraph_modGraph_same]
      exact ⟨true, rfl⟩
    · rw [State.getGraph_modGraph_same]
      exact ⟨true, rfl⟩
  · exact ⟨_, rfl⟩

/-- The end of a graph leaves its nodes and what a cancel has noted. -/
theorem State.getGraph_graphSettle :
    let g := s.getGraph part slot
    ∃ armed draining counted, (s.graphSettle part slot).getGraph part slot =
      { g with armed := armed, draining := draining, counted := counted } := by
  intro g
  unfold State.graphSettle
  dsimp only
  split
  · refine ⟨false, [], State.getGraph_phaseCount (g := { g with armed := false, draining := [] }) ?_⟩
    rw [(State.SameGraphs.refl _).signal.getGraph, State.getGraph_modGraph_same, State.getGraph_writeGraph]
  · rw [State.getGraph_writeGraph]
    exact ⟨_, _, _, rfl⟩

/-! ### A graph cancel (R71) -/

/-- The graph with a cancel noted, no node of it visited yet (R71). -/
def Graph.noteCancel (cause : BitVec 16) (root : BitVec 32) (g : Graph) : Graph :=
  { g with merge := [], phase := .idle, cancel := true, armed := true, cause := cause, causeRoot := root,
           root := if root = 0xFFFFFFFF then g.root else root.toNat, draining := g.draining ++ g.stopped, stopped := [] }

/-- A cancel of an armed graph notes the cancel and visits every node. -/
theorem State.cancelGraph_armed (left : (s.getGraph part slot).left ≠ 0) (armed : (s.getGraph part slot).armed = true) :
    s.cancelGraph part slot 0 0xFFFFFFFF false =
      ((List.range (s.getGraph part slot).n).foldl (fun s i => s.cancelVisit part slot i)
        (s.modGraph part slot (Graph.noteCancel 0 0xFFFFFFFF))).graphSettle part slot := by
  have some : (s.getGraph part slot).n ≠ 0 := fun none => left (by simp [Graph.left, none, upTo])
  have performed : ¬((s.getGraph part slot).n = 0 ∨ (s.getGraph part slot).left = 0 ∨
    (!((s.getGraph part slot).armed || false)) = true) := by simp [some, left, armed]
  unfold State.cancelGraph
  extract_lets g s₁ s₂ s₃
  rw [if_neg performed]
  have noted : s₂ = s.modGraph part slot (Graph.noteCancel 0 0xFFFFFFFF) := if_pos rfl
  rw [← noted]
  rfl

/-- What a cancel of an armed graph leaves of it. -/
theorem State.getGraph_cancelGraph (left : (s.getGraph part slot).left ≠ 0)
    (armed : (s.getGraph part slot).armed = true) :
    let g := s.getGraph part slot
    let t := (s.cancelGraph part slot 0 0xFFFFFFFF false).getGraph part slot
    t.cancel = true ∧ t.cancelled = g.cancelled + g.left ∧
    ∀ i < g.n, (t.node i).state = if (g.node i).final then (g.node i).state else .cancelled := by
  intro g t
  let noted := s.modGraph part slot (Graph.noteCancel 0 0xFFFFFFFF)
  obtain ⟨cancel, count, states⟩ := State.getGraph_cancelVisits noted part slot g.n
  obtain ⟨_, _, _, settled⟩ := State.getGraph_graphSettle (part := part) (slot := slot)
    (s := (List.range g.n).foldl (fun s i => s.cancelVisit part slot i) noted)
  rw [State.getGraph_modGraph_same] at cancel count states
  have after : t = _ := (congrArg (State.getGraph · part slot) (State.cancelGraph_armed left armed)).trans settled
  rw [after]
  refine ⟨cancel, count, fun i inside => (states i).trans ?_⟩
  show (if i < g.n ∧ (g.node i).final = false then _ else (g.node i).state) = _
  cases final : (g.node i).final <;> simp [inside]

/-- A cancel of a graph that is not armed has no effect (R33). -/
theorem State.cancelGraph_unarmed (armed : (s.getGraph part slot).armed = false) (cause : BitVec 16) (root : BitVec 32) :
    s.cancelGraph part slot cause root false = s := by
  unfold State.cancelGraph
  exact if_pos (.inr (.inr (by simp [armed])))

/-! ### The steps (R67, R68) -/

/-- The node that a walk comes to next is a member of the cone of its root (R67). -/
def Graph.inCone (g : Graph) : Bool :=
  ((g.node g.next).preds.any fun j => j == g.root || (g.node j).state == .cancelling) && !(g.node g.next).final

theorem Graph.inCone_iff (g : Graph) : g.inCone = true ↔
    (∃ j ∈ (g.node g.next).preds, j = g.root ∨ (g.node j).state = .cancelling) ∧
      (g.node g.next).state ≠ .confirmed ∧ (g.node g.next).state ≠ .cancelled := by
  simp [Graph.inCone, Node.final]

/-- A walk's marking goes on behind its next node, or ends. -/
def Graph.goOn (g : Graph) : Graph :=
  if g.next + 1 < g.n then { g with next := g.next + 1 } else { g with phase := .recount, next := g.root }

theorem Graph.node_goOn (g : Graph) (i : Nat) : g.goOn.node i = g.node i := by
  unfold Graph.goOn
  split <;> rfl

/-- A marking step that is due marks its node if that is of the cone, and goes on. -/
theorem execWalkMarkStep_due (marking : (s.getGraph part slot).phase = .marking)
    (replayed : (s.getPart part).replays = 0) :
    let g := s.getGraph part slot
    let n := g.node g.next
    ∃ t, execWalkMarkStep part slot s = .next t ∧
      (g.inCone = true → ∃ l, t.getGraph part slot =
        ({ g with stopped := l }.setNode g.next { n with state := .cancelling, gen := n.gen + 1 }).goOn) ∧
      (g.inCone = false → t.getGraph part slot = g.goOn) := by
  intro g n
  have due : ¬ (g.phase ≠ .marking ∨ 0 < (s.getPart part).replays) := by simp [g, marking, replayed]
  let u := if g.inCone then s.mark part slot g.next else s
  have step : execWalkMarkStep part slot s = .next ((u.modGraph part slot fun g' =>
      if g.next + 1 < g'.n then { g' with next := g.next + 1 }
      else { g' with phase := .recount, next := g'.root }).writeGraph part slot) := congrArg _ (if_neg due)
  refine ⟨_, step, fun member => ?_, fun other => ?_⟩
  · obtain ⟨l, marked⟩ := State.getGraph_mark s part slot g.next
    rw [State.getGraph_writeGraph, State.getGraph_modGraph_same, show u = _ from if_pos member, marked]
    exact ⟨l, rfl⟩
  · rw [State.getGraph_writeGraph, State.getGraph_modGraph_same, show u = s from if_neg (ne_true_of_eq_false other)]
    rfl

/-- The recount visits its next node, which is not the root: only a CANCELLING one is counted afresh (R68). -/
def State.recountNext (s : State) (part slot : Nat) : State :=
  if ((s.getGraph part slot).node (s.getGraph part slot).next).state = .cancelling then
    s.recount part slot (s.getGraph part slot).next
  else s

theorem State.recountNext_cancelling
    (cancelling : ((s.getGraph part slot).node (s.getGraph part slot).next).state = .cancelling) :
    s.recountNext part slot = s.recount part slot (s.getGraph part slot).next := if_pos cancelling

theorem State.recountNext_keeps (s : State) (part slot : Nat) :
    ((s.recountNext part slot).getGraph part slot).retries = (s.getGraph part slot).retries ∧
    ((s.recountNext part slot).getPart part).stats = (s.getPart part).stats := by
  unfold State.recountNext
  split
  · rw [State.getGraph_recount, ((State.GraphWork.refl s).recount part slot _).stats]
    exact ⟨rfl, rfl⟩
  · exact ⟨rfl, rfl⟩

/-- A recount step that is not the root's visits its node; behind the last one the walk is over. -/
theorem execWalkRecountStep_due (due : ¬ ((s.getGraph part slot).phase ≠ .recount ∨ 0 < (s.getPart part).replays ∨
      (!s.allDrained part (s.getGraph part slot).stopped) = true))
    (other : (s.getGraph part slot).next ≠ (s.getGraph part slot).root) :
    execWalkRecountStep part slot s =
      .next ((if (s.getGraph part slot).next + 1 < (s.getGraph part slot).n then
        (s.recountNext part slot).modGraph part slot fun g => { g with next := (s.getGraph part slot).next + 1 }
      else (s.recountNext part slot).walkOver part slot).writeGraph part slot) := by
  unfold execWalkRecountStep
  refine congrArg _ ((if_neg due).trans ((if_neg fun root => other root.1).trans ?_))
  dsimp only
  have visited : (if (s.getGraph part slot).next = (s.getGraph part slot).root ∨
        ((s.getGraph part slot).node (s.getGraph part slot).next).state = .cancelling then
      (if (s.getGraph part slot).next = (s.getGraph part slot).root then s.retry part slot else s).recount part slot
        (s.getGraph part slot).next
    else if (s.getGraph part slot).next = (s.getGraph part slot).root then s.retry part slot else s) =
      s.recountNext part slot := by
    rw [if_neg other]
    exact if_congr (or_iff_right other) rfl rfl
  rw [visited]

theorem State.getPart_count (s : State) (part : Nat) (f : Stats → Stats) :
    (s.count part f).getPart part = { s.getPart part with stats := f (s.getPart part).stats } :=
  s.getPart_modPart_same part fun p => { p with stats := f p.stats }

theorem State.stats_startWalk (s : State) (part slot root : Nat) :
    ((s.startWalk part slot root).getPart part).stats =
      { (s.getPart part).stats with walks := satAdd 64 (s.getPart part).stats.walks 1 } := by
  unfold State.startWalk
  dsimp only
  rw [(State.GraphWork.refl _).modGraph.stats, State.getPart_count]
  dsimp only
  rw [(State.GraphWork.refl s).modNode.stats]

/-- The end of a walk counts no retry of the partition. -/
theorem State.stats_endWalk (s : State) (part slot : Nat) :
    ((s.endWalk part slot).getPart part).stats.retries = (s.getPart part).stats.retries := by
  by_cases live : (s.getGraph part slot).liveFaults = []
  · rw [State.endWalk_rest live, (State.GraphWork.refl s).modGraph.stats]
  · obtain ⟨lo, -, -, starts⟩ := State.endWalk_starts live
    rw [starts, State.stats_startWalk, (State.GraphWork.refl s).modGraph.stats]

/-- The walk's last node counts the retry, for the graph and for the partition (R70, R429). -/
theorem State.walkOver_counts (s : State) (part slot : Nat) :
    ((s.walkOver part slot).getGraph part slot).retries = ((s.getGraph part slot).retries + 1) % 2 ^ 32 ∧
    ((s.walkOver part slot).getPart part).stats.retries = satAdd 64 (s.getPart part).stats.retries 1 := by
  unfold State.walkOver
  dsimp only
  rw [State.retries_endWalk, State.getGraph_modGraph_same, State.getGraph_count, State.stats_endWalk,
    (State.GraphWork.refl _).modGraph.stats, State.getPart_count]
  exact ⟨rfl, rfl⟩

theorem Graph.goOn_more {g : Graph} (more : g.next + 1 < g.n) : g.goOn = { g with next := g.next + 1 } := if_pos more
theorem Graph.goOn_last {g : Graph} (last : g.n ≤ g.next + 1) : g.goOn = { g with phase := .recount, next := g.root } :=
  if_neg last.not_gt

end
end Sys2Proof.Machine

namespace Sys2Proof
open Machine

/-- Settles O10: a marking step by the cone of its root, a recount step by its node, a cancel by its visits. -/
theorem walkSteps : Obligations.WalkSteps := by
  unfold Obligations.WalkSteps
  refine ⟨fun part slot s left => ⟨?_, ?_⟩, fun part slot s replayed => ?_, fun part slot s replayed => ?_,
    fun part slot s => ?_⟩
  · exact congrArg Host.Outcome.next (if_pos (.inr left))
  · exact congrArg Host.Outcome.next (if_pos (.inr (.inl left)))
  · intro g n member
    refine ⟨fun other => congrArg Host.Outcome.next (if_pos (.inl other)), fun marking => ?_⟩
    obtain ⟨t, step, inside, outside⟩ := execWalkMarkStep_due marking replayed
    have after : ∃ g' : Graph, t.getGraph part slot = g'.goOn ∧ g'.n = g.n ∧ g'.next = g.next ∧ g'.root = g.root ∧
        g'.phase = g.phase ∧ g'.node g.next =
          if g.inCone then { n with state := .cancelling, gen := n.gen + 1 } else n := by
      cases cone : g.inCone with
      | true =>
        obtain ⟨l, e⟩ := inside cone
        exact ⟨_, e, rfl, rfl, rfl, rfl, Graph.node_setNode_same _ _ _⟩
      | false => exact ⟨g, outside cone, rfl, rfl, rfl, rfl, rfl⟩
    obtain ⟨g', e, size, next, root, phase, node⟩ := after
    rw [← next, ← size]
    refine ⟨t, step, fun h => ?_, fun h => ?_, fun more => ?_, fun last => ?_⟩
    · rw [e, Graph.node_goOn, next, node, if_pos (g.inCone_iff.2 h)]
    · rw [e, Graph.node_goOn, next, node, if_neg fun inCone => h (g.inCone_iff.1 inCone)]
    · rw [e, Graph.goOn_more more]
      exact ⟨rfl, phase.trans marking⟩
    · rw [e, Graph.goOn_last last]
      exact ⟨root, rfl⟩
  · intro g n left
    have due (recount : g.phase = .recount) (drained : s.allDrained part g.stopped = true) :
        ¬ (g.phase ≠ .recount ∨ 0 < (s.getPart part).replays ∨ (!s.allDrained part g.stopped) = true) := by
      rw [drained, replayed]
      simp [recount]
    refine ⟨fun waits => congrArg Host.Outcome.next (if_pos ?_), fun recount drained root spent => ?_,
      fun recount drained other cancelling more => ?_, fun recount drained other last => ?_⟩
    · exact waits.imp_right fun h => .inr (by simpa using h)
    · exact congrArg Host.Outcome.next ((if_neg (due recount drained)).trans (if_pos ⟨root, spent⟩))
    · have step := execWalkRecountStep_due (due recount drained) other
      rw [if_pos more, State.recountNext_cancelling cancelling] at step
      refine ⟨_, step, ?_⟩
      rw [State.getGraph_writeGraph, State.getGraph_modGraph_same, State.getGraph_recount]
      exact ⟨rfl, Graph.node_setNode_same _ _ _⟩
    · have step := execWalkRecountStep_due (due recount drained) other
      rw [if_neg last.not_gt] at step
      obtain ⟨retries, stats⟩ := s.recountNext_keeps part slot
      obtain ⟨graph, counted⟩ := (s.recountNext part slot).walkOver_counts part slot
      refine ⟨_, step, ?_, ?_⟩
      · rw [State.getGraph_writeGraph, graph, retries]
      · rw [(State.GraphWork.refl _).writeGraph.stats, counted, stats]
        rfl
  · intro g
    refine ⟨fun none => congrArg Host.Outcome.next (if_pos none), fun some unarmed => ?_, fun some armed => ?_⟩
    · exact congrArg Host.Outcome.next ((if_neg some).trans (State.cancelGraph_unarmed unarmed _ _))
    · exact ⟨_, congrArg Host.Outcome.next (if_neg some), State.getGraph_cancelGraph some armed⟩

end Sys2Proof
end

section
/-! CERTIFICATE. What the graph engine does with tokens, reports and faults (O51). -/

namespace Sys2Proof.Machine

/-! ### Tokens (R61, R65) -/

/-- A node that a token has reached. -/
def Node.afterToken (n : Node) : Node :=
  if n.state = .armed then { n with pending := n.pending - 1, state := if n.pending ≤ 1 then .ready else .armed } else n

theorem Node.afterToken_armed {n : Node} (armed : n.state = .armed) :
    n.afterToken = { n with pending := n.pending - 1, state := if n.pending ≤ 1 then .ready else .armed } := if_pos armed
theorem Node.afterToken_other {n : Node} (other : n.state ≠ .armed) : n.afterToken = n := if_neg other

section
variable {s u : State} {part slot i : Nat} {n : Node} {tag : Word} {code : BitVec 16}

theorem State.token_other (other : ((s.getGraph part slot).node i).state ≠ .armed) :
    s.token part slot i = s := if_neg other

theorem State.node_token (s : State) (part slot i j : Nat) :
    ((s.token part slot i).getGraph part slot).node j =
      if j = i then ((s.getGraph part slot).node i).afterToken else (s.getGraph part slot).node j := by
  by_cases armed : ((s.getGraph part slot).node i).state = .armed
  · have set : (s.token part slot i).getGraph part slot =
        (s.getGraph part slot).setNode i ((s.getGraph part slot).node i).afterToken := by
      rw [State.token, if_pos armed, Node.afterToken_armed armed]
      dsimp only
      split
      · rw [State.getGraph_putNode, State.getGraph_modNode]
      · rw [State.getGraph_modNode]
    rw [set]
    split
    · next same => rw [same, Graph.node_setNode_same]
    · next apart => exact Graph.node_setNode_other _ _ apart
  · rw [State.token_other armed, Node.afterToken_other armed]
    split
    · next same => rw [same]
    · rfl

/-- Tokens that take their effect at once reach each node as often as it is named. -/
theorem State.node_tokens (s : State) (part slot : Nat) (l : List Nat) (j : Nat) :
    ((l.foldl (fun s j => s.token part slot j) s).getGraph part slot).node j =
      Node.afterToken^[l.count j] ((s.getGraph part slot).node j) := by
  induction l generalizing s with
  | nil => rfl
  | cons x l ih =>
    rw [List.foldl_cons, ih, State.node_token]
    by_cases same : j = x
    · subst same
      rw [if_pos rfl, List.count_cons_self, Function.iterate_succ_apply]
    · rw [if_neg same, List.count_cons_of_ne (Ne.symm same)]

/-! ### Reports (R62, R65) -/

/-- The node that a report names is the one of its tag. -/
theorem State.current_some (current : s.current part tag = some (slot, i, n)) :
    slot = bits tag.toNat 31 20 ∧ n = (s.getGraph part slot).node i := by
  unfold State.current at current
  dsimp only at current
  split at current
  · cases current
    exact ⟨rfl, rfl⟩
  · cases current

/-- The node whose launch is provisionally complete, before its tokens go out. -/
def State.provisional (s : State) (part slot i : Nat) : State :=
  (s.modNode part slot i fun n => { n with state := .doneProvisional }).writeGraph part slot

theorem State.getGraph_provisional (s : State) (part slot i : Nat) :
    (s.provisional part slot i).getGraph part slot =
      (s.getGraph part slot).setNode i { (s.getGraph part slot).node i with state := .doneProvisional } := by
  rw [State.provisional, State.getGraph_writeGraph, State.getGraph_modNode]

theorem State.GraphWork.provisional (s : State) (part slot i : Nat) : s.GraphWork (s.provisional part slot i) :=
  (State.GraphWork.refl s).modNode.writeGraph

/-- A provisional completion of a RUNNING node (R65). -/
theorem execGraphProvisionalReport_running (taken : s.takeEvent part (.provisional tag) = some u)
    (current : u.current part tag = some (slot, i, n)) (running : n.state = .running) :
    execGraphProvisionalReport part tag s = .next (
      if (u.getPart part).backlog.length + n.succs.length ≤ tokenRoom then
        (u.provisional part slot i).modPart part fun p =>
          { p with backlog := p.backlog ++ n.succs.map fun j => .token slot j }
      else n.succs.foldl (fun s j => s.token part slot j) (u.provisional part slot i)) := by
  unfold execGraphProvisionalReport
  simp only [taken, current]
  exact congrArg _ (if_neg (not_not.2 running))

/-- R61, R62, R65: tokens and reports. -/
theorem graphReports : Claims.GraphReports := by
  refine ⟨fun part slot i s u taken => ?_, fun part tag s u taken => ⟨fun stale => ?_, fun slot i n current => ?_⟩,
    fun part tag s u slot i n taken current running full => ?_,
    fun part tag s u taken => ⟨fun stale => ?_, fun slot i n current => ?_⟩, fun part slot i tag code s => ?_⟩
  · intro n
    refine ⟨u.token part slot i, ?_, State.token_other, fun armed => ?_⟩
    · show Host.Outcome.next _ = _
      rw [taken]
    · rw [State.node_token, if_pos rfl, Node.afterToken_armed armed]
  · show Host.Outcome.next _ = _
    simp only [taken, stale]
  · obtain ⟨-, rfl⟩ := State.current_some current
    refine ⟨fun other => ?_, fun running room => ?_⟩
    · show Host.Outcome.next _ = _
      simp only [taken, current]
      rw [if_pos other]
    · refine ⟨_, (execGraphProvisionalReport_running taken current running).trans (by rw [if_pos room]), ?_, ?_⟩
      · rw [((State.SameGraphs.refl _).modPart rfl).getGraph, State.getGraph_provisional, Graph.node_setNode_same]
      · rw [State.getPart_modPart_same, (State.GraphWork.provisional u part slot i).backlog]
  · obtain ⟨-, rfl⟩ := State.current_some current
    have node (j : Nat) : (((u.provisional part slot i).getGraph part slot).node j) =
        if j = i then { (u.getGraph part slot).node i with state := .doneProvisional }
        else (u.getGraph part slot).node j := by
      rw [State.getGraph_provisional]
      split
      · next same => rw [same, Graph.node_setNode_same]
      · next apart => exact Graph.node_setNode_other _ _ apart
    refine ⟨_, (execGraphProvisionalReport_running taken current running).trans (by rw [if_neg full.not_ge]),
      ?_, ?_, ?_⟩
    · rw [State.node_tokens, node, if_pos rfl]
      exact Function.iterate_fixed (Node.afterToken_other (show NodeState.doneProvisional ≠ .armed from nofun)) _
    · exact (State.GraphWork.foldl _ (State.GraphWork.provisional u part slot i) fun hv => hv.token).backlog part
    · intro j once m armed
      have apart : j ≠ i := by
        rintro rfl
        cases armed.symm.trans running
      rw [State.node_tokens, once, node, if_neg apart]
      exact Node.afterToken_armed armed
  · show Host.Outcome.next _ = _
    simp only [taken, stale]
  · show Host.Outcome.next _ = _
    simp only [taken, current]
  · refine ⟨fun none => ?_, fun none => ?_, fun none => ?_, fun none => ?_⟩
    all_goals
      show Host.Outcome.next _ = _
      rw [none]

/-! ### Faults (R67, R72) -/

/-- The node with its fault noted. -/
def State.markFaulted (s : State) (part slot i : Nat) (code : BitVec 16) : State :=
  s.modNode part slot i fun n => { n with state := .faulted, fault := code }

/-- The fault waits in the merge queue. -/
def State.queueFault (s : State) (part slot i : Nat) (gen : BitVec 20) (code : BitVec 16) : State :=
  ((s.markFaulted part slot i code).modGraph part slot fun g => { g with merge := g.merge ++ [(i, gen, code)] }).writeGraph
    part slot

theorem State.getGraph_markFaulted (s : State) (part slot i : Nat) (code : BitVec 16) :
    (s.markFaulted part slot i code).getGraph part slot =
      (s.getGraph part slot).setNode i { (s.getGraph part slot).node i with state := .faulted, fault := code } :=
  State.getGraph_modNode _ _ _ _ _

theorem State.getGraph_queueFault (s : State) (part slot i : Nat) (gen : BitVec 20) (code : BitVec 16) :
    let g := s.getGraph part slot
    let n := g.node i
    (s.queueFault part slot i gen code).getGraph part slot =
      { g with merge := g.merge ++ [(i, gen, code)] }.setNode i { n with state := .faulted, fault := code } := by
  intro g n
  rw [State.queueFault, State.getGraph_writeGraph, State.getGraph_modGraph_same, State.getGraph_markFaulted]
  rfl

theorem State.GraphWork.queueFault (s : State) (part slot i : Nat) (gen : BitVec 20) (code : BitVec 16) :
    s.GraphWork (s.queueFault part slot i gen code) := (State.GraphWork.refl s).modNode.modGraph.writeGraph

/-- A queued fault does not start a walk while one is under way, or before one that has arrived with it is queued. -/
theorem State.startQueued_waits (waits : (s.getGraph part slot).phase ≠ .idle ∨ s.faultNext part slot = true) :
    s.startQueued part slot = s := by
  refine if_neg fun ⟨idle, _, last⟩ => ?_
  rcases waits with busy | more
  · exact busy idle
  · simp [more] at last

theorem State.startQueued_starts (idle : (s.getGraph part slot).phase = .idle) (some : (s.getGraph part slot).merge ≠ [])
    (last : s.faultNext part slot = false) : s.startQueued part slot = (s.endWalk part slot).writeGraph part slot :=
  if_pos ⟨idle, by simpa using some, by simp [last]⟩

/-- The report of a fault that is not stale. -/
theorem execGraphFaultReport_current (taken : s.takeEvent part (.fault tag code) = some u)
    (current : u.current part tag = some (slot, i, n)) :
    execGraphFaultReport part tag code s = .next (State.startQueued (
      if n.state ≠ .running ∧ n.state ≠ .doneProvisional then u
      else if (u.getGraph part slot).merge.length < 16 then u.queueFault part slot i n.gen code
      else (u.markFaulted part slot i code).cancelGraph part slot 0x0044
        (BitVec.ofNat 32 (if (u.getGraph part slot).phase = .idle then i else (u.getGraph part slot).root)) false)
      part slot) := by
  obtain ⟨rfl, rfl⟩ := State.current_some current
  unfold execGraphFaultReport
  simp only [taken, current, State.getGraph_modNode, Graph.setNode_frame]
  rfl

/-- A fault that finds an empty queue and no walk starts the walk of its node (R67). -/
theorem State.queueFault_starts (s : State) (part i : Nat) (code : BitVec 16)
    (empty : (s.getGraph part slot).merge = []) :
    let g := s.getGraph part slot
    let n := g.node i
    let t := ((s.queueFault part slot i n.gen code).endWalk part slot).getGraph part slot
    t.node i = { n with state := .faulted, fault := code, gen := n.gen + 1 } ∧ t.root = i ∧
      t.phase = if i + 1 < g.n then .marking else .recount := by
  intro g n t
  let q := s.queueFault part slot i n.gen code
  have queued : q.getGraph part slot = { g with merge := g.merge ++ [(i, n.gen, code)] }.setNode i
      { n with state := .faulted, fault := code } := State.getGraph_queueFault s part slot i n.gen code
  have live : (q.getGraph part slot).liveFaults = [(i, n.gen, code)] := by
    rw [queued, show g.merge = [] from empty]
    simp [Graph.liveFaults]
  obtain ⟨lo, mem, -, starts⟩ := State.endWalk_starts (s := q) (part := part) (slot := slot) (by simp [live])
  rw [live, List.mem_singleton] at mem
  subst mem
  have started : t = _ := (congrArg (State.getGraph · part slot) starts).trans (State.getGraph_startWalk _ _ _ _)
  rw [started, State.getGraph_modGraph_same, queued]
  refine ⟨?_, rfl, rfl⟩
  have faulted : Graph.node _ i = _ :=
    Graph.node_setNode_same { g with merge := g.merge ++ [(i, n.gen, code)] } i { n with state := .faulted, fault := code }
  exact (Graph.node_setNode_same _ _ _).trans (congrArg (fun n : Node => { n with gen := n.gen + 1 }) faulted)

/-- R67, R72: faults. -/
theorem graphFault : Claims.GraphFault := by
  refine ⟨fun part tag code s u taken => ⟨fun stale => ?_, fun slot i n current => ?_⟩, fun part slot s => ?_⟩
  · show Host.Outcome.next _ = _
    simp only [taken, stale]
  · obtain ⟨-, rfl⟩ := State.current_some current
    intro g bad queued
    have report := execGraphFaultReport_current taken current
    have graph : queued.getGraph part slot = _ := State.getGraph_queueFault u part slot i (g.node i).gen code
    have next : queued.faultNext part slot = u.faultNext part slot :=
      (State.GraphWork.queueFault u part slot i (g.node i).gen code).faultNext part slot
    refine ⟨fun idle done => ?_, fun active => ?_⟩
    · exact report.trans (by rw [if_pos ⟨idle, done⟩])
    · have live : ¬ ((g.node i).state ≠ .running ∧ (g.node i).state ≠ .doneProvisional) := by
        rcases active with h | h <;> simp [g, h]
      rw [if_neg live] at report
      have starts (room : g.merge.length < 16) (rest : g.phase = .idle) (last : u.faultNext part slot = false) :
          exec (.graphFaultReport part tag code) s = .next ((queued.endWalk part slot).writeGraph part slot) := by
        rw [if_pos room] at report
        exact report.trans (congrArg _
          (State.startQueued_starts (s := queued) (by rw [graph]; exact rest) (by rw [graph]; simp) (next.trans last)))
      refine ⟨fun empty rest last => ?_, starts, fun room waits => ?_, fun full => ?_⟩
      · refine ⟨_, starts (by simp [empty]) rest last, ?_⟩
        rw [State.getGraph_writeGraph]
        exact State.queueFault_starts u part i code empty
      · rw [if_pos room] at report
        have stays := State.startQueued_waits (s := queued) (by rw [graph]; exact waits.imp_right next.trans)
        exact ⟨report.trans (congrArg _ stays), by rw [graph]; exact Graph.node_setNode_same _ _ _, by rw [graph]; rfl⟩
      · exact report.trans (by rw [if_neg full.not_gt]; rfl)
  · intro g live t
    refine ⟨fun none => ?_, fun some => ?_⟩
    · have rest : t = _ := congrArg (State.getGraph · part slot) (State.endWalk_rest none)
      rw [rest, State.getGraph_modGraph_same]
      exact ⟨rfl, rfl⟩
    · obtain ⟨lo, mem, least, starts⟩ := State.endWalk_starts some
      have started : t = _ := (congrArg (State.getGraph · part slot) starts).trans (State.getGraph_startWalk _ _ _ _)
      rw [started]
      refine ⟨?_, ⟨lo, mem, rfl⟩, least⟩
      dsimp only
      split <;> nofun

end

/-- Settles O51: a token and a report by the node they name, a fault by the merge queue and the walk under way. -/
theorem graphEvents : Obligations.GraphEvents := ⟨graphReports, graphFault⟩

end Sys2Proof.Machine
end

section
/-! CERTIFICATE. Garm, larm and lpatch, and what an arming does (O8). -/

namespace Sys2Proof.Machine

/-! ### The declarations of a record (R48, R373, R374) -/

/-- No end of the first declaration is named by another, and none by the others twice. -/
theorem noTwice_declEnds_cons {d : BitVec 64} {ds : List (BitVec 64)} (apart : noTwice (declEnds (d :: ds)) = true) :
    (declSendCore d, declSendEp d) ≠ (declRecvCore d, declRecvEp d) ∧
    (declSendCore d, declSendEp d) ∉ declEnds ds ∧ (declRecvCore d, declRecvEp d) ∉ declEnds ds ∧
    noTwice (declEnds ds) = true := by
  have ends : declEnds (d :: ds) = (declSendCore d, declSendEp d) :: (declRecvCore d, declRecvEp d) :: declEnds ds := rfl
  rw [ends] at apart
  simp only [noTwice, Bool.and_eq_true, Bool.not_eq_true', List.contains_eq_mem, decide_eq_false_iff_not,
    List.mem_cons, not_or] at apart
  obtain ⟨⟨differ, send⟩, recv, rest⟩ := apart
  exact ⟨differ, send, recv, rest⟩

/-- A record that counts as loaded declares no endpoint twice. -/
theorem State.noTwice_of_readLaunch {s v : State} {part i : Nat} {r : LRec} (read : s.readLaunch part i = (some r, v)) :
    noTwice (declEnds r.chans) = true := by
  unfold State.readLaunch at read
  split at read
  · cases read
  · dsimp only at read
    split at read
    · next ok =>
      cases read
      simp only [recordOk, Bool.and_eq_true] at ok
      obtain ⟨⟨-, apart⟩, -⟩ := ok
      exact apart
    · cases read

section
variable {s t : State} {part i : Nat}

/-- Cores of different index in a partition differ. -/
theorem State.coreAt_inj {j k : Nat} : s.coreAt part j = s.coreAt part k ↔ j = k := by simp [State.coreAt]

/-- What the declaration of a channel gives its two endpoints, up to direction and peer. -/
def armedEp (i : Nat) (d : BitVec 64) : Endpoint :=
  { Endpoint.reset with declared := true, words := declWords d, slots := declSlots d, live := true, launch := i }

theorem State.getEp_declare_send (s : State) (part i : Nat) {d : BitVec 64}
    (differ : (declSendCore d, declSendEp d) ≠ (declRecvCore d, declRecvEp d)) :
    (s.declare part i d).getEp (s.coreAt part (declSendCore d)) (declSendEp d) =
      { armedEp i d with send := true, peer := .core (s.coreAt part (declRecvCore d)) (declRecvEp d) } := by
  unfold State.declare
  dsimp only
  rw [State.getEp_modEp_other, State.getEp_modEp_same]
  · rfl
  · intro same
    obtain ⟨core, ep⟩ := Prod.mk.inj same
    exact differ (Prod.ext (State.coreAt_inj.1 core) ep)

theorem State.getEp_declare_recv (s : State) (part i : Nat) (d : BitVec 64) :
    (s.declare part i d).getEp (s.coreAt part (declRecvCore d)) (declRecvEp d) =
      { armedEp i d with peer := .core (s.coreAt part (declSendCore d)) (declSendEp d) } :=
  State.getEp_modEp_same _ _ _ _

theorem State.getEp_declare_other (s : State) (part i : Nat) {d : BitVec 64} {k e : Nat} (other : (k, e) ∉ declEnds [d]) :
    (s.declare part i d).getEp (s.coreAt part k) e = s.getEp (s.coreAt part k) e := by
  simp only [declEnds, List.flatMap_cons, List.flatMap_nil, List.append_nil, List.mem_cons, List.not_mem_nil, or_false,
    not_or, Prod.mk.injEq] at other
  unfold State.declare
  dsimp only
  rw [State.getEp_modEp_other, State.getEp_modEp_other]
  · simpa [State.coreAt_inj] using other.1
  · simpa [State.coreAt_inj] using other.2

/-- The channels of an arming are declared. -/
def State.declareAll (s : State) (part i : Nat) (ds : List (BitVec 64)) : State :=
  ds.foldl (fun s d => s.declare part i d) s

theorem State.getEp_declareAll_other (s : State) (part i : Nat) (ds : List (BitVec 64)) {k e : Nat}
    (other : (k, e) ∉ declEnds ds) :
    (s.declareAll part i ds).getEp (s.coreAt part k) e = s.getEp (s.coreAt part k) e := by
  induction ds generalizing s with
  | nil => rfl
  | cons d ds ih =>
    have split : declEnds (d :: ds) = declEnds [d] ++ declEnds ds := by simp [declEnds]
    rw [split, List.mem_append, not_or] at other
    exact (ih (s.declare part i d) other.2).trans (s.getEp_declare_other part i other.1)

/-- Every channel of an arming has both its endpoints declared, whatever is declared with it. -/
theorem State.getEp_declareAll (s : State) (part i : Nat) (ds : List (BitVec 64)) (apart : noTwice (declEnds ds) = true) :
    ∀ d ∈ ds,
      (s.declareAll part i ds).getEp (s.coreAt part (declSendCore d)) (declSendEp d) =
        { armedEp i d with send := true, peer := .core (s.coreAt part (declRecvCore d)) (declRecvEp d) } ∧
      (s.declareAll part i ds).getEp (s.coreAt part (declRecvCore d)) (declRecvEp d) =
        { armedEp i d with peer := .core (s.coreAt part (declSendCore d)) (declSendEp d) } := by
  induction ds generalizing s with
  | nil => nofun
  | cons x ds ih =>
    obtain ⟨differ, send, recv, rest⟩ := noTwice_declEnds_cons apart
    refine List.forall_mem_cons.2 ⟨⟨?_, ?_⟩, ih (s.declare part i x) rest⟩
    · exact ((s.declare part i x).getEp_declareAll_other part i ds send).trans (s.getEp_declare_send part i differ)
    · exact ((s.declare part i x).getEp_declareAll_other part i ds recv).trans (s.getEp_declare_recv part i x)

/-! ### An arming (R374) -/

theorem State.coreAt_congr (cut : t.cut = s.cut) (part : Nat) : t.coreAt part = s.coreAt part := by
  funext j
  simp only [State.coreAt, cut]

theorem State.coresPer_congr (cut : t.cut = s.cut) : t.coresPer = s.coresPer := by
  simp only [State.coresPer, State.k, cut]

/-- Whether an arming can be released depends on the cores, the cut and the deliveries that wait. -/
theorem State.armReady_congr (cores : t.cores = s.cores) (cut : t.cut = s.cut)
    (held : (t.getPart part).held = (s.getPart part).held) (l : Launch) : t.armReady part l = s.armReady part l := by
  simp only [State.armReady, State.getEp, State.getCore, State.coreAt_congr cut, State.k, cores, cut, held]

/-- Steps 3 and 4 of an arming change its record in HELD alone, and no graph. -/
theorem State.getLaunch_armRelease (s : State) (part i : Nat) :
    (s.armRelease part i).getLaunch part i =
      { s.getLaunch part i with held := !s.armReady part (s.getLaunch part i) } := by
  cases ready : s.armReady part (s.getLaunch part i) with
  | true =>
    let w := (s.declareAll part i (s.getLaunch part i).chans).modLaunch part i fun l => { l with held := false }
    have kept : (s.armRelease part i).getLaunch part i = w.getLaunch part i := by
      unfold State.armRelease
      rw [if_pos ready, State.getLaunch, State.getPart_modPart_same]
      rfl
    have declared : (s.declareAll part i (s.getLaunch part i).chans).getLaunch part i = s.getLaunch part i := by
      obtain ⟨parts, -⟩ := s.declareAll_frame part i (s.getLaunch part i).chans
      rw [State.getLaunch, State.getPart, State.declareAll, parts]
      rfl
    rw [kept, State.getLaunch_modLaunch_same, declared]
    rfl
  | false =>
    unfold State.armRelease
    rw [if_neg (ne_true_of_eq_false ready), State.getLaunch_modLaunch_same]
    rfl

theorem State.SameGraphs.armRelease (h : s.SameGraphs t) : s.SameGraphs (t.armRelease part i) := by
  obtain ⟨parts, -⟩ := t.declareAll_frame part i (t.getLaunch part i).chans
  exact .ite ((h.frame parts).modLaunch.modPart rfl) h.modLaunch

theorem State.getEp_armRelease (ready : s.armReady part (s.getLaunch part i) = true) (c e : Nat) :
    (s.armRelease part i).getEp c e = (s.declareAll part i (s.getLaunch part i).chans).getEp c e := by
  unfold State.armRelease
  rw [if_pos ready]
  rfl

theorem State.held_armRelease_blocked (blocked : s.armReady part (s.getLaunch part i) = false) :
    ((s.armRelease part i).getPart part).held = (s.getPart part).held := by
  unfold State.armRelease
  rw [if_neg (ne_true_of_eq_false blocked), State.modLaunch, State.getPart_modPart_same]

/-- The launch that an arming makes of a record. -/
def LRec.launch (r : LRec) (tag : Word) (gen : BitVec 20) (level : BitVec 2) : Launch :=
  { remain := BitVec.ofNat 32 (countBits r.mask), cancelled := 0, faults := 0, first := 0, gen := gen, tag := tag,
    level := level, bound := r.bound, trap := r.trap, flagMask := r.flagMask, signal := r.signal, mask := r.mask,
    entry := r.entry, regmap := r.regmap, args := r.args.take 5, chans := r.chans, held := false, armed := true,
    provisional := false, stopped := false }

/-- An arming up to its release: the snapshot and the launch's counts are written back. -/
def State.noteArming (s : State) (part i : Nat) (r : LRec) (l : Launch) : State :=
  ((s.engWrite part .launch (s.launchVa part i + 0x100) (r.args.flatMap fun w => bytesOf 8 w.toNat)).modLaunch part i
    fun _ => l).launchBack part i

theorem State.arm_eq (s : State) (part i : Nat) (r : LRec) (tag : Word) (gen : BitVec 20) (level : BitVec 2) :
    s.arm part i r tag gen level = (s.noteArming part i r (r.launch tag gen level)).armRelease part i := rfl

/-- Up to its release an arming changes its launch, and neither a core, a delivery nor a graph. -/
theorem State.noteArming_facts (s : State) (part i : Nat) (r : LRec) (l : Launch) :
    let u := s.noteArming part i r l
    u.getLaunch part i = l ∧ u.cores = s.cores ∧ u.cut = s.cut ∧ (u.getPart part).held = (s.getPart part).held ∧
    s.SameGraphs u := by
  let w := s.engWrite part .launch (s.launchVa part i + 0x100) (r.args.flatMap fun w => bytesOf 8 w.toNat)
  have wrote : s.Recorded w := (State.Recorded.refl s).engWrite
  have back : (w.modLaunch part i fun _ => l).Recorded (s.noteArming part i r l) := (State.Recorded.refl _).launchBack
  refine ⟨?_, back.cores.trans wrote.cores, back.cut.trans wrote.cut, ?_, ?_⟩
  · rw [back.getLaunch, State.getLaunch_modLaunch_same]
  · rw [back.held, State.modLaunch, State.getPart_modPart_same]
    exact wrote.held part
  · exact ((State.SameGraphs.refl s).recorded wrote).modLaunch.recorded back

/-- An arming of a record, in the state in which the graph engine has made its node RUNNING: the launch, and, once its
endpoints are free, its channels and its deliveries. -/
theorem State.arm_spec {v w : State} {r : LRec} (work : v.GraphWork w) (apart : noTwice (declEnds r.chans) = true)
    (tag : Word) (gen : BitVec 20) (level : BitVec 2) :
    let l := r.launch tag gen level
    let t := w.arm part i r tag gen level
    t.getLaunch part i = { l with held := !v.armReady part l } ∧ w.SameGraphs t ∧
    (v.armReady part l = false → (t.getPart part).held = (v.getPart part).held) ∧
    (v.armReady part l = true →
      (t.getPart part).held = (v.getPart part).held ++
        ((List.range v.coresPer).filter fun k => r.mask.getLsbD k).map fun k =>
          { idx := i, core := v.coreAt part k, stage := 0, k := 0, bytes := l.task }) ∧
    (v.armReady part l = true → ∀ d ∈ r.chans,
      t.getEp (v.coreAt part (declSendCore d)) (declSendEp d) =
        { armedEp i d with send := true, peer := .core (v.coreAt part (declRecvCore d)) (declRecvEp d) } ∧
      t.getEp (v.coreAt part (declRecvCore d)) (declRecvEp d) =
        { armedEp i d with peer := .core (v.coreAt part (declSendCore d)) (declSendEp d) }) := by
  intro l t
  let u := w.noteArming part i r l
  have eq : t = u.armRelease part i := State.arm_eq w part i r tag gen level
  have facts := w.noteArming_facts part i r l
  obtain ⟨launch, cores, cut, held, graphs⟩ : u.getLaunch part i = l ∧ _ := facts
  have cut' : u.cut = v.cut := cut.trans work.cut
  have held' : (u.getPart part).held = (v.getPart part).held := held.trans (work.held part)
  have ready : u.armReady part (u.getLaunch part i) = v.armReady part l := by
    rw [launch]
    exact State.armReady_congr (cores.trans work.cores) cut' held' l
  rw [← State.coreAt_congr cut', ← State.coresPer_congr cut', ← held', ← ready]
  rw [eq]
  refine ⟨?_, graphs.armRelease, State.held_armRelease_blocked, fun free => ?_, fun free d hd => ?_⟩
  · rw [u.getLaunch_armRelease part i, launch]
  · have released := (State.armRelease_ready free).2
    rwa [launch] at released
  · rw [State.getEp_armRelease free, State.getEp_armRelease free, launch]
    exact u.getEp_declareAll part i r.chans apart d hd

/-! ### larm (R318) -/

/-- The record's node is the one of the tag, and it is READY under that tag (R318). -/
def State.readyUnder (v : State) (part : Nat) (tag : Word) (r : LRec) : Prop :=
  let slot := bits tag.toNat 31 20
  let node := bits tag.toNat 19 0
  let n := (v.getGraph part slot).node node
  r.graph = slot ∧ r.node = node ∧ v.loaded part slot = true ∧ n.state = .ready ∧ n.gen.toNat = bits tag.toNat 51 32

/-- A field of a tag fits in a generation. -/
theorem gen_eq_iff (g : BitVec 20) (x : Nat) : g = BitVec.ofNat 20 (bits x 51 32) ↔ g.toNat = bits x 51 32 := by
  rw [← BitVec.toNat_inj, BitVec.toNat_ofNat, Nat.mod_eq_of_lt (show bits x 51 32 < 2 ^ 20 from Nat.mod_lt _ (by decide))]

section
variable {v : State} {tag : Word} {r : LRec}

theorem State.armLaunch_unread (read : s.readLaunch part (bits tag.toNat 63 52) = (none, v)) :
    s.armLaunch part tag = (3, v) := by
  unfold State.armLaunch
  simp only [read]

theorem State.armLaunch_bound (read : s.readLaunch part (bits tag.toNat 63 52) = (some r, v)) (bound : r.bound = true) :
    let slot := bits tag.toNat 31 20
    let node := bits tag.toNat 19 0
    (¬ v.readyUnder part tag r → s.armLaunch part tag = (1, v)) ∧
    (v.readyUnder part tag r → s.armLaunch part tag =
      (0, ((v.modNode part slot node fun n => { n with state := .running }).writeGraph part slot).arm part
        (bits tag.toNat 63 52) r tag (BitVec.ofNat 20 (bits tag.toNat 51 32))
        ((v.getGraph part slot).node node).level)) := by
  unfold State.armLaunch State.readyUnder
  simp only [read, bound, if_true, gen_eq_iff]
  exact ⟨fun other => if_neg other, fun named => if_pos named⟩

theorem State.armLaunch_unbound (read : s.readLaunch part (bits tag.toNat 63 52) = (some r, v)) (bound : r.bound = false) :
    s.armLaunch part tag =
      if bits tag.toNat 51 0 ≠ 0 then (1, v)
      else if (v.getLaunch part (bits tag.toNat 63 52)).remain ≠ 0 then (2, v)
      else (0, v.arm part (bits tag.toNat 63 52) r tag 0 0) := by
  unfold State.armLaunch
  simp only [read, bound, Bool.false_eq_true, if_false]

/-- larm of a record that can be armed arms it, its node made RUNNING before where it is bound. -/
theorem State.armLaunch_arms (read : s.readLaunch part (bits tag.toNat 63 52) = (some r, v))
    (arms : (r.bound = true ∧ v.readyUnder part tag r) ∨
      (r.bound = false ∧ bits tag.toNat 51 0 = 0 ∧ (v.getLaunch part (bits tag.toNat 63 52)).remain = 0)) :
    ∃ w gen level, v.GraphWork w ∧ s.armLaunch part tag = (0, w.arm part (bits tag.toNat 63 52) r tag gen level) ∧
      gen.toNat = (if r.bound then bits tag.toNat 51 32 else 0) ∧
      (r.bound = true →
        ((w.getGraph part (bits tag.toNat 31 20)).node (bits tag.toNat 19 0)).state = .running) := by
  rcases arms with ⟨bound, named⟩ | ⟨bound, zero, spent⟩
  · refine ⟨_, _, _, (State.GraphWork.refl v).modNode.writeGraph, (State.armLaunch_bound read bound).2 named, ?_,
      fun _ => ?_⟩
    · rw [if_pos bound]
      exact ((gen_eq_iff _ _).1 rfl)
    · rw [State.getGraph_writeGraph, State.getGraph_modNode, Graph.node_setNode_same]
  · refine ⟨v, 0, 0, State.GraphWork.refl v, ?_, by simp [bound], fun other => by simp [bound] at other⟩
    exact (State.armLaunch_unbound read bound).trans ((if_neg (not_not.2 zero)).trans (if_neg (not_not.2 spent)))

end

/-! ### garm (R59, R317) -/

/-- garm of a slot without a graph. -/
theorem State.armGraph_absent (s : State) {slot : Nat} (absent : 4095 < slot ∨ s.loaded part slot = false) :
    s.armGraph part slot = (3, s) := by
  unfold State.armGraph
  exact if_pos (by simpa using absent)

/-- garm of a graph with a node that is under way. -/
theorem State.armGraph_busy (s : State) {slot : Nat} (inside : slot ≤ 4095) (loaded : s.loaded part slot = true)
    (busy : ∃ i < (s.getGraph part slot).n, ((s.getGraph part slot).node i).final = false ∧
      ((s.getGraph part slot).node i).state ≠ .idle) : s.armGraph part slot = (1, s) := by
  obtain ⟨i, hi, final, idle⟩ := busy
  unfold State.armGraph
  rw [if_neg (by simp [loaded, inside])]
  exact if_pos (List.any_eq_true.2 ⟨i, List.mem_range.2 hi, by simp [final, idle]⟩)

/-- The status of garm (R317). -/
theorem State.armGraph_status (s : State) (part slot : Nat) : (s.armGraph part slot).1 ≤ 3 := by
  unfold State.armGraph
  split
  · exact Nat.le_refl 3
  · dsimp only
    split
    · exact Nat.le_of_ble_eq_true rfl
    · split
      · exact Nat.le_refl 3
      · split
        · exact Nat.le_of_ble_eq_true rfl
        · exact Nat.zero_le 3

/-- The status of larm (R318). -/
theorem State.armLaunch_status (s : State) (part : Nat) (tag : Word) : (s.armLaunch part tag).1 ≤ 3 := by
  rcases read : s.readLaunch part (bits tag.toNat 63 52) with ⟨_ | r, v⟩
  · rw [State.armLaunch_unread read]
  · cases bound : r.bound with
    | true =>
      obtain ⟨other, named⟩ := State.armLaunch_bound read bound
      by_cases h : v.readyUnder part tag r
      · rw [named h]
        exact Nat.zero_le 3
      · rw [other h]
        exact Nat.le_of_ble_eq_true rfl
    | false =>
      rw [State.armLaunch_unbound read bound]
      split
      · exact Nat.le_of_ble_eq_true rfl
      · split
        · exact Nat.le_of_ble_eq_true rfl
        · exact Nat.zero_le 3

/-! ### The instructions (R317 to R319) -/

/-- garm and larm in the control context write their status. -/
theorem exec_arm_started {d a : SReg} (control : s.ctx = 0) (unbound : s.isBound d = false)
    (begins : s.canBegin [a] [d] = true) :
    let u := s.started [a]
    let r := u.armGraph s.part (s.rd a).toNat
    let l := u.armLaunch s.part (s.rd a)
    execGarm d a s = .next (r.2.result d (BitVec.ofNat 64 r.1)) ∧
    execLarm d a s = .next (l.2.result d (BitVec.ofNat 64 l.1)) := by
  unfold execGarm execLarm
  rw [State.system_control control unbound begins, State.system_control control unbound begins]
  simp only [State.rd_started, State.started_part, and_self]

/-- lpatch in the control context writes one argument word of a launch record (R319). -/
theorem execLpatch_started {a b : SReg} {c : CReg} (control : s.ctx = 0)
    (begins : s.canBegin [a, b, c.setWidth 5] [] = true) :
    let u := s.started [a, b, c.setWidth 5]
    execLpatch a b c s = .next (if 4095 < (s.rd a).toNat ∨ 15 < (s.rd b).toNat then u.fault 0x0014
      else (u.engWrite s.part .launch (s.launchVa s.part (s.rd a).toNat + 0x80 + s.rd b * 8)
        (bytesOf 8 (s.rdC c).toNat)).retire) := by
  unfold execLpatch
  rw [State.system_started (by simp [State.sysBarred, control]) begins]
  unfold State.patchLaunch
  simp only [State.rd_started, State.rdC_started, State.started_part]
  by_cases out : 4095 < (s.rd a).toNat ∨ 15 < (s.rd b).toNat
  · rw [if_pos out, if_pos out]
  · rw [if_neg out, if_neg out]
    rfl

/-- R59, R317 to R319: garm, larm and lpatch. -/
theorem armPatchInstructions : Claims.ArmPatchInstructions := by
  refine ⟨fun d a s control unbound begins => ?_, fun a b c s control begins => ?_⟩
  · intro u r l
    obtain ⟨garm, larm⟩ := exec_arm_started control unbound begins
    refine ⟨garm, larm, u.armGraph_status _ _, u.armLaunch_status _ _, ?_, ?_⟩
    · exact u.armGraph_absent (part := s.part)
    · exact u.armGraph_busy (part := s.part)
  · intro u
    have patch := execLpatch_started control begins
    refine ⟨fun out => patch.trans (by rw [if_pos out]), fun inside word => patch.trans (by rw [if_neg (by omega)])⟩

end

/-- R318, R374: what larm answers and what an arming does. -/
theorem armResult : Claims.ArmResult := by
  intro part tag s x i slot node
  refine ⟨fun v read => State.armLaunch_unread read, fun r v read => ?_⟩
  intro n named
  refine ⟨fun bound other => ?_, fun bound names => ?_, fun bound zero left => ?_, fun arms => ?_⟩
  · exact (State.armLaunch_bound read bound).1 other
  · exact (State.armLaunch_unbound read bound).trans (if_pos names)
  · exact (State.armLaunch_unbound read bound).trans ((if_neg (not_not.2 zero)).trans (if_pos left))
  · obtain ⟨w, gen, level, work, answer, tagged, running⟩ := State.armLaunch_arms read arms
    obtain ⟨launch, graphs, blocked, queued, declared⟩ :=
      State.arm_spec (part := part) (i := i) work (State.noTwice_of_readLaunch read) tag gen level
    refine ⟨_, answer, ?_⟩
    rw [launch, graphs.getGraph]
    refine ⟨rfl, rfl, rfl, rfl, rfl, rfl, rfl, rfl, rfl, tagged, running, fun held => ⟨?_, blocked held⟩,
      fun free => ⟨?_, queued free, fun d hd => ?_⟩⟩
    · exact congrArg not held
    · exact congrArg not free
    · obtain ⟨send, recv⟩ := declared free d hd
      intro sc rc p q
      rw [show p = _ from send, show q = _ from recv]
      and_intros <;> rfl

/-- Settles O8: the instructions by their checks, an arming by what it notes and releases. -/
theorem armAndPatch : Obligations.ArmAndPatch := ⟨armPatchInstructions, armResult⟩

end Sys2Proof.Machine
end

section
/-! SUPPORT. What the decoder accepts has an encoding (O27): first what the words before a base word can hold, then what the
fields of a head keep of it, then the opcode map row by row. -/

namespace Sys2Proof

/-! ### What a decoding gives -/

/-- What a decoding gives, when it gives an instruction, has the property. -/
def Yields (P : Instr → Prop) (r : Except DecodeError Instr) : Prop := ∀ i, r = .ok i → P i

section
variable {P : Instr → Prop} {i : Instr}

@[simp] theorem yields_ok : Yields P (.ok i) ↔ P i := by simp [Yields]

@[simp] theorem yields_error {e : DecodeError} : Yields P (.error e) := by simp [Yields]

@[simp] theorem yields_need {ok : Bool} : Yields P (need ok i) ↔ (ok = true → P i) := by
  cases ok <;> simp [need]

@[simp] theorem yields_ite {c : Prop} [Decidable c] {r : Except DecodeError Instr} {e : DecodeError} :
    Yields P (if c then r else .error e) ↔ (c → Yields P r) := by
  by_cases c <;> simp [*]

end

/-- An encoding exists for the term by `wf`, and the encoder's table lists it. -/
def Instr.Encodes (i : Instr) : Prop := i.wf = true ∧ i.fields.isSome = true

theorem Instr.Encodes.encode_ne_none {i : Instr} (h : i.Encodes) : encode i ≠ none := by
  simpa [encode, Option.isSome_iff_ne_none] using h.2

/-! ### The words before a base word (R139) -/

/-- How many words a head stands for before its base word. -/
def Head.preWords (h : Head) : Nat := h.imms.length + (h.page != 0).toNat + h.reg.isSome.toNat

/-- Each word of major 0xE adds at most one to the head, and the base word adds none. -/
theorem parse_preWords_lt {ws : List (BitVec 16)} {st : Stage} {h h' : Head} (parsed : parse st h ws = .ok h') :
    h'.preWords < h.preWords + ws.length := by
  induction ws generalizing st h with
  | nil => simp [parse] at parsed
  | cons w ws ih =>
    have step {st' : Stage} {x : Head} (rest : parse st' x ws = .ok h') (one : x.preWords ≤ h.preWords + 1) :
        h'.preWords < h.preWords + (w :: ws).length := by
      have := ih rest
      simp only [List.length_cons]
      omega
    simp only [parse] at parsed
    split at parsed
    · split at parsed
      · exact step parsed (by simp only [Head.preWords, List.length_append, List.length_singleton]; omega)
      · split at parsed
        · exact step parsed (by simp [Head.preWords])
        · cases parsed
      · split at parsed
        · split at parsed
          · cases parsed
          · have := Bool.toNat_le (w.extractLsb' 0 10 != 0)
            exact step parsed (by simp only [Head.preWords]; omega)
        · cases parsed
      · cases parsed
    · split at parsed
      · cases parsed
      · cases parsed
        simp [Head.preWords]

theorem length_instrWords_le (n : Nat) (ws : List (BitVec 16)) : (instrWords n ws).length ≤ n := by
  induction n generalizing ws with
  | zero => simp [instrWords]
  | succ n ih =>
    cases ws with
    | nil => simp [instrWords]
    | cons w ws =>
      have := ih ws
      unfold instrWords
      split
      · simpa using this
      · simp

/-- At most four words stand before a base word. -/
theorem parseWords_preWords_le {ws : List (BitVec 16)} {h : Head} (parsed : parseWords ws = .ok h) : h.preWords ≤ 4 := by
  have more : h.preWords < 0 + (instrWords 5 ws).length := parse_preWords_lt parsed
  have := length_instrWords_le 5 ws
  omega

/-! ### The immediate (R140) -/

/-- The IMM payloads after `acc` stay below the next value of `acc` at their place. -/
theorem foldl_imms_lt (imms : List (BitVec 10)) (acc : Nat) :
    imms.foldl (fun acc p => acc * 1024 + p.toNat) acc < (acc + 1) * 2 ^ (10 * imms.length) := by
  induction imms generalizing acc with
  | nil => simp
  | cons p imms ih =>
    calc (p :: imms).foldl (fun acc p => acc * 1024 + p.toNat) acc
        < (acc * 1024 + p.toNat + 1) * 2 ^ (10 * imms.length) := ih _
      _ ≤ ((acc + 1) * 2 ^ 10) * 2 ^ (10 * imms.length) := Nat.mul_le_mul_right _ (by have := p.isLt; omega)
      _ = (acc + 1) * 2 ^ (10 * (p :: imms).length) := by rw [mul_assoc, ← pow_add, List.length_cons]; ring_nf

/-- `k` IMM words above a field of `w` bits give `w + 10k` bits. -/
theorem joinImm_lt (imms : List (BitVec 10)) {w field : Nat} (small : field < 2 ^ w) :
    joinImm imms w field < 2 ^ (w + 10 * imms.length) := by
  have above := foldl_imms_lt imms 0
  rw [zero_add, one_mul] at above
  calc joinImm imms w field
      < (imms.foldl (fun acc p => acc * 1024 + p.toNat) 0 + 1) * 2 ^ w := by unfold joinImm; rw [add_mul, one_mul]; omega
    _ ≤ 2 ^ (10 * imms.length) * 2 ^ w := Nat.mul_le_mul_right _ above
    _ = 2 ^ (w + 10 * imms.length) := by rw [← pow_add, add_comm]

/-- A word shifted down arithmetically to `n` bits is an `n`-bit value sign-extended. -/
theorem fitsSigned_sshiftRight {n : Nat} (pos : 0 < n) (le : n ≤ 64) (x : Word) :
    fitsSigned n (x.sshiftRight (64 - n)) = true := by
  have low := x.le_toInt
  have high := x.toInt_lt
  have scale : (2 : Int) ^ 63 = 2 ^ (n - 1) * 2 ^ (64 - n) := by rw [← pow_add]; congr 1; omega
  have pos : (0 : Int) < 2 ^ (64 - n) := by positivity
  simp only [fitsSigned, decide_eq_true_eq, BitVec.toInt_sshiftRight, Int.shiftRight_eq_div_pow]
  push_cast
  constructor
  · rw [Int.le_ediv_iff_mul_le pos, neg_mul, ← scale]; simpa using low
  · rw [Int.ediv_lt_iff_lt_mul pos, ← scale]; simpa using high

/-- An immediate that fits beside `k` IMM words needs no more of them: `leastImm` tries the counts from 0 on and stops at `k` at
the latest. -/
theorem leastImm_le {signed : Bool} {w lo k : Nat} {v : Word} (from_le : lo ≤ k) (le : k ≤ 4)
    (fit : fits signed (w + 10 * k) v = true) : leastImm signed w lo v ≤ k := by
  unfold leastImm
  interval_cases k <;> split_ifs <;> simp_all

/-! ### The fields of a head (R141, R144) -/

/-- What the fields keep of the words they come from: no more than four words before the base word, a register number above 7
or a nonzero C only beside a REG word, an immediate of as many bits as its words give, an IMM and a PAGE word in layout C, and
the two jumps' layouts apart. -/
structure Fields.Formed (f : Fields) : Prop where
  room : f.k + (f.page != 0).toNat + f.reg.toNat ≤ 4
  reg_d : high f.d = true → f.reg = true
  reg_a : high f.a = true → f.reg = true
  reg_b : high f.b = true → f.reg = true
  reg_c : f.c ≠ 0 → f.reg = true
  imm : f.imm.toNat < 2 ^ (f.layout.width + 10 * f.k)
  pair : f.layout = .c → 1 ≤ f.k ∧ f.page.toNat = 1
  jump : f.layout = .j → f.reg = false ∧ f.sel.toNat < 2
  jumpReg : f.layout = .jr → 2 ≤ f.sel.toNat

/-- A register number with the high bits `x` is above 7 only when they are not 0. -/
theorem high_append {x : BitVec 2} {y : BitVec 3} (h : high (x ++ y) = true) : x ≠ 0 := by
  rintro rfl
  revert y
  decide

theorem reg_isSome_of_high {r : Option (BitVec 10)} {lo : Nat} {y : BitVec 3}
    (h : high ((r.getD 0).extractLsb' lo 2 ++ y) = true) : r.isSome = true := by
  cases r with
  | none => exact absurd (by simp) (high_append h)
  | some p => rfl

theorem reg_isSome_of_c {r : Option (BitVec 10)} (h : (r.getD 0).extractLsb' 0 4 ≠ 0) : r.isSome = true := by
  cases r with
  | none => exact absurd (by simp) h
  | some p => rfl

theorem toNat_ofNat_joinImm_lt (imms : List (BitVec 10)) {w field : Nat} (small : field < 2 ^ w) :
    (BitVec.ofNat 64 (joinImm imms w field)).toNat < 2 ^ (w + 10 * imms.length) := by
  rw [BitVec.toNat_ofNat]
  exact (Nat.mod_le _ _).trans_lt (joinImm_lt imms small)

/-- Which pages are of layout C, and which base words of layouts J and JR. -/
theorem layoutOf_spec {major page top : Nat} {l : Layout} (h : layoutOf major page top = some l) :
    (l = .c → page = 1) ∧ (l = .j → 12 ≤ top ∧ top < 14) ∧ (l = .jr → 14 ≤ top) := by
  unfold layoutOf at h
  split at h
  case h_16 => cases h
  all_goals split_ifs at h <;> cases h <;> simp_all

/-- A jump's op is the low half of the four bits that select its layout. -/
theorem toNat_jumpOp (w : BitVec 16) :
    (0#1 ++ w.extractLsb' 8 2 : BitVec 3).toNat = (w.extractLsb' 8 4).toNat % 4 := by
  simp only [BitVec.toNat_append, BitVec.extractLsb'_toNat, BitVec.toNat_ofNat, Nat.zero_mod, Nat.zero_shiftLeft,
    Nat.zero_or]
  omega

theorem high_zero_elim {p : Prop} (h : high 0 = true) : p := absurd h (by decide)

/-- A check that did not refuse passed, and what follows it gave the result. -/
theorem ok_of_unless_error {p : Prop} [Decidable p] {e : DecodeError} {r : Except DecodeError Fields} {f : Fields}
    (h : (if p then .error e else r) = .ok f) : ¬p ∧ r = .ok f := by
  split at h
  · cases h
  · next passed => exact ⟨passed, h⟩

theorem split_formed {h : Head} {f : Fields} (pre : h.preWords ≤ 4) (done : split h = .ok f) : f.Formed := by
  simp only [Sys2Proof.split] at done
  split at done
  · cases done
  · next l found =>
    have jumpOp := toNat_jumpOp h.base
    have top := (h.base.extractLsb' 8 4).isLt
    obtain ⟨pageC, topJ, topJr⟩ := layoutOf_spec found
    cases l <;> simp only at done
    case r =>
      obtain ⟨-, ⟨⟩⟩ := ok_of_unless_error done
      exact ⟨pre, reg_isSome_of_high, reg_isSome_of_high, reg_isSome_of_high, reg_isSome_of_c, by simp,
        nofun, nofun, nofun⟩
    case i | m =>
      obtain ⟨-, ⟨⟩⟩ := ok_of_unless_error done
      exact ⟨pre, reg_isSome_of_high, reg_isSome_of_high, high_zero_elim, reg_isSome_of_c,
        toNat_ofNat_joinImm_lt _ (BitVec.isLt _), nofun, nofun, nofun⟩
    case b =>
      obtain ⟨-, ⟨⟩⟩ := ok_of_unless_error done
      exact ⟨pre, high_zero_elim, reg_isSome_of_high, high_zero_elim, reg_isSome_of_c,
        toNat_ofNat_joinImm_lt _ (BitVec.isLt _), nofun, nofun, nofun⟩
    case j =>
      obtain ⟨noReg, ⟨⟩⟩ := ok_of_unless_error done
      obtain ⟨above, below⟩ := topJ rfl
      exact ⟨pre, high_zero_elim, high_zero_elim, high_zero_elim, reg_isSome_of_c,
        toNat_ofNat_joinImm_lt _ (BitVec.isLt _), nofun, fun _ => ⟨by simpa using noReg, jumpOp.trans_lt (by omega)⟩, nofun⟩
    case jr =>
      obtain ⟨-, ⟨⟩⟩ := ok_of_unless_error done
      have above := topJr rfl
      exact ⟨pre, high_zero_elim, reg_isSome_of_high, high_zero_elim, reg_isSome_of_c,
        toNat_ofNat_joinImm_lt _ (BitVec.isLt _), nofun, nofun, fun _ => le_of_le_of_eq (by omega) jumpOp.symm⟩
    case c =>
      obtain ⟨-, done⟩ := ok_of_unless_error done
      obtain ⟨-, done⟩ := ok_of_unless_error done
      obtain ⟨imms, ⟨⟩⟩ := ok_of_unless_error done
      exact ⟨pre, high_zero_elim, reg_isSome_of_high, reg_isSome_of_high, reg_isSome_of_c,
        toNat_ofNat_joinImm_lt _ (by decide), fun _ => ⟨List.length_pos_iff.2 imms, pageC rfl⟩, nofun, nofun⟩

/-! ### The immediates of an instruction (R85, R140) -/

namespace Fields.Formed

variable {f : Fields} (formed : f.Formed)
include formed

theorem k_le : f.k ≤ 4 := by have := formed.room; omega

theorem width_le : f.layout.width + 10 * f.k ≤ 64 := by
  have : f.layout.width ≤ 8 := by cases f.layout <;> decide
  have := formed.k_le
  omega

theorem reg_da (h : (high f.d || high f.a) = true) : f.reg = true :=
  (Bool.or_eq_true_iff.1 h).elim formed.reg_d formed.reg_a

theorem reg_ab (h : (high f.a || high f.b) = true) : f.reg = true :=
  (Bool.or_eq_true_iff.1 h).elim formed.reg_a formed.reg_b

/-- A ring handle above 7 is a register number above 7. -/
theorem reg_handle (h : (decide (8 ≤ (f.d.setWidth 4).toNat) || high f.a) = true) : f.reg = true := by
  refine (Bool.or_eq_true_iff.1 h).elim (fun above => formed.reg_d ?_) formed.reg_a
  simp only [high, decide_eq_true_eq, BitVec.toNat_setWidth] at above ⊢
  exact above.trans (Nat.mod_le _ _)

/-- A mask other than k0 comes from a nonzero C. -/
theorem reg_mask (h : (high f.d || high f.a || f.c.setWidth 3 != 0) = true) : f.reg = true := by
  refine (Bool.or_eq_true_iff.1 h).elim formed.reg_da fun mask => formed.reg_c ?_
  rintro zero
  simp [zero] at mask

/-- An immediate of the bits that its words give has an encoding beside the PAGE word of its page and the REG word. -/
theorem immOk {signed reg : Bool} {lo : Nat} {v : Word} (from_le : lo ≤ f.k)
    (fit : fits signed (f.layout.width + 10 * f.k) v = true) (regWord : reg = true → f.reg = true) :
    immOk signed f.layout.width lo (f.page.toNat != 0) reg v = true := by
  have least := leastImm_le from_le formed.k_le fit
  have room := formed.room
  have page : (f.page.toNat != 0) = (f.page != 0) := by
    rw [Bool.eq_iff_iff]
    simp [← BitVec.toNat_inj]
  have reg_le : reg.toNat ≤ f.reg.toNat := Bool.toNat_le_toNat regWord
  rw [Sys2Proof.immOk, decide_eq_true_eq, page]
  omega

theorem fits_simm (pos : 0 < f.layout.width + 10 * f.k) : fits true (f.layout.width + 10 * f.k) f.simm = true :=
  fitsSigned_sshiftRight pos formed.width_le _

theorem immOk_simm {reg : Bool} (pos : 0 < f.layout.width) (regWord : reg = true → f.reg = true) :
    Sys2Proof.immOk true f.layout.width 0 (f.page.toNat != 0) reg f.simm = true :=
  formed.immOk (Nat.zero_le _) (formed.fits_simm (by omega)) regWord

theorem immOk_imm {reg : Bool} (regWord : reg = true → f.reg = true) :
    Sys2Proof.immOk false f.layout.width 0 (f.page.toNat != 0) reg f.imm = true :=
  formed.immOk (Nat.zero_le _) (decide_eq_true formed.imm) regWord

/-- One IMM word beside layout I's field gives 16 bits. -/
theorem imm_le_of_one (l : f.layout = .i) (one : f.k ≤ 1) : f.imm.toNat ≤ 0xFFFF := by
  have bits : f.layout.width + 10 * f.k ≤ 16 := by rw [l, Layout.width]; omega
  exact Nat.le_of_lt_succ (formed.imm.trans_le (Nat.pow_le_pow_right (by decide) bits))

end Fields.Formed

theorem immOk_unpaged {signed paged reg : Bool} {w lo : Nat} {v : Word} (ok : immOk signed w lo paged reg v = true) :
    immOk signed w lo false reg v = true := by
  simp only [immOk, decide_eq_true_eq, Bool.toNat_false] at ok ⊢
  omega

/-! ### The opcode map, layout R (R196, R200 to R209) -/

section
variable {f : Fields}
open Form

-- The operands of such a row are registers, which every number fits, so a row has its encoding as it stands: once its form is
-- unfolded, the well-formedness and the encoder's entry of its instruction are read off.

theorem hget_encodes : Yields Instr.Encodes (hget f) := by
  rw [hget, yields_ite]
  intro
  split <;> simp only [yields_ok, yields_error] <;> exact ⟨rfl, rfl⟩

theorem fence_encodes : Yields Instr.Encodes (fence f) := by
  rw [fence, yields_ite]
  intro
  split <;> simp only [yields_ok, yields_error] <;> exact ⟨rfl, rfl⟩

theorem vcvt_encodes : Yields Instr.Encodes (vcvt f) := by
  rw [vcvt, yields_ite]
  intro
  split <;> simp only [yields_ok, yields_error] <;> exact ⟨rfl, rfl⟩

theorem gcancel_encodes : Yields Instr.Encodes (gcancel f) := by
  rw [gcancel, yields_ite]
  intro
  split <;> simp only [yields_ok, yields_error] <;> exact ⟨rfl, rfl⟩

theorem barInit_encodes : Yields Instr.Encodes (barInit f) := by
  rw [barInit, yields_ite]
  intro
  split <;> simp only [yields_ok, yields_error] <;> exact ⟨rfl, rfl⟩

theorem interpR0_encodes : Yields Instr.Encodes (interpR0 f) := by
  unfold interpR0
  split <;> simp only [sss, sssc, yields_need, yields_ok, yields_error] <;> intros <;> exact ⟨rfl, rfl⟩

theorem interpR5_encodes : Yields Instr.Encodes (interpR5 f) := by
  unfold interpR5
  split <;> simp only [sss, sssc, ss, yields_need, yields_ok, yields_error] <;> intros <;> exact ⟨rfl, rfl⟩

theorem interpR6_encodes : Yields Instr.Encodes (interpR6 f) := by
  unfold interpR6
  split <;> simp only [sss, sssc, ss, yields_need, yields_ok, yields_error] <;> intros <;> exact ⟨rfl, rfl⟩

theorem interpR7_encodes : Yields Instr.Encodes (interpR7 f) := by
  unfold interpR7
  split <;> simp only [sss, sssc, zss, chbind, fence_encodes, yields_need, yields_ok, yields_error] <;>
    intros <;> exact ⟨rfl, rfl⟩

theorem interpR8_encodes : Yields Instr.Encodes (interpR8 f) := by
  unfold interpR8
  split <;> simp only [vvvm, vvm, kvvm, kkk, skm, yields_need, yields_error] <;> intros <;> exact ⟨rfl, rfl⟩

theorem interpR9_encodes : Yields Instr.Encodes (interpR9 f) := by
  unfold interpR9
  split <;> simp only [vvvm, ks, yields_need, yields_error] <;> intros <;> exact ⟨rfl, rfl⟩

theorem interpR10_encodes : Yields Instr.Encodes (interpR10 f) := by
  unfold interpR10
  split <;> simp only [vvm, sss, sssc, hss, vhs, vcvt_encodes, yields_need, yields_ok, yields_error] <;>
    intros <;> exact ⟨rfl, rfl⟩

theorem interpR11_encodes : Yields Instr.Encodes (interpR11 f) := by
  unfold interpR11
  split <;> simp only [nullary, nullaryBare, wh, ths, thsh, ht, t, yields_need, yields_error] <;> intros <;> exact ⟨rfl, rfl⟩

theorem interpR12_encodes : Yields Instr.Encodes (interpR12 f) := by
  unfold interpR12
  split <;> simp only [sssc, zs, hss, ss, hget_encodes, yields_need, yields_ok, yields_error] <;> intros <;> exact ⟨rfl, rfl⟩

theorem interpR13_encodes : Yields Instr.Encodes (interpR13 f) := by
  unfold interpR13
  split <;> simp only [ss, zss, zs, s, nullary, yields_need, yields_error] <;> intros <;> exact ⟨rfl, rfl⟩

theorem interpR15_encodes : Yields Instr.Encodes (interpR15 f) := by
  unfold interpR15
  split <;> simp only [ss, zssc, s, nullary, barWait, barVote, gcancel_encodes, barInit_encodes,
    yields_need, yields_ok, yields_error] <;>
    intros <;> exact ⟨rfl, rfl⟩

end

/-! ### The opcode map, layouts with an immediate (R197 to R199, R202, R204, R207 to R209) -/

section
variable {f : Fields}
open Form

theorem yields_br {P : Instr → Prop} {k : BrForm → SReg → Word → Instr} (row : ∀ fm, P (k fm f.a f.simm)) :
    Yields P (br k f) := by
  unfold br
  split
  · exact yields_need.2 fun _ => row _
  · exact yields_error

theorem yields_br2 {P : Instr → Prop} {k : BrForm → SReg → SReg → Word → Instr}
    (row : ∀ fm, P (k fm f.a f.b f.simm)) : Yields P (br2 k f) := by
  unfold br2
  split
  · exact yields_need.2 fun _ => row _
  · exact yields_error

-- What an immediate and its registers need is one fact per way of reading them; a row's page, put in for `p`, says whether it
-- takes a PAGE word.
variable (formed : f.Formed)
include formed

theorem interpEngI_encodes (l : f.layout = .i) : Yields Instr.Encodes (interpEngI f) := by
  have handle := formed.immOk_imm formed.reg_handle
  have plain := formed.immOk_imm formed.reg_da
  rw [l] at handle plain
  unfold interpEngI
  generalize f.page.toNat = p at handle plain ⊢
  split
  case h_1 | h_2 | h_3 | h_4 => exact yields_need.2 fun _ => ⟨handle, rfl⟩
  case h_5 => exact yields_need.2 fun _ => ⟨plain, rfl⟩
  case h_6 => exact yields_error

theorem interpEngM_encodes (l : f.layout = .m) : Yields Instr.Encodes (interpEngM f) := by
  have masked := formed.immOk_simm (by rw [l]; decide) formed.reg_mask
  rw [l] at masked
  unfold interpEngM
  generalize f.page.toNat = p at masked ⊢
  split
  case h_5 => exact yields_error
  all_goals exact yields_need.2 fun _ => ⟨masked, rfl⟩

theorem interpI_encodes (l : f.layout = .i) : Yields Instr.Encodes (interpI f) := by
  have engine := interpEngI_encodes formed l
  have signed := formed.immOk_simm (by rw [l]; decide) formed.reg_da
  have signedD := formed.immOk_simm (by rw [l]; decide) formed.reg_d
  have unsigned := formed.immOk_imm formed.reg_da
  rw [l] at signed signedD unsigned
  unfold interpI
  generalize f.page.toNat = p at signed signedD unsigned ⊢
  split
  case h_1 | h_2 | h_3 | h_4 | h_8 | h_23 => exact yields_need.2 fun _ => ⟨signed, rfl⟩
  case h_9 => exact yields_need.2 fun _ => ⟨signedD, rfl⟩
  case h_19 | h_20 => exact engine
  -- The shifts, cget, cput and hjoin check the bound themselves, and trap checks the number of IMM words.
  case h_5 | h_6 | h_7 | h_21 | h_22 | h_24 => exact yields_need.2 fun ok => ⟨(Bool.and_eq_true_iff.1 ok).2, rfl⟩
  case h_25 =>
    refine yields_need.2 fun ok => ⟨?_, rfl⟩
    exact decide_eq_true (formed.imm_le_of_one l (of_decide_eq_true (Bool.and_eq_true_iff.1 ok).2))
  case h_30 => exact yields_error
  all_goals exact yields_need.2 fun _ => ⟨unsigned, rfl⟩

theorem interpM_encodes (l : f.layout = .m) : Yields Instr.Encodes (interpM f) := by
  have engine := interpEngM_encodes formed l
  have signed := formed.immOk_simm (by rw [l]; decide) formed.reg_da
  rw [l] at signed
  unfold interpM
  generalize f.page.toNat = p at signed ⊢
  split
  case h_52 => exact engine
  case h_53 => exact yields_error
  all_goals exact yields_need.2 fun _ => ⟨signed, rfl⟩

theorem interpB_encodes (l : f.layout = .b) : Yields Instr.Encodes (interpB f) := by
  have signed := formed.immOk_simm (by rw [l]; decide) formed.reg_a
  rw [l] at signed
  have plain := immOk_unpaged signed
  unfold interpB
  split
  case h_5 => exact yields_error
  all_goals exact yields_br fun _ => ⟨plain, rfl⟩

theorem interpC_encodes (l : f.layout = .c) : Yields Instr.Encodes (interpC f) := by
  obtain ⟨imm, page⟩ := formed.pair l
  have signed := formed.immOk imm (formed.fits_simm (by omega)) formed.reg_ab
  rw [l, page] at signed
  unfold interpC
  split
  case h_7 => exact yields_error
  all_goals exact yields_br2 fun _ => ⟨signed, rfl⟩

/-- Layout J gives only the jumps without a register, layout JR only those with one. -/
theorem interpJ_encodes (l : f.layout = .j ∨ f.layout = .jr) : Yields Instr.Encodes (interpJ f) := by
  have pos : 0 < f.layout.width := by rcases l with l | l <;> rw [l] <;> decide
  unfold interpJ
  rcases l with l | l
  · obtain ⟨-, below⟩ := formed.jump l
    have signed := immOk_unpaged (formed.immOk_simm (reg := false) pos nofun)
    rw [l] at signed
    split
    case h_1 | h_2 => exact yields_need.2 fun _ => ⟨signed, rfl⟩
    case h_3 | h_4 => omega
    case h_5 => exact yields_error
  · have above := formed.jumpReg l
    have signed := immOk_unpaged (formed.immOk_simm pos formed.reg_a)
    rw [l] at signed
    split
    case h_1 | h_2 => omega
    case h_3 | h_4 => exact yields_need.2 fun _ => ⟨signed, rfl⟩
    case h_5 => exact yields_error

/-- What the opcode map gives for the fields of a head has an encoding. -/
theorem interp_encodes : Yields Instr.Encodes (interp f) := by
  unfold interp
  split
  case h_1 =>
    split
    case h_1 => exact interpR0_encodes
    case h_2 => exact interpR5_encodes
    case h_3 => exact interpR6_encodes
    case h_4 => exact interpR7_encodes
    case h_5 => exact interpR8_encodes
    case h_6 => exact interpR9_encodes
    case h_7 => exact interpR10_encodes
    case h_8 => exact interpR11_encodes
    case h_9 => exact interpR12_encodes
    case h_10 => exact interpR13_encodes
    case h_11 => exact interpR15_encodes
    case h_12 => exact yields_error
  case h_2 l => exact interpI_encodes formed l
  case h_3 l => exact interpM_encodes formed l
  case h_4 l => exact interpB_encodes formed l
  case h_5 l => exact interpJ_encodes formed (.inl l)
  case h_6 l => exact interpJ_encodes formed (.inr l)
  case h_7 l => exact interpC_encodes formed l

end

/-! ### The decoder (R139, R193) -/

/-- What decodes went through the three stages of the decoder. -/
theorem decodeWords_ok {ws : List (BitVec 16)} {i : Instr} (decoded : decodeWords ws = .ok i) :
    ∃ h f, parseWords ws = .ok h ∧ split h = .ok f ∧ interp f = .ok i := by
  unfold decodeWords at decoded
  cases parsed : parseWords ws with
  | error e => simp [parsed, bind, Except.bind] at decoded
  | ok h =>
    cases done : split h with
    | error e => simp [parsed, done, bind, Except.bind] at decoded
    | ok f => exact ⟨h, f, rfl, done, by simpa [parsed, done, bind, Except.bind] using decoded⟩

/-- Settles O27: four words at most stand before a base word, so the fields keep room for what the instruction needs, and every
row of the opcode map gives an instruction that the encoder lists. -/
theorem decodeIsWellFormed : Obligations.DecodeIsWellFormed := by
  intro ws i decoded
  obtain ⟨h, f, parsed, done, given⟩ := decodeWords_ok decoded
  have formed := split_formed (parseWords_preWords_le parsed) done
  have encodes := interp_encodes formed i given
  exact ⟨encodes.1, encodes.encode_ne_none⟩

end Sys2Proof
end
